-- ==== Sys2Proof/Word.lean ====
section
/-! DEFINITION. The word types of the model: bytes, byte strings, and the indices of the part's bays. -/

namespace Sys2Proof

/-- One byte of a link frame. -/
abbrev Byte := BitVec 8

/-- A byte string: a frame, a payload, a recipe page, a serialized record. -/
abbrev Bytes := List Byte

/-- One of the four bays, 0..3 (spec 00 "States and indices"). -/
abbrev Bay := Fin 4

/-- A recipe slot, 0..5 (R41). -/
abbrev SlotIx := Fin 6

/-- An axle record, 0..11 (R24). -/
abbrev RecIx := Fin 12

/-- A channel entry, 0..63 (R58). -/
abbrev EntryIx := Fin 64

/-- An analysis lane, 0..7 (R105). -/
abbrev LaneIx := Fin 8

end Sys2Proof
end

