-- ==== Sys2Proof/Syntax.lean ====
section
/-! DEFINITION. The commands of the part: one constructor for each row of spec/opcode_table.json. -/

namespace Sys2Proof

/-- The two link ports (R158): port F faces the concentrator, port C the cell controller. -/
inductive Port where
  | f | c
  deriving DecidableEq, Repr

/-- One block's share of an accepted sample frame, or of a missing-frame count, for one bay (R68):
`enter` READY to RUNNING (R7), `fixture` R8, `stale` R9, `ris` R91, R93, R95, `ltu` R131 to R135, `oae` R112. -/
inductive FrameUnit where
  | enter | fixture | stale | ris | ltu | oae
  deriving DecidableEq, Repr

/-- A block's share of a frame for one bay. -/
abbrev FrameTask := Bay × FrameUnit

/-- One block's share of a ms tick (R169): `lfe` R161, `spu` R81, `risCount` the RIS's drive time and HOLD
counting (R94, R102), `risPhase` its ramp and phase timer (R89, R91, R92, R99), `byc` R14, `alloc` R109,
`window` R111 and R115, `ltu` R132 to R138, `stc` R153. -/
inductive TickUnit where
  | lfe
  | risCount (b : Bay)
  | risPhase (b : Bay)
  | spu (b : Bay)
  | alloc
  | window (b : Bay)
  | ltu (b : Bay)
  | byc (b : Bay)
  | stc
  deriving DecidableEq, Repr

/-- The commands, one for each row of the table. A management command carries no operand of its own: its
arguments are in the request at the head of the request queue, which MGMT_REQ_RECEIVE put there (R163, R178).
The lists of tasks, units and bays fix an order the spec leaves open; an empty list means the default order. -/
inductive Instr where
  | powerOn (strap : BitVec 6)
  | msTick (units : List TickUnit) (bays : List Bay)
  | sampleFrame (frame : Bytes) (tasks : List FrameTask)
  | outputFrame (frame : Bytes)
  | mgmtReqReceive (frame : Bytes)
  | framePassThrough (port : Port) (frame : Bytes)
  | responseInsert
  | reportPartInsert
  | resetApply
  | identify
  | setCellParams
  | readCellParams
  | loadChannelMap
  | loadOutputMap
  | readChannel
  | recipePage
  | recipeCommit
  | recipeErase
  | recipeStatus
  | bayStart
  | bayAbort
  | bayUnload
  | bayLock
  | bayUnlock
  | ackAlarms
  | readBay
  | readRecord
  | releaseRecord
  | counterSetup
  | counterSnapshot
  | resetPart
  | unknownCommand
  | standstillJudged (bay : Bay)
  | stopTimeout (bay : Bay)
  | linkLoss (bays : List Bay)
  | settleTimeout (bay : Bay)
  | dwellEnd (bay : Bay)
  | rerunEnd (bay : Bay)
  | maxHoldTime (bay : Bay)
  | laneWaitLimit (bays : List Bay)
  | windowLimit (bay : Bay)
  | coolWaitLimit (bay : Bay)
  | fillTimeout (bay : Bay)
  | leakSettleEnd (bay : Bay)
  | leakMeasureEnd (bay : Bay)
  | ventEnd (bay : Bay)
  deriving DecidableEq, Repr

end Sys2Proof
end

