-- ==== Sys2Proof/Decode.lean ====
section
/-! DEFINITION. The table gives no row any bits ("fields": []), so no word spells a command. -/

namespace Sys2Proof

/-- The command a word spells by the table's bits: none, for every word. -/
def decodeTableWord (_nbits _w : Nat) : Option Instr := none

end Sys2Proof
end

