-- ==== Sys2Proof/Machine/Enums.lean ====
section
/-! DEFINITION. The enumerations the spec names (R171 and the rules cited at each). -/

namespace Sys2Proof.Machine

/-- The six bay states (R1). -/
inductive BayState where
  | vacant | ready | running | stopping | complete | locked
  deriving DecidableEq, Repr

/-- The sub-phases of RUNNING (R3). -/
inductive SubPhase where
  | leakPre | runin | leakPost
  deriving DecidableEq, Repr

/-- A recipe's leak order (R46). -/
inductive LeakOrder where
  | none | before | after
  deriving DecidableEq, Repr

/-- The abort causes (R2). -/
inductive Cause where
  | operator | overtemp | overload | settle | sensor | fixture | link | overpressure
  deriving DecidableEq, Repr

/-- The eleven bay alarm flags, in the order of the alarm flag word (R20, R171). -/
inductive BayAlarm where
  | overtempWarn | overtemp | overload | settle | sensor | fixture | link | overpressure
  | stopTimeout | laneWait | qstop
  deriving DecidableEq, Repr

/-- Load modes (R23). -/
inductive LoadMode where
  | fwdDrive | fwdCoast | revDrive | revCoast
  deriving DecidableEq, Repr

/-- Channel roles (R58). -/
inductive Role where
  | tacho | vibA | vibB | oilTemp | housingTemp | torque | press1 | press2 | press3
  | stat | ambientMic | baro | cellStat
  deriving DecidableEq, Repr

/-- Channel kinds (R58). -/
inductive Kind where
  | vib | tacho | analog | stat
  deriving DecidableEq, Repr

/-- The owner of a channel entry (R58). -/
inductive Owner where
  | bay (b : Bay)
  | cell
  deriving DecidableEq, Repr

/-- What the egress arbiter has chosen for an insertion opportunity (R147). -/
inductive Offer where
  | response | report
  deriving DecidableEq, Repr

/-- Step kinds (R48). -/
inductive StepKind where
  | run | measure | stop
  deriving DecidableEq, Repr

/-- The VIB set of a MEASURE step; `off` is what the other kinds hold (R48). -/
inductive VibSet where
  | off | a | b | ab
  deriving DecidableEq, Repr

/-- Cavity ids (R51). -/
inductive CavityId where
  | carrier | hubL | hubR
  deriving DecidableEq, Repr

/-- RIS step phases (R87). -/
inductive RisPhase where
  | idle | reverseStop | ramp | settle | dwell | measureWait | measure | rerun | stopWait | rundown
  deriving DecidableEq, Repr

/-- LTU cavity phases (R130). -/
inductive LtuPhase where
  | idle | coolWait | fill | settle | measure | vent | done
  deriving DecidableEq, Repr

/-- What follows a vent (R130). -/
inductive AfterVent where
  | refill | next
  deriving DecidableEq, Repr

/-- Link states (R157). -/
inductive LinkState where
  | down | up | lost
  deriving DecidableEq, Repr

/-- The states of a record that is not FREE (R24). -/
inductive RecState where
  | opened | queued | sent
  deriving DecidableEq, Repr

/-- Verdicts (R35). -/
inductive Verdict where
  | pass | fail | incomplete | aborted
  deriving DecidableEq, Repr

/-- Final results of a noise entry (R28). -/
inductive NoiseResult where
  | pass | fail | incomplete
  deriving DecidableEq, Repr

/-- NOMEAS reasons (R28). -/
inductive NomeasReason where
  | laneWait | fewBlocks | aborted
  deriving DecidableEq, Repr

/-- Line states (R128). -/
inductive LineState where
  | pass | fail | masked | skipped
  deriving DecidableEq, Repr

/-- The VIB lane a line result reports (R29). -/
inductive VibLane where
  | a | b
  deriving DecidableEq, Repr

/-- Roles of an analysis lane (R105). -/
inductive LaneRole where
  | vibA | vibB | ambient
  deriving DecidableEq, Repr

/-- Results of a leak entry (R31). -/
inductive LeakResult where
  | pass | fail | gross | incomplete
  deriving DecidableEq, Repr

/-- Recipe slot states (R41). -/
inductive SlotState where
  | empty | loading | valid | invalid
  deriving DecidableEq, Repr

/-- Validation failure reasons (R41, R45). -/
inductive Reason where
  | range | count | cavityConflict | size
  deriving DecidableEq, Repr

/-- Counter events (R150, R152). -/
inductive CounterEvent where
  | none | axleDone | noiseAttempt | leakAttempt | laneGrant | blockDiscard | frameError | holdMs
  | laneWaiting | spoolDepth
  deriving DecidableEq, Repr

/-- Counter modes (R150). -/
inductive CounterMode where
  | count | threshold | edge
  deriving DecidableEq, Repr

/-- Result names of a counter's result set, in the order of the result set byte (R152, R171). -/
inductive ResultName where
  | pass | fail | incomplete | aborted | retry | nomeas | gross | invalid
  deriving DecidableEq, Repr

/-- The stored cell alarm flags, in the order of the cell mask (R168, R177). -/
inductive CellAlarm where
  | mgmtDrop | seqError | statusShort | outputShort
  deriving DecidableEq, Repr

/-- Status codes of management responses (R164). -/
inductive Status where
  | ok | unknownCommand | badArg | wrongState | busy | pinned | noRecipe | tableFull | duplicate
  | locked | mapMismatch | linkDown | pagesMissing | notFound | serialMismatch
  deriving DecidableEq, Repr

/-- Management commands (R164). -/
inductive Command where
  | identify | setCellParams | readCellParams | loadChannelMap | loadOutputMap | readChannel
  | recipePage | recipeCommit | recipeErase | recipeStatus | bayStart | bayAbort | bayUnload
  | bayLock | bayUnlock | ackAlarms | readBay | readRecord | releaseRecord | counterSetup
  | counterSnapshot | resetPart
  deriving DecidableEq, Repr

end Sys2Proof.Machine
end

