-- ==== Sys2Proof/Config.lean ====
section
/-! DEFINITION. What the spec leaves to the part or does not state. A constant without a body is a free value:
nothing can be proved of it, and a claim holds whatever it is. -/

namespace Sys2Proof.Config

open Sys2Proof.Machine

/-- The unit number, "64 bits, fixed for each part at manufacture" (R165; log entry 11). -/
opaque unitNumber : BitVec 64

/-- The link code of a recipe slot state. R171 gives codes only to the enumerations it names and slot state is
not among them (log entry 9). -/
opaque slotStateCode : SlotState → Byte

/-- The link code of a validation reason, unstated like that of a slot state (log entry 9). -/
opaque reasonCode : Reason → Byte

/-- What leaves the port for a SAMPLE or OUTPUT frame whose bytes end before its check is complete. R159 replaces
"its check field", which such a frame does not have whole (log entry 10). -/
opaque truncatedFrame : Bytes → Bytes

/-- The codes IDENTIFY returns (R165). -/
def vendorCode : Nat := 0x0531
def partCode : Nat := 0x0A04
def revision : Nat := 1

end Sys2Proof.Config
end

