-- ==== Sys2Proof/Machine/Operands.lean ====
section
/-! DEFINITION. Reading and writing fields: little-endian bytes, the payload bit stream, two's complement, clamping
(spec 00 "Arithmetic words" and "Byte and bit order"; 12 R178). -/

namespace Sys2Proof.Machine

/-- The number a byte string holds, least significant byte first. Bit k of it is bit k of the payload's bit stream. -/
def leNat : Bytes → Nat
  | [] => 0
  | b :: bs => b.toNat + 256 * leNat bs

/-- The n bytes of a number, least significant first; higher digits are dropped. -/
def leBytes : (n v : Nat) → Bytes
  | 0, _ => []
  | n + 1, v => BitVec.ofNat 8 v :: leBytes n (v / 256)

/-- The n bytes of a signed number in two's complement. -/
def signedBytes (n : Nat) (v : Int) : Bytes :=
  leBytes n (v % 256 ^ n).toNat

/-- The n-byte number at byte offset i; a byte beyond the end counts as 0. -/
def natAt (bs : Bytes) (i n : Nat) : Nat :=
  leNat ((bs.drop i).take n)

/-- The byte at offset i; 0 beyond the end. -/
def byteAt (bs : Bytes) (i : Nat) : Nat :=
  (bs.getD i 0).toNat

/-- An n-bit raw value read as two's complement. -/
def signedOf (n raw : Nat) : Int :=
  if 2 ^ (n - 1) ≤ raw then (raw : Int) - 2 ^ n else raw

/-- The signed n-byte number at byte offset i. -/
def intAt (bs : Bytes) (i n : Nat) : Int :=
  signedOf (8 * n) (natAt bs i n)

/-- Stream bits p to p + n − 1 of a payload given as `leNat` of its bytes, bit p least significant (R62). -/
def bitField (stream p n : Nat) : Nat :=
  (stream >>> p) % 2 ^ n

/-- "clamp saturates a value to the stated range". -/
def clampInt (lo hi v : Int) : Int :=
  max lo (min hi v)

/-- The range −32768..32767 of a signed 16-bit quantity. -/
def clamp16 (v : Int) : Int := clampInt (-32768) 32767 v

/-- The range −2^31..2^31 − 1. -/
def clamp32 (v : Int) : Int := clampInt (-(2 ^ 31)) (2 ^ 31 - 1) v

/-- "yes/no" in a result: 1 or 0. -/
def flagByte (b : Bool) : Byte := if b then 1 else 0

/-- An optional field of width w in a result: "preceded by one presence byte (0 absent, 1 present) and always
occupies its width" (R178). The bytes of an absent field are 0 (log entry 13). -/
def optBytes (w : Nat) : Option Bytes → Bytes
  | none => 0 :: List.replicate w 0
  | some bs => 1 :: bs

/-- A list in a result: "one count byte followed by its items in order" (R178). -/
def listBytes (items : List Bytes) : Bytes :=
  BitVec.ofNat 8 items.length :: items.flatten

/-- A set of flags that has no layout in the chapter and is no set of indices 0..7: "any other set" takes "one count byte followed
by its items in order" (R178). Its items are the flags that are set, each by its number in one byte (log entry 13). -/
def setBytes {w : Nat} (v : BitVec w) : Bytes :=
  listBytes (((List.range w).filter fun k => v.getLsbD k).map fun k => leBytes 1 k)

/-- A byte string padded with ASCII spaces, or cut, to n bytes ("padded with spaces where a field is longer"). -/
def padText (n : Nat) (bs : Bytes) : Bytes :=
  (bs ++ List.replicate n 0x20).take n

/-- Printable ASCII, 0x20..0x7E (R46). -/
def printable (b : Byte) : Bool := 0x20 ≤ b.toNat && b.toNat ≤ 0x7E

/-- A serial's 21 bytes: "one length byte, 1..20, followed by 20 characters, of which those beyond the length are
spaces" (R171). -/
def serialBytes (serial : Bytes) : Bytes :=
  BitVec.ofNat 8 serial.length :: padText 20 serial

/-- The serial read from 21 bytes, when its length is 1..20 and its characters are printable (R4, R39). Characters
beyond the length are not examined (log entry 22). -/
def readSerial (bs : Bytes) : Option Bytes :=
  let n := byteAt bs 0
  let text := (bs.drop 1).take n
  if 1 ≤ n ∧ n ≤ 20 ∧ text.length = n ∧ text.all printable then some text else none

/-- "isqrt is the exact integer square root, rounded down": the root's bits from the highest to the lowest. -/
def isqrtBits (n : Nat) : (k root : Nat) → Nat
  | 0, root => root
  | k + 1, root =>
    if (root + 2 ^ k) ^ 2 ≤ n then isqrtBits n k (root + 2 ^ k) else isqrtBits n k root

def isqrt (n : Nat) : Nat := isqrtBits n (n.log2 / 2 + 1) 0

end Sys2Proof.Machine
end

