-- ==== Sys2Proof/Machine/Frame.lean ====
section
/-! DEFINITION. Link frames: header, payload and frame check (R158, R159, R172, R173). -/

namespace Sys2Proof.Machine

/-- One bit of the frame check register. 0xEDB88320 is the polynomial 0x04C11DB7 in the reflected sense (R159). -/
def checkBit (c : BitVec 32) : BitVec 32 :=
  if c.getLsbD 0 then (c >>> 1) ^^^ 0xEDB88320 else c >>> 1

/-- One byte, least significant bit first. -/
def checkByte (c : BitVec 32) (b : Byte) : BitVec 32 :=
  Nat.repeat checkBit 8 (c ^^^ b.zeroExtend 32)

/-- The frame check of a byte string: initial value all ones, complemented at the end (R159). -/
def frameCheck (bs : Bytes) : BitVec 32 :=
  ~~~ (bs.foldl checkByte (BitVec.allOnes 32))

/-- Header byte 0 (R158), absent in an empty byte string. -/
def frameKind (f : Bytes) : Option Nat := f.head?.map BitVec.toNat

def frameDest (f : Bytes) : Nat := byteAt f 1
def frameSource (f : Bytes) : Byte := f.getD 2 0
def frameSeq (f : Bytes) : BitVec 16 := BitVec.ofNat 16 (natAt f 4 2)
def frameLen (f : Bytes) : Nat := natAt f 6 2

/-- The payload of a frame. -/
def framePayload (f : Bytes) : Bytes := (f.drop 8).take (frameLen f)

/-- The frame's bytes reach the end of its check (R173). -/
def frameWhole (f : Bytes) : Bool := frameLen f + 12 ≤ f.length

/-- The received check equals the computed one; an incomplete frame counts as differing (R159, R173). -/
def frameCheckOk (f : Bytes) : Bool :=
  frameWhole f && natAt f (8 + frameLen f) 4 == (frameCheck (f.take (8 + frameLen f))).toNat

/-- Maximum payload length of a kind (R158). -/
def kindMaxLen (k : Nat) : Nat := if k = 2 then 512 else 1024

/-- A good frame: its check is correct and its payload length is within its kind's maximum (R157). -/
def frameGood (f : Bytes) : Bool :=
  frameCheckOk f && frameLen f ≤ kindMaxLen (byteAt f 0)

/-- Header and payload followed by the check computed over them. -/
def sealFrame (body : Bytes) : Bytes :=
  body ++ leBytes 4 (frameCheck body).toNat

/-- A frame with its payload replaced by one of the same length and its check recomputed (R159). -/
def frameWithPayload (f payload : Bytes) : Bytes :=
  sealFrame (f.take 8 ++ payload)

/-- A frame the AX4 builds (R172, R173): header byte 3 is 0. -/
def buildFrame (kind dest source : Byte) (seq : BitVec 16) (payload : Bytes) : Bytes :=
  sealFrame ([kind, dest, source, 0] ++ leBytes 2 seq.toNat ++ leBytes 2 payload.length ++ payload)

/-- What leaves for a bad SAMPLE or OUTPUT frame: its check field replaced by the complement of the check computed
over the frame as received (R159). A truncated frame has no whole check field (log entry 10). -/
def badFrameOut (f : Bytes) : Bytes :=
  if frameWhole f then
    f.take (8 + frameLen f) ++ leBytes 4 (~~~ frameCheck (f.take (8 + frameLen f))).toNat
  else Config.truncatedFrame f

/-- Payload bytes with `block` written at byte offset `at_` (R72, R73). -/
def overwrite (payload : Bytes) (at_ : Nat) (block : Bytes) : Bytes :=
  payload.take at_ ++ block ++ payload.drop (at_ + block.length)

/-- The command code of a MGMT_REQ payload, when the payload holds it (R177; a broadcast request too short for one is no IDENTIFY,
log entry 38). -/
def requestCode? (payload : Bytes) : Option Nat :=
  if 2 ≤ payload.length then some (natAt payload 0 2) else none

/-- How the LFE treats a frame that arrives (R158, R159, R162, R173). -/
inductive Arrival where
  /-- SAMPLE on port F. -/
  | sample
  /-- OUTPUT on port C. -/
  | output
  /-- MGMT_REQ on port C for the node: consumed when good, dropped when bad. -/
  | request
  /-- MGMT_REQ on port C with destination 255: bad, or IDENTIFY. -/
  | broadcast
  /-- Anything else is forwarded unchanged. -/
  | pass
  deriving DecidableEq, Repr

/-- Classification of an arriving frame by port, kind, destination and the part's node address (R158, R162; a bad frame is
handled by R159 on the port that handles its kind, log entry 37). -/
def arrivalOf (p : Port) (nodeAddr : BitVec 6) (f : Bytes) : Arrival :=
  match p, frameKind f with
  | .f, some 1 => .sample
  | .c, some 2 => .output
  | .c, some 3 =>
    if nodeAddr ≠ 0 ∧ frameDest f = nodeAddr.toNat then .request
    else if frameDest f = 255 ∧ (¬ frameGood f ∨ requestCode? (framePayload f) = some 1) then .broadcast
    else .pass
  | _, _ => .pass

end Sys2Proof.Machine
end

