-- ==== Sys2Proof/Machine/Codes.lean ====
section
/-! DEFINITION. The link codes of the enumerations (R158, R171, R177). A decoding function answers `none` for a code outside
its set. -/

namespace Sys2Proof.Machine

/-- Bay state codes (R1, R171). -/
def bayStateCode : BayState → Nat
  | .vacant => 0 | .ready => 1 | .running => 2 | .stopping => 3 | .complete => 4 | .locked => 5

/-- Sub-phase codes; absent is 0 (R171). -/
def subPhaseCode : Option SubPhase → Nat
  | none => 0 | some .leakPre => 1 | some .runin => 2 | some .leakPost => 3

/-- RIS step phase codes; IDLE is none, 0 (R171). -/
def risPhaseCode : RisPhase → Nat
  | .idle => 0 | .reverseStop => 1 | .ramp => 2 | .settle => 3 | .dwell => 4 | .measureWait => 5
  | .measure => 6 | .rerun => 7 | .stopWait => 8 | .rundown => 9

/-- LTU cavity phase codes; IDLE and DONE are none, 0 (R144, R171). -/
def ltuPhaseCode : LtuPhase → Nat
  | .idle => 0 | .done => 0 | .coolWait => 1 | .fill => 2 | .settle => 3 | .measure => 4 | .vent => 5

def loadModeCode : LoadMode → Nat
  | .fwdDrive => 1 | .fwdCoast => 2 | .revDrive => 3 | .revCoast => 4

/-- Load mode in a command record: code 0 when absent (R103). -/
def loadModeOptCode : Option LoadMode → Nat
  | none => 0 | some m => loadModeCode m

def loadModeOf : Nat → Option LoadMode
  | 1 => some .fwdDrive | 2 => some .fwdCoast | 3 => some .revDrive | 4 => some .revCoast | _ => none

def roleCode : Role → Nat
  | .tacho => 1 | .vibA => 2 | .vibB => 3 | .oilTemp => 4 | .housingTemp => 5 | .torque => 6
  | .press1 => 7 | .press2 => 8 | .press3 => 9 | .stat => 10 | .ambientMic => 11 | .baro => 12
  | .cellStat => 13

def roleOf : Nat → Option Role
  | 1 => some .tacho | 2 => some .vibA | 3 => some .vibB | 4 => some .oilTemp | 5 => some .housingTemp
  | 6 => some .torque | 7 => some .press1 | 8 => some .press2 | 9 => some .press3 | 10 => some .stat
  | 11 => some .ambientMic | 12 => some .baro | 13 => some .cellStat | _ => none

def kindCode : Kind → Nat
  | .vib => 1 | .tacho => 2 | .analog => 3 | .stat => 4

def kindOf : Nat → Option Kind
  | 1 => some .vib | 2 => some .tacho | 3 => some .analog | 4 => some .stat | _ => none

def ownerCode : Owner → Nat
  | .bay b => b.val | .cell => 4

def ownerOf : Nat → Option Owner
  | 0 => some (.bay 0) | 1 => some (.bay 1) | 2 => some (.bay 2) | 3 => some (.bay 3) | 4 => some .cell
  | _ => none

def linkStateCode : LinkState → Nat
  | .down => 0 | .up => 1 | .lost => 2

def recStateCode : RecState → Nat
  | .opened => 1 | .queued => 2 | .sent => 3

/-- Verdict codes; absent is 0. -/
def verdictCode : Option Verdict → Nat
  | none => 0 | some .pass => 1 | some .fail => 2 | some .incomplete => 3 | some .aborted => 4

/-- Abort cause codes; absent is 0. -/
def causeCode : Option Cause → Nat
  | none => 0 | some .operator => 1 | some .overtemp => 2 | some .overload => 3 | some .settle => 4
  | some .sensor => 5 | some .fixture => 6 | some .link => 7 | some .overpressure => 8

def noiseResultCode : NoiseResult → Nat
  | .pass => 1 | .fail => 2 | .incomplete => 3

/-- NOMEAS reason codes; absent is 0. -/
def nomeasCode : Option NomeasReason → Nat
  | none => 0 | some .laneWait => 1 | some .fewBlocks => 2 | some .aborted => 3

def lineStateCode : LineState → Nat
  | .pass => 1 | .fail => 2 | .masked => 3 | .skipped => 4

def vibLaneCode : VibLane → Nat
  | .a => 1 | .b => 2

def leakResultCode : LeakResult → Nat
  | .pass => 1 | .fail => 2 | .gross => 3 | .incomplete => 4

def cavityIdCode : CavityId → Nat
  | .carrier => 1 | .hubL => 2 | .hubR => 3

def cavityIdOf : Nat → Option CavityId
  | 1 => some .carrier | 2 => some .hubL | 3 => some .hubR | _ => none

def leakOrderOf : Nat → Option LeakOrder
  | 0 => some .none | 1 => some .before | 2 => some .after | _ => none

def stepKindOf : Nat → Option StepKind
  | 1 => some .run | 2 => some .measure | 3 => some .stop | _ => none

def vibSetOf : Nat → Option VibSet
  | 1 => some .a | 2 => some .b | 3 => some .ab | _ => none

/-- A cavity's pressure role (R51, R176). -/
def pressRoleOf : Nat → Option Role
  | 7 => some .press1 | 8 => some .press2 | 9 => some .press3 | _ => none

/-- A cavity's temperature role (R51, R176). -/
def tempRoleOf : Nat → Option Role
  | 4 => some .oilTemp | 5 => some .housingTemp | _ => none

/-- A no/yes or off/on code. -/
def flagOf : Nat → Option Bool
  | 0 => some false | 1 => some true | _ => none

def counterEventOf : Nat → Option CounterEvent
  | 0 => some .none | 1 => some .axleDone | 2 => some .noiseAttempt | 3 => some .leakAttempt
  | 4 => some .laneGrant | 5 => some .blockDiscard | 6 => some .frameError | 7 => some .holdMs
  | 8 => some .laneWaiting | 9 => some .spoolDepth | _ => none

def counterModeOf : Nat → Option CounterMode
  | 0 => some .count | 1 => some .threshold | 2 => some .edge | _ => none

def statusCode : Status → Nat
  | .ok => 0 | .unknownCommand => 1 | .badArg => 2 | .wrongState => 3 | .busy => 4 | .pinned => 5
  | .noRecipe => 6 | .tableFull => 7 | .duplicate => 8 | .locked => 9 | .mapMismatch => 10
  | .linkDown => 11 | .pagesMissing => 12 | .notFound => 13 | .serialMismatch => 14

/-- Command codes (R177). -/
def commandCode : Command → Nat
  | .identify => 1 | .setCellParams => 2 | .readCellParams => 3 | .loadChannelMap => 4
  | .loadOutputMap => 5 | .readChannel => 6 | .recipePage => 7 | .recipeCommit => 8
  | .recipeErase => 9 | .recipeStatus => 10 | .bayStart => 11 | .bayAbort => 12 | .bayUnload => 13
  | .bayLock => 14 | .bayUnlock => 15 | .ackAlarms => 16 | .readBay => 17 | .readRecord => 18
  | .releaseRecord => 19 | .counterSetup => 20 | .counterSnapshot => 21 | .resetPart => 22

def commandOf : Nat → Option Command
  | 1 => some .identify | 2 => some .setCellParams | 3 => some .readCellParams
  | 4 => some .loadChannelMap | 5 => some .loadOutputMap | 6 => some .readChannel
  | 7 => some .recipePage | 8 => some .recipeCommit | 9 => some .recipeErase
  | 10 => some .recipeStatus | 11 => some .bayStart | 12 => some .bayAbort | 13 => some .bayUnload
  | 14 => some .bayLock | 15 => some .bayUnlock | 16 => some .ackAlarms | 17 => some .readBay
  | 18 => some .readRecord | 19 => some .releaseRecord | 20 => some .counterSetup
  | 21 => some .counterSnapshot | 22 => some .resetPart | _ => none

end Sys2Proof.Machine
end

