-- ==== Sys2Proof/Machine/State.lean ====
section
/-! DEFINITION. The state of the part as plain data, block by block, and the state after power-on. Quantities are
integers in the units of the spec's introduction; values that wrap are bit vectors. -/

namespace Sys2Proof.Machine

/-- The part stops in no state: every step of the spec has an effect, and what the spec calls faults are alarm
flags and abort causes in `State` (R10). So there is no reason for a stop. -/
inductive Fault where
  deriving DecidableEq, Repr

/-- Why a step has no meaning. -/
inductive Refusal where
  /-- Raised only by an arm of `exec` whose command has no meaning yet. Safe: no claim can be proved of it. -/
  | notModelled (mnemonic : String)
  deriving DecidableEq, Repr

/-! ### Recipe contents (R46 to R51) -/

/-- One run-in step (R48). Fields the kind does not use are 0, no or off. -/
structure Step where
  kind : StepKind
  loadMode : LoadMode
  torqueLimit : Nat
  rampRate : Nat
  target : Nat
  dwell : Nat
  measureIndex : Nat
  vibSet : VibSet
  ambient : Bool
  blocks : Nat
  minBlocks : Nat
  windowLimit : Nat
  retry : Nat
  rerunOnFail : Bool
  rerunDwell : Nat
  deriving DecidableEq, Repr

/-- One order line (R50): its order in 1/256 and its label. -/
structure OrderLine where
  order : Nat
  label : Bytes
  deriving DecidableEq, Repr

/-- One cavity (R51). -/
structure Cavity where
  id : CavityId
  pressRole : Role
  tempRole : Role
  pair : Nat
  fillTarget : Nat
  fillTolerance : Nat
  overfillMargin : Nat
  fillTimeout : Nat
  grossMargin : Nat
  settleTime : Nat
  measureTime : Nat
  decayLimit : Nat
  negDecayLimit : Nat
  retry : Nat
  ventTime : Nat
  maxStartTemp : Int
  coolWaitLimit : Nat
  deriving DecidableEq, Repr

/-- A validated recipe: the header (R46), steps, lines, limit grid and cavities. -/
structure Recipe where
  name : Bytes
  version : Nat
  maxSpeed : Nat
  stopRamp : Nat
  leakOrder : LeakOrder
  stopAtFirstFail : Bool
  ppr : Nat
  gate : Nat
  standstillTime : Nat
  tolerance : Nat
  settleFrames : Nat
  settleTimeout : Nat
  oilWarn : Int
  oilAbort : Int
  hysteresis : Nat
  maxHold : Nat
  overloadMargin : Nat
  overloadFrames : Nat
  blockExp : Nat
  laneWaitLimit : Nat
  ambientRatio : Nat
  steps : List Step
  lines : List OrderLine
  /-- Limit of measure index m and line k at place m × line count + k (R176). -/
  limits : List Nat
  cavities : List Cavity
  deriving DecidableEq, Repr

/-! ### Timebase, link frame engine, ports -/

/-- Timebase (R169). `served` is the model's own: the blocks that have taken the tick in progress (log entry 3). -/
structure Tbs where
  cellTime : BitVec 32
  served : List TickUnit
  deriving DecidableEq, Repr

/-- Link Frame Engine (R157). `opportunity`: what the arbiter has chosen for the insertion opportunity that is open, if one
is (R146, R147; log entry 6). -/
structure Lfe where
  link : LinkState
  lastSeq : Option (BitVec 16)
  refusedRun : Nat
  sampleSeen : Bool
  outputSeen : Bool
  sampleQuiet : Nat
  outputQuiet : Nat
  nodeAddr : BitVec 6
  opportunity : Option Offer
  deriving DecidableEq, Repr

/-- The frames transmitted so far on each port, oldest first: the model's record of the part's outputs
(log entry 8). -/
structure Ports where
  sentC : List Bytes
  sentF : List Bytes
  deriving DecidableEq, Repr

/-! ### Channel extractor -/

/-- A channel entry (R58). A cleared entry has no role and no kind. -/
structure ChannelEntry where
  enabled : Bool
  owner : Owner
  role : Option Role
  kind : Option Kind
  bitPos : Nat
  len : Nat
  signed : Bool
  gain : Int
  offset : Int
  stride : Nat
  deriving DecidableEq, Repr

/-- The four parts of a tacho field (R66). -/
structure TachoEntry where
  count : BitVec 16
  time : Nat
  reverse : Bool
  edge : Bool
  deriving DecidableEq, Repr

/-- What a latch holds, by kind (R63 to R66). `zero` is the value 0 of a latch never updated (R58, R61). -/
inductive LatchValue where
  | zero
  | analog (v : Int)
  | vib (samples : List Int)
  | stat (flags : BitVec 16)
  | tacho (e : TachoEntry)
  deriving DecidableEq, Repr

/-- A channel latch (R67). -/
structure Latch where
  value : LatchValue
  age : Nat
  deriving DecidableEq, Repr

/-- One place of the output map (R71). -/
structure OutputPlace where
  enabled : Bool
  offset : Nat
  deriving DecidableEq, Repr

structure Chx where
  entries : Vector ChannelEntry 64
  partitions : BitVec 4
  latches : Vector Latch 64
  outputMap : Vector OutputPlace 4
  deriving DecidableEq, Repr

/-! ### Per-bay blocks -/

/-- Bay Controller state of one bay (R2). -/
structure BayCtl where
  state : BayState
  subPhase : Option SubPhase
  plan : List SubPhase
  bound : Option RecIx
  last : Option RecIx
  slot : Option SlotIx
  roles : List (Role × EntryIx)
  cause : Option Cause
  alarms : BitVec 11
  lockPending : Bool
  failCount : Nat
  stoppingTime : Nat
  deriving DecidableEq, Repr

/-- The five parameters the SPU copies at BAY_START (R57, R76). -/
structure SpuParams where
  ppr : Nat
  gate : Nat
  standstillTime : Nat
  tolerance : Nat
  settleFrames : Nat
  deriving DecidableEq, Repr

/-- Speed Unit state of one bay (R75). Element i of `ring` is the place of sequence number newest − i. -/
structure Spu where
  active : Bool
  params : Option SpuParams
  ring : List (Option TachoEntry)
  newest : Option (BitVec 16)
  speed : Nat
  reverse : Bool
  standstill : Bool
  quiet : Nat
  steadyCount : Nat
  deriving DecidableEq, Repr

/-- Run-in Sequencer state of one bay (R87). -/
structure Ris where
  phase : RisPhase
  stepIndex : Option Nat
  cmdSpeed : Nat
  rampFrac : Nat
  driveEnable : Bool
  loadMode : Option LoadMode
  torqueLimit : Option Nat
  phaseTimer : Nat
  hold : Bool
  holdTimer : Nat
  overload : Nat
  budget : Nat
  attempts : Nat
  deriving DecidableEq, Repr

/-- Leak Test Unit state of one bay (R130). Bit p − 1 of `fill` and `vent` belongs to valve pair p. -/
structure Ltu where
  phase : LtuPhase
  cavityIndex : Option Nat
  startPermitted : Bool
  phaseTimer : Nat
  attempts : Nat
  budget : Nat
  afterVent : Option AfterVent
  offered : Bool
  p0 : Option Int
  t0 : Option Int
  p1 : Option Int
  t1 : Option Int
  decay : Option Int
  rate : Option Int
  fill : BitVec 3
  vent : BitVec 3
  deriving DecidableEq, Repr

/-- Window state per line of the recipe (R118). -/
structure LineAcc where
  phase : BitVec 32
  excluded : Bool
  included : Bool
  deriving DecidableEq, Repr

/-- Quadrature sums and window peak of one lane and line (R118). -/
structure LaneSum where
  inPhase : Int
  quad : Int
  peak : Nat
  deriving DecidableEq, Repr

/-- Window state of one bound lane (R118). -/
structure LaneAcc where
  role : LaneRole
  sums : List LaneSum
  deriving DecidableEq, Repr

/-- An open measurement window (R111, R118). -/
structure Window where
  step : Step
  blockExp : Nat
  timer : Nat
  valid : Nat
  block : Option Nat
  ambClipped : Bool
  lines : List LineAcc
  lanes : List LaneAcc
  deriving DecidableEq, Repr

/-- All per-bay state of one bay. -/
structure BayUnit where
  ctl : BayCtl
  spu : Spu
  ris : Ris
  ltu : Ltu
  window : Option Window
  deriving DecidableEq, Repr

/-! ### Lane allocator -/

/-- What a bound lane is bound to (R105). -/
structure LaneUse where
  bay : Bay
  role : LaneRole
  deriving DecidableEq, Repr

/-- A queued lane request (R105). -/
structure LaneRequest where
  bay : Bay
  need : Nat
  wait : Nat
  deriving DecidableEq, Repr

structure Oae where
  lanes : Vector (Option LaneUse) 8
  queue : List LaneRequest
  deriving DecidableEq, Repr

/-! ### Recipe bank and record table -/

/-- A recipe slot (R41). -/
structure Slot where
  state : SlotState
  expected : Option Nat
  presence : BitVec 8
  /-- The stored pages by index (R43); empty when the page store is absent. -/
  pages : List (Nat × Bytes)
  recipe : Option Recipe
  failure : Option (Reason × Nat)
  pins : Nat
  deriving DecidableEq, Repr

/-- The run-in summary (R27). -/
structure Summary where
  driveTime : Nat
  maxOil : Option Int
  maxTorque : Option Nat
  holdTime : Nat
  stepsCompleted : Nat
  deriving DecidableEq, Repr

/-- A line result (R29). -/
structure LineResult where
  state : LineState
  peak : Nat
  lane : VibLane
  limit : Nat
  ambient : Option Nat
  deriving DecidableEq, Repr

/-- A noise entry (R28). `ambient` is present when the final attempt was judged and had an ambient lane, and then
tells whether it was clipped. -/
structure NoiseEntry where
  stepIndex : Nat
  measureIndex : Nat
  loadMode : LoadMode
  target : Nat
  attempts : Nat
  result : NoiseResult
  reason : Option NomeasReason
  ambient : Option Bool
  lines : List LineResult
  deriving DecidableEq, Repr

/-- A leak entry (R31). -/
structure LeakEntry where
  id : CavityId
  attempts : Nat
  result : LeakResult
  p0 : Option Int
  t0 : Option Int
  p1 : Option Int
  t1 : Option Int
  decay : Option Int
  rate : Option Int
  deriving DecidableEq, Repr

/-- Fail reasons (R36). -/
structure FailReasons where
  noise : Bool
  leak : Bool
  grossLeak : Bool
  deriving DecidableEq, Repr

/-- A record that is not FREE (R25). -/
structure AxleRecord where
  state : RecState
  serial : Bytes
  bay : Bay
  slot : SlotIx
  name : Bytes
  version : Nat
  startTime : BitVec 32
  endTime : Option (BitVec 32)
  verdict : Option Verdict
  reasons : Option FailReasons
  cause : Option Cause
  summary : Summary
  noise : List NoiseEntry
  leaks : List LeakEntry
  deriving DecidableEq, Repr

/-! ### Report spooler, counters, management agent -/

/-- An emission in progress (R145). -/
structure Emission where
  partCount : Nat
  nextPart : Nat
  deriving DecidableEq, Repr

structure Rsp where
  spool : List RecIx
  emission : Option Emission
  reportSeq : BitVec 16
  deriving DecidableEq, Repr

/-- A statistics counter (R150). `above`: the last level is AT_OR_ABOVE. -/
structure Counter where
  value : Nat
  saturated : Bool
  event : CounterEvent
  mode : CounterMode
  threshold : Nat
  baySet : BitVec 4
  resultSet : BitVec 8
  slotMatch : Option SlotIx
  alarmLimit : Nat
  alarm : Bool
  above : Bool
  deriving DecidableEq, Repr

/-- The snapshot set (R150). -/
structure Snapshot where
  values : List Nat
  time : BitVec 32
  deriving DecidableEq, Repr

structure Stc where
  counters : Vector Counter 8
  snapshot : Snapshot
  deriving DecidableEq, Repr

/-- A request in the request queue (R163): the source node of its frame and its payload. -/
structure MgmtRequest where
  source : Byte
  payload : Bytes
  deriving DecidableEq, Repr

/-- A response in the response queue (R163): the node it goes to, and what its payload holds (R177). -/
structure MgmtResponse where
  dest : Byte
  code : Nat
  tag : Nat
  status : Status
  results : Bytes
  deriving DecidableEq, Repr

/-- The six cell parameters (R166). -/
structure CellParams where
  linkLossTimeout : Nat
  staleLimit : Nat
  qualityStopLimit : Nat
  demandThreshold : Nat
  stopTimeout : Nat
  statusOffset : Nat
  deriving DecidableEq, Repr

/-- Management Agent (R163, R166, R168, R170). -/
structure Mga where
  requests : List MgmtRequest
  responses : List MgmtResponse
  rspSeq : BitVec 16
  params : CellParams
  alarms : BitVec 4
  resetTaken : Bool
  resetDue : Bool
  deriving DecidableEq, Repr

/-- The whole part, with the queue of the commands that wait. -/
structure State where
  pending : List Instr
  tbs : Tbs
  lfe : Lfe
  ports : Ports
  chx : Chx
  bays : Vector BayUnit 4
  oae : Oae
  rbk : Vector Slot 6
  art : Vector (Option AxleRecord) 12
  rsp : Rsp
  stc : Stc
  mga : Mga
  deriving DecidableEq, Repr

/-! ### Values after power-on -/

/-- A cleared channel entry: "disabled, every field 0 or no" (R58). -/
def ChannelEntry.cleared : ChannelEntry :=
  { enabled := false, owner := .bay 0, role := none, kind := none, bitPos := 0, len := 0,
    signed := false, gain := 0, offset := 0, stride := 0 }

/-- R58's power-on latch: value 0, age 255. -/
def Latch.cleared : Latch := { value := .zero, age := 255 }

/-- R2's table. -/
def BayCtl.reset : BayCtl :=
  { state := .vacant, subPhase := none, plan := [], bound := none, last := none, slot := none,
    roles := [], cause := none, alarms := 0, lockPending := false, failCount := 0, stoppingTime := 0 }

/-- R75's table: inactive, every place of the ring absent. -/
def Spu.reset : Spu :=
  { active := false, params := none, ring := List.replicate 64 none, newest := none, speed := 0,
    reverse := false, standstill := true, quiet := 0, steadyCount := 0 }

/-- R87's table. -/
def Ris.reset : Ris :=
  { phase := .idle, stepIndex := none, cmdSpeed := 0, rampFrac := 0, driveEnable := false,
    loadMode := none, torqueLimit := none, phaseTimer := 0, hold := false, holdTimer := 0,
    overload := 0, budget := 0, attempts := 0 }

/-- R130's table. -/
def Ltu.reset : Ltu :=
  { phase := .idle, cavityIndex := none, startPermitted := false, phaseTimer := 0, attempts := 1,
    budget := 0, afterVent := none, offered := false, p0 := none, t0 := none, p1 := none, t1 := none,
    decay := none, rate := none, fill := 0, vent := 0 }

/-- One bay after power-on or RESET_PART. -/
def BayUnit.reset : BayUnit :=
  { ctl := .reset, spu := .reset, ris := .reset, ltu := .reset, window := none }

/-- R41's power-on column. -/
def Slot.reset : Slot :=
  { state := .empty, expected := none, presence := 0, pages := [], recipe := none, failure := none,
    pins := 0 }

/-- R150's power-on column. -/
def Counter.reset : Counter :=
  { value := 0, saturated := false, event := .none, mode := .count, threshold := 0, baySet := 0,
    resultSet := 0, slotMatch := none, alarmLimit := 0, alarm := false, above := false }

def Snapshot.reset : Snapshot := { values := List.replicate 8 0, time := 0 }

/-- R166's defaults. -/
def CellParams.reset : CellParams :=
  { linkLossTimeout := 10, staleLimit := 8, qualityStopLimit := 0, demandThreshold := 4,
    stopTimeout := 30000, statusOffset := 0 }

/-- The part after power-on (R169). The node address is the strap value; `reset` takes the straps as 0
(DESIGN CHOICE, log entry 1), and POWER_ON brings any other value. -/
def State.reset : State :=
  { pending := []
    tbs := { cellTime := 0, served := [] }
    lfe := { link := .down, lastSeq := none, refusedRun := 0, sampleSeen := false, outputSeen := false,
             sampleQuiet := 0, outputQuiet := 0, nodeAddr := 0, opportunity := none }
    ports := { sentC := [], sentF := [] }
    chx := { entries := Vector.replicate 64 .cleared, partitions := 0,
             latches := Vector.replicate 64 .cleared,
             outputMap := Vector.replicate 4 { enabled := false, offset := 0 } }
    bays := Vector.replicate 4 .reset
    oae := { lanes := Vector.replicate 8 none, queue := [] }
    rbk := Vector.replicate 6 .reset
    art := Vector.replicate 12 none
    rsp := { spool := [], emission := none, reportSeq := 0 }
    stc := { counters := Vector.replicate 8 .reset, snapshot := .reset }
    mga := { requests := [], responses := [], rspSeq := 0, params := .reset, alarms := 0,
             resetTaken := false, resetDue := false } }

end Sys2Proof.Machine
end

