-- ==== Sys2Proof/Machine/Flags.lean ====
section
/-! DEFINITION. Flag words: the bay alarm flags, the cell alarm flags and the flags of results and counters
(R20, R168, R171, R177). -/

namespace Sys2Proof.Machine

/-- The bit of a bay alarm flag in the alarm flag word (R171). -/
def alarmBit : BayAlarm → Fin 11
  | .overtempWarn => 0 | .overtemp => 1 | .overload => 2 | .settle => 3 | .sensor => 4 | .fixture => 5
  | .link => 6 | .overpressure => 7 | .stopTimeout => 8 | .laneWait => 9 | .qstop => 10

/-- The flag is latched. -/
def hasAlarm (w : BitVec 11) (a : BayAlarm) : Bool := w.getLsbD (alarmBit a)

/-- Latching a flag leaves the others; "a flag already latched stays latched" (R20). -/
def withAlarm (w : BitVec 11) (a : BayAlarm) : BitVec 11 := w ||| (1 <<< (alarmBit a).val)

/-- The alarm flag word: the eleven flags and, in bit 11, ANY (R20, R171). -/
def alarmWord (w : BitVec 11) : Nat := w.toNat + if w = 0 then 0 else 2 ^ 11

/-- The flag of a supervision fault's name (R10). OPERATOR has no flag (R11). -/
def causeAlarm : Cause → Option BayAlarm
  | .operator => none | .overtemp => some .overtemp | .overload => some .overload
  | .settle => some .settle | .sensor => some .sensor | .fixture => some .fixture
  | .link => some .link | .overpressure => some .overpressure

/-- The bit of a cell alarm flag in the cell mask (R177). -/
def cellAlarmBit : CellAlarm → Fin 4
  | .mgmtDrop => 0 | .seqError => 1 | .statusShort => 2 | .outputShort => 3

def withCellAlarm (w : BitVec 4) (a : CellAlarm) : BitVec 4 := w ||| (1 <<< (cellAlarmBit a).val)

/-- COUNTER_ALARM, "the OR of the eight alarm flags, is not stored" (R150). -/
def counterAlarm (s : State) : Bool := s.stc.counters.toList.any (·.alarm)

/-- The bit of a result name in a result set (R171). -/
def resultBit : ResultName → Fin 8
  | .pass => 0 | .fail => 1 | .incomplete => 2 | .aborted => 3 | .retry => 4 | .nomeas => 5
  | .gross => 6 | .invalid => 7

def verdictResult : Verdict → ResultName
  | .pass => .pass | .fail => .fail | .incomplete => .incomplete | .aborted => .aborted

/-- One bit of a flag word. -/
def flagBit (n : Nat) (b : Bool) : Nat := if b then 2 ^ n else 0

/-- A byte or number whose bit n is the n-th flag of a list. -/
def flagsNat (l : List Bool) : Nat :=
  match l with
  | [] => 0
  | b :: bs => (if b then 1 else 0) + 2 * flagsNat bs

/-- STAT flags of a bay: CLAMPED 0, GUARD_CLOSED 1, COUPLED 2 (R65). -/
def statClamped (w : BitVec 16) : Bool := w.getLsbD 0
def statGuardClosed (w : BitVec 16) : Bool := w.getLsbD 1
def statCoupled (w : BitVec 16) : Bool := w.getLsbD 2

end Sys2Proof.Machine
end

