-- ==== Sys2Proof/Machine/Ops.lean ====
section
/-! DEFINITION. The named operations on State: one bay's blocks, the recipe a bay reads, its latches, the alarm flags, the
counter events and the writes into records. Every change of these goes through here. -/

namespace Sys2Proof.Machine

/-! ### One bay's blocks -/

/-- All per-bay state of bay b. -/
def State.bay (s : State) (b : Bay) : BayUnit := s.bays.get b

def State.updBay (s : State) (b : Bay) (f : BayUnit → BayUnit) : State :=
  { s with bays := s.bays.set b (f (s.bay b)) }

def State.updCtl (s : State) (b : Bay) (f : BayCtl → BayCtl) : State :=
  s.updBay b fun u => { u with ctl := f u.ctl }

def State.updSpu (s : State) (b : Bay) (f : Spu → Spu) : State :=
  s.updBay b fun u => { u with spu := f u.spu }

def State.updRis (s : State) (b : Bay) (f : Ris → Ris) : State :=
  s.updBay b fun u => { u with ris := f u.ris }

def State.updLtu (s : State) (b : Bay) (f : Ltu → Ltu) : State :=
  s.updBay b fun u => { u with ltu := f u.ltu }

def State.setWindow (s : State) (b : Bay) (w : Option Window) : State :=
  s.updBay b fun u => { u with window := w }

/-- The bays, in index order. -/
def allBays : List Bay := [0, 1, 2, 3]

/-- The bays in a given order, the ones it does not name following in index order. -/
def bayOrder (order : List Bay) : List Bay :=
  order ++ allBays.filter fun b => !order.contains b

/-- Apply an operation to each bay of a list in turn. -/
def overBays (f : Bay → State → State) (l : List Bay) (s : State) : State :=
  l.foldl (fun t b => f b t) s

/-! ### The recipe a bay reads -/

/-- The validated recipe of the bay's slot (R57). -/
def State.recipeOf (s : State) (b : Bay) : Option Recipe :=
  (s.bay b).ctl.slot.bind fun k => (s.rbk.get k).recipe

/-- The recipe step in progress. -/
def State.stepOf (s : State) (b : Bay) : Option Step :=
  (s.recipeOf b).bind fun r => (s.bay b).ris.stepIndex.bind fun i => r.steps[i]?

/-- The recipe cavity in progress. -/
def State.cavityOf (s : State) (b : Bay) : Option Cavity :=
  (s.recipeOf b).bind fun r => (s.bay b).ltu.cavityIndex.bind fun i => r.cavities[i]?

/-- The bay is RUNNING. -/
def State.running (s : State) (b : Bay) : Bool := (s.bay b).ctl.state == .running

/-- The bay is RUNNING in RUNIN. -/
def State.inRunin (s : State) (b : Bay) : Bool :=
  s.running b && (s.bay b).ctl.subPhase == some .runin

/-- The bay is RUNNING in LEAK_PRE or LEAK_POST. -/
def State.inLeak (s : State) (b : Bay) : Bool :=
  s.running b && ((s.bay b).ctl.subPhase == some .leakPre || (s.bay b).ctl.subPhase == some .leakPost)

/-! ### Latches of resolved roles -/

/-- The channel a bay holds for a role (R5, R69). -/
def State.roleEntry (s : State) (b : Bay) (r : Role) : Option EntryIx :=
  ((s.bay b).ctl.roles.find? fun p => p.1 == r).map (·.2)

def State.latch (s : State) (e : EntryIx) : Latch := s.chx.latches.get e

/-- The latch of a bay's resolved role; a cleared latch where the bay holds no such role. -/
def State.roleLatch (s : State) (b : Bay) (r : Role) : Latch :=
  match s.roleEntry b r with
  | some e => s.latch e
  | none => .cleared

/-- A frame that updates a latch sets its age to 0, and only that does (R67): the latch was updated by the frame just
extracted. -/
def Latch.fresh (l : Latch) : Bool := l.age == 0

/-- The reading of an ANALOG latch; 0 for a latch never updated (R70). -/
def Latch.reading (l : Latch) : Int :=
  match l.value with
  | .analog v => v
  | _ => 0

def State.roleReading (s : State) (b : Bay) (r : Role) : Int := (s.roleLatch b r).reading

/-- The flags of a STAT latch. -/
def Latch.flags (l : Latch) : BitVec 16 :=
  match l.value with
  | .stat w => w
  | _ => 0

/-- The samples of a VIB latch; eight zeros for a latch never updated. -/
def Latch.samples (l : Latch) : List Int :=
  match l.value with
  | .vib xs => xs
  | _ => List.replicate 8 0

/-- A VIB sample is marked clipped when it equals −32768 or 32767 (R64). -/
def clippedSample (x : Int) : Bool := x == -32768 || x == 32767

/-- The number of clipped samples in a latch's last frame (R64). -/
def Latch.clippedCount (l : Latch) : Nat := l.samples.countP clippedSample

/-! ### Alarms -/

/-- Latch a bay alarm flag (R20). -/
def State.latchAlarm (s : State) (b : Bay) (a : BayAlarm) : State :=
  s.updCtl b fun c => { c with alarms := withAlarm c.alarms a }

/-- Latch a cell alarm flag (R168). -/
def State.latchCell (s : State) (a : CellAlarm) : State :=
  { s with mga := { s.mga with alarms := withCellAlarm s.mga.alarms a } }

/-! ### Counter events (R152 to R154) -/

/-- A counted event with the attributes it carries. -/
structure CounterEvt where
  event : CounterEvent
  bay : Option Bay
  result : Option ResultName
  slot : Option SlotIx
  deriving DecidableEq, Repr

/-- The largest value of a counter, 2^32 − 1. -/
def counterMax : Nat := 2 ^ 32 - 1

/-- Each addition to a counter (R154). -/
def Counter.add (n : Nat) (c : Counter) : Counter :=
  let v := if c.value + n < counterMax then c.value + n else counterMax
  { c with
    value := v
    saturated := c.saturated || !decide (c.value + n < counterMax)
    alarm := c.alarm || (c.alarmLimit != 0 && decide (c.alarmLimit ≤ v)) }

/-- The filters of a counter pass an event; "a filter on an attribute the event does not carry is ignored" (R152). -/
def Counter.passes (c : Counter) (e : CounterEvt) : Bool :=
  c.event == e.event && c.mode == .count
    && (c.baySet == 0 || (match e.bay with | none => true | some b => c.baySet.getLsbD b.val))
    && (c.resultSet == 0 || (match e.result with | none => true | some r => c.resultSet.getLsbD (resultBit r).val))
    && (match c.slotMatch, e.slot with | some k, some j => k == j | _, _ => true)

/-- Emit a counted event to all eight counters. -/
def State.emit (s : State) (e : CounterEvt) : State :=
  { s with stc := { s.stc with
      counters := s.stc.counters.map fun c => if c.passes e then c.add 1 else c } }

/-- The bay's recipe slot as an attribute. -/
def State.emitBay (s : State) (ev : CounterEvent) (b : Bay) (r : Option ResultName) : State :=
  s.emit { event := ev, bay := some b, result := r, slot := (s.bay b).ctl.slot }

/-- FRAME_ERROR carries no attribute (R152). -/
def State.frameError (s : State) : State :=
  s.emit { event := .frameError, bay := none, result := none, slot := none }

/-! ### Writes into records (R26) -/

/-- A write into the bay's bound record; "a write offered for a record that is not OPEN is discarded" (R26). -/
def State.writeBound (s : State) (b : Bay) (f : AxleRecord → AxleRecord) : State :=
  match (s.bay b).ctl.bound with
  | none => s
  | some i =>
    match s.art.get i with
    | some r => if r.state = .opened then { s with art := s.art.set i (some (f r)) } else s
    | none => s

def State.writeSummary (s : State) (b : Bay) (f : Summary → Summary) : State :=
  s.writeBound b fun r => { r with summary := f r.summary }

/-- +1 on a counting field of the summary, stopping at 2^32 − 1 (R27). -/
def countUp32 (n : Nat) : Nat := min (n + 1) (2 ^ 32 - 1)

/-- Offer a noise entry: appended when the step has none yet and the list holds fewer than 8 (R30). -/
def State.offerNoise (s : State) (b : Bay) (e : NoiseEntry) : State :=
  s.writeBound b fun r =>
    if r.noise.all (fun x => x.stepIndex != e.stepIndex) && r.noise.length < 8 then
      { r with noise := r.noise ++ [e] } else r

/-- Offer a leak entry: appended when the cavity id has none yet and the list holds fewer than 3 (R32). -/
def State.offerLeak (s : State) (b : Bay) (e : LeakEntry) : State :=
  s.writeBound b fun r =>
    if r.leaks.all (fun x => x.id != e.id) && r.leaks.length < 3 then
      { r with leaks := r.leaks ++ [e] } else r

/-! ### The commanded speed -/

/-- A new commanded speed. A change sets the SPU's steady counter to 0 in the same change, by a ramp tick in whatever state of
the bay (R84, R89). -/
def State.setCmdSpeed (s : State) (b : Bay) (v : Nat) : State :=
  let changed := (s.bay b).ris.cmdSpeed != v
  let s := s.updRis b fun r => { r with cmdSpeed := v }
  if changed then s.updSpu b fun p => { p with steadyCount := 0 } else s

end Sys2Proof.Machine
end

