-- ==== Sys2Proof/Machine/Recipe.lean ====
section
/-! DEFINITION. Recipe images: validation in five stages, decoding, and the derived values (R45 to R52, R176). -/

namespace Sys2Proof.Machine

/-- The reason of the first check that fails, checks in order. -/
def firstFault : List (Bool × Reason) → Option Reason
  | [] => none
  | (ok, r) :: rest => if ok then firstFault rest else some r

/-- A field lies in its range. -/
def within (lo hi v : Nat) : Bool := decide (lo ≤ v) && decide (v ≤ hi)

/-! ### The header (R46, R176) -/

def headerSize : Nat := 64

def imgStepCount (img : Bytes) : Nat := byteAt img 52
def imgLineCount (img : Bytes) : Nat := byteAt img 53
def imgCavityCount (img : Bytes) : Nat := byteAt img 54
def imgMaxSpeed (img : Bytes) : Nat := natAt img 18 2

/-- Leak order NONE needs no cavity, BEFORE and AFTER need 1..3 (R46). -/
def leakOrderAgrees (o : Option LeakOrder) (cavities : Nat) : Bool :=
  match o with
  | some .none => cavities == 0
  | some _ => within 1 3 cavities
  | none => false

/-- Stage 1, in table order (R46). -/
def headerFault (img : Bytes) : Option Reason :=
  firstFault [
    ((img.take 16).all printable, .range),
    (within 16 65535 (imgMaxSpeed img), .range),
    (within 1 4000 (natAt img 20 2), .range),
    ((leakOrderOf (byteAt img 22)).isSome, .range),
    ((flagOf (byteAt img 23)).isSome, .range),
    (within 1 1024 (natAt img 24 2), .range),
    (within 4 64 (byteAt img 26), .range),
    (within 50 2000 (natAt img 28 2), .range),
    (within 1 4095 (natAt img 30 2), .range),
    (within 4 400 (natAt img 32 2), .range),
    (within 100 60000 (natAt img 34 2), .range),
    (decide (intAt img 36 2 < intAt img 38 2), .range),
    (within 0 10000 (natAt img 40 2), .range),
    (within 1000 600000 (natAt img 44 4), .range),
    (within 0 100 (byteAt img 48), .range),
    (within 1 400 (natAt img 42 2), .range),
    (within 10 16 (byteAt img 27), .range),
    (within 100 60000 (natAt img 50 2), .range),
    (within 1 24 (imgStepCount img), .count),
    (within 0 16 (imgLineCount img), .count),
    (within 0 3 (imgCavityCount img), .count),
    (leakOrderAgrees (leakOrderOf (byteAt img 22)) (imgCavityCount img), .count)]

/-! ### Image size (R47) -/

def stepBase : Nat := headerSize
def lineBase (img : Bytes) : Nat := stepBase + 32 * imgStepCount img
def gridBase (img : Bytes) : Nat := lineBase img + 12 * imgLineCount img
def cavityBase (img : Bytes) : Nat := gridBase img + 16 * imgLineCount img
def imageSize (img : Bytes) : Nat := cavityBase img + 40 * imgCavityCount img

/-- Pages an image of n bytes needs: n / 256 rounded up (R47). -/
def pagesNeeded (n : Nat) : Nat := (n + 255) / 256

/-! ### Steps (R48, R49) -/

/-- The 32 bytes of step i. -/
def stepBytes (img : Bytes) (i : Nat) : Bytes := (img.drop (stepBase + 32 * i)).take 32

/-- The kind code of a step is MEASURE. -/
def isMeasureBytes (st : Bytes) : Bool := stepKindOf (byteAt st 0) == some .measure

/-- Number of MEASURE steps among steps 0..n − 1 of the image. -/
def measureCountTo (img : Bytes) (n : Nat) : Nat :=
  (List.range n).countP fun i => isMeasureBytes (stepBytes img i)

/-- The checks of step i, in the order of R49. -/
def stepFault (img : Bytes) (i : Nat) : Option Reason :=
  let st := stepBytes img i
  let kind := stepKindOf (byteAt st 0)
  let meas := kind == some .measure
  let run := kind == some .run
  firstFault [
    (kind.isSome, .range),
    (!meas || decide (1 ≤ imgLineCount img), .count),
    (!meas || decide (measureCountTo img (i + 1) ≤ 8), .count),
    ((loadModeOf (byteAt st 1)).isSome, .range),
    (within 0 32767 (natAt st 2 2), .range),
    (within 1 4000 (natAt st 4 2), .range),
    (!(run || meas) || within 0 (imgMaxSpeed img) (natAt st 6 2), .range),
    (!run || within 0 600000 (natAt st 8 4), .range),
    (!meas || within 0 7 (byteAt st 12), .range),
    (!meas || (vibSetOf (byteAt st 13)).isSome, .range),
    (!meas || (flagOf (byteAt st 14)).isSome, .range),
    (!meas || within 1 16 (byteAt st 15), .range),
    (!meas || within 1 (byteAt st 15) (byteAt st 16), .range),
    (!meas || within 100 120000 (natAt st 18 4), .range),
    (!meas || within 0 3 (byteAt st 17), .range),
    (!meas || (flagOf (byteAt st 22)).isSome, .range),
    (!meas || within 0 600000 (natAt st 24 4), .range)]

/-- Keep a field only for the kinds that use it; otherwise it is held as 0, no or off (R48). -/
def keepIf (used : Bool) (v : Nat) : Nat := if used then v else 0

/-- The decoded step i of an image that passed stage 3. -/
def decodeStep (img : Bytes) (i : Nat) : Step :=
  let st := stepBytes img i
  let kind := (stepKindOf (byteAt st 0)).getD .run
  let meas := kind == .measure
  let run := kind == .run
  { kind
    loadMode := (loadModeOf (byteAt st 1)).getD .fwdDrive
    torqueLimit := natAt st 2 2
    rampRate := natAt st 4 2
    target := keepIf (run || meas) (natAt st 6 2)
    dwell := keepIf run (natAt st 8 4)
    measureIndex := keepIf meas (byteAt st 12)
    vibSet := if meas then (vibSetOf (byteAt st 13)).getD .off else .off
    ambient := meas && (flagOf (byteAt st 14)).getD false
    blocks := keepIf meas (byteAt st 15)
    minBlocks := keepIf meas (byteAt st 16)
    windowLimit := keepIf meas (natAt st 18 4)
    retry := keepIf meas (byteAt st 17)
    rerunOnFail := meas && (flagOf (byteAt st 22)).getD false
    rerunDwell := keepIf meas (natAt st 24 4) }

/-! ### Order lines and limit grid (R50) -/

def lineBytes (img : Bytes) (k : Nat) : Bytes := (img.drop (lineBase img + 12 * k)).take 12

def lineFault (img : Bytes) (k : Nat) : Option Reason :=
  let l := lineBytes img k
  firstFault [
    (within 1 65535 (natAt l 0 2), .range),
    (((l.drop 2).take 8).all printable, .range)]

/-- Order line k (R50, R176). The label is kept in the recipe; no layout has a place to report it (log entry 34). -/
def decodeLine (img : Bytes) (k : Nat) : OrderLine :=
  let l := lineBytes img k
  { order := natAt l 0 2, label := (l.drop 2).take 8 }

/-- The 8 × line count limits in grid order (R176). -/
def decodeLimits (img : Bytes) : List Nat :=
  (List.range (8 * imgLineCount img)).map fun j => natAt img (gridBase img + 2 * j) 2

/-! ### Cavities (R51) -/

def cavityBytes (img : Bytes) (c : Nat) : Bytes := (img.drop (cavityBase img + 40 * c)).take 40

/-- Two cavities conflict: same id, same pressure role or same valve pair (R51). -/
def cavityClash (x y : Bytes) : Bool :=
  byteAt x 0 == byteAt y 0 || byteAt x 1 == byteAt y 1 || byteAt x 3 == byteAt y 3

/-- The checks of cavity c: its fields in table order, then the comparison with cavities 0..c − 1 (R51). -/
def cavityFault (img : Bytes) (c : Nat) : Option Reason :=
  let v := cavityBytes img c
  firstFault [
    ((cavityIdOf (byteAt v 0)).isSome, .range),
    ((pressRoleOf (byteAt v 1)).isSome, .range),
    ((tempRoleOf (byteAt v 2)).isSome, .range),
    (within 1 3 (byteAt v 3), .range),
    (within 100 10000 (natAt v 4 2), .range),
    (within 1 32767 (natAt v 6 2), .range),
    (within 1 32767 (natAt v 8 2), .range),
    (within 100 60000 (natAt v 10 2), .range),
    (within 1 32767 (natAt v 12 2), .range),
    (within 100 60000 (natAt v 14 2), .range),
    (within 1000 120000 (natAt v 16 4), .range),
    (within 0 32767 (natAt v 20 2), .range),
    (within 0 32767 (natAt v 22 2), .range),
    (within 0 1 (byteAt v 24), .range),
    (within 100 30000 (natAt v 26 2), .range),
    (within 0 600000 (natAt v 30 4), .range),
    ((List.range c).all (fun d => !cavityClash (cavityBytes img d) v), .cavityConflict)]

def decodeCavity (img : Bytes) (c : Nat) : Cavity :=
  let v := cavityBytes img c
  { id := (cavityIdOf (byteAt v 0)).getD .carrier
    pressRole := (pressRoleOf (byteAt v 1)).getD .press1
    tempRole := (tempRoleOf (byteAt v 2)).getD .oilTemp
    pair := byteAt v 3
    fillTarget := natAt v 4 2
    fillTolerance := natAt v 6 2
    overfillMargin := natAt v 8 2
    fillTimeout := natAt v 10 2
    grossMargin := natAt v 12 2
    settleTime := natAt v 14 2
    measureTime := natAt v 16 4
    decayLimit := natAt v 20 2
    negDecayLimit := natAt v 22 2
    retry := byteAt v 24
    ventTime := natAt v 26 2
    maxStartTemp := intAt v 28 2
    coolWaitLimit := natAt v 30 4 }

/-! ### Validation (R45) -/

/-- The first of items 0..n − 1 whose check fails, with its reason. -/
def firstItemFault (check : Nat → Option Reason) (n : Nat) : Option (Reason × Nat) :=
  (List.range n).findSome? fun i => (check i).map fun r => (r, i)

/-- The decoded contents of an image. -/
def decodeRecipe (img : Bytes) : Recipe :=
  { name := img.take 16
    version := natAt img 16 2
    maxSpeed := imgMaxSpeed img
    stopRamp := natAt img 20 2
    leakOrder := (leakOrderOf (byteAt img 22)).getD .none
    stopAtFirstFail := (flagOf (byteAt img 23)).getD false
    ppr := natAt img 24 2
    gate := byteAt img 26
    standstillTime := natAt img 28 2
    tolerance := natAt img 30 2
    settleFrames := natAt img 32 2
    settleTimeout := natAt img 34 2
    oilWarn := intAt img 36 2
    oilAbort := intAt img 38 2
    hysteresis := natAt img 40 2
    maxHold := natAt img 44 4
    overloadMargin := byteAt img 48
    overloadFrames := natAt img 42 2
    blockExp := byteAt img 27
    laneWaitLimit := natAt img 50 2
    ambientRatio := byteAt img 49
    steps := (List.range (imgStepCount img)).map (decodeStep img)
    lines := (List.range (imgLineCount img)).map (decodeLine img)
    limits := decodeLimits img
    cavities := (List.range (imgCavityCount img)).map (decodeCavity img) }

/-- The five stages in order; the first check that fails gives the reason and item index (R45). -/
def validationFault (img : Bytes) (expected : Nat) : Option (Reason × Nat) :=
  match headerFault img with
  | some r => some (r, 0)
  | none =>
    if 256 * expected < imageSize img then some (.size, pagesNeeded (imageSize img))
    else
      match firstItemFault (stepFault img) (imgStepCount img) with
      | some (r, i) => some (r, 1 + i)
      | none =>
        match firstItemFault (lineFault img) (imgLineCount img) with
        | some (r, k) => some (r, 32 + k)
        | none =>
          match firstItemFault (cavityFault img) (imgCavityCount img) with
          | some (r, c) => some (r, 64 + c)
          | none => none

/-! ### Derived values (R52) -/

/-- MEASURE step count. -/
def Recipe.measureCount (r : Recipe) : Nat := r.steps.countP fun st => st.kind == .measure

/-- The sub-phase plan (R3). -/
def Recipe.plan (r : Recipe) : List SubPhase :=
  match r.leakOrder with
  | .none => [.runin]
  | .before => [.leakPre, .runin]
  | .after => [.runin, .leakPost]

/-- The step uses the ambient lane: ambient on and the recipe's ambient ratio not 0 (R52, R108). -/
def Recipe.usesAmbient (r : Recipe) (st : Step) : Bool := st.ambient && r.ambientRatio != 0

/-- The lane roles of a MEASURE step, in role order (R108). -/
def Recipe.laneRoles (r : Recipe) (st : Step) : List LaneRole :=
  (match st.vibSet with | .off => [] | .a => [.vibA] | .b => [.vibB] | .ab => [.vibA, .vibB])
    ++ (if r.usesAmbient st then [.ambient] else [])

/-- Lane need of a MEASURE step (R52). -/
def Recipe.laneNeed (r : Recipe) (st : Step) : Nat := (r.laneRoles st).length

/-- The recipe needs a role (R4, R52). -/
def Recipe.needsRole (r : Recipe) (role : Role) : Bool :=
  match role with
  | .stat => true
  | .tacho => true
  | .oilTemp => true
  | .torque => true
  | .vibA => r.steps.any fun st => st.kind == .measure && (st.vibSet == .a || st.vibSet == .ab)
  | .vibB => r.steps.any fun st => st.kind == .measure && (st.vibSet == .b || st.vibSet == .ab)
  | .press1 => r.cavities.any fun c => c.pressRole == .press1
  | .press2 => r.cavities.any fun c => c.pressRole == .press2
  | .press3 => r.cavities.any fun c => c.pressRole == .press3
  | .housingTemp => r.cavities.any fun c => c.tempRole == .housingTemp
  | .ambientMic => r.steps.any fun st => st.kind == .measure && r.usesAmbient st
  | .baro => !r.cavities.isEmpty
  | .cellStat => false

/-- The order in which the roles are tried (R69). -/
def roleOrder : List Role :=
  [.stat, .tacho, .oilTemp, .torque, .vibA, .vibB, .press1, .press2, .press3, .housingTemp,
   .ambientMic, .baro]

/-- The limit of measure index m and line k (R50, R176). -/
def Recipe.limit (r : Recipe) (m k : Nat) : Nat := r.limits.getD (m * r.lines.length + k) 0

/-- The parameters the SPU copies (R57). -/
def Recipe.spuParams (r : Recipe) : SpuParams :=
  { ppr := r.ppr, gate := r.gate, standstillTime := r.standstillTime, tolerance := r.tolerance,
    settleFrames := r.settleFrames }

end Sys2Proof.Machine
end

