-- ==== Sys2Proof/Machine/Channels.lean ====
section
/-! DEFINITION. Channel Extractor: extraction and conversion, latches and ages, role resolution (R58 to R69). -/

namespace Sys2Proof.Machine

/-- The kind that belongs to a role (R59). -/
def kindOfRole : Role → Kind
  | .vibA | .vibB | .ambientMic => .vib
  | .tacho => .tacho
  | .stat | .cellStat => .stat
  | .oilTemp | .housingTemp | .torque | .press1 | .press2 | .press3 | .baro => .analog

/-- The role belongs to the cell (R59). -/
def cellRole : Role → Bool
  | .ambientMic | .cellStat | .baro => true
  | _ => false

/-- The last stream bit an entry reads (R59). -/
def ChannelEntry.lastBit (e : ChannelEntry) : Nat :=
  match e.kind with
  | some .vib => e.bitPos + 7 * e.stride + e.len - 1
  | _ => e.bitPos + e.len - 1

/-- A channel is in use when its entry is enabled and its partition's flag is set (R58). -/
def Chx.inUse (c : Chx) (i : EntryIx) : Bool :=
  (c.entries.get i).enabled && c.partitions.getLsbD (i.val / 16)

/-! ### Conversion by kind -/

/-- floor(raw × gain / 256) + offset, clamped (R63). -/
def convertAnalog (e : ChannelEntry) (raw : Nat) : Int :=
  let x : Int := if e.signed then signedOf e.len raw else raw
  clamp16 (x * e.gain / 256 + e.offset)

/-- One sample: two's complement of the field length, shifted left by 16 − length (R64). -/
def convertSample (len raw : Nat) : Int := signedOf len raw * 2 ^ (16 - len)

/-- The eight samples of a VIB field (R64). -/
def convertVib (e : ChannelEntry) (stream : Nat) : List Int :=
  (List.range 8).map fun j => convertSample e.len (bitField stream (e.bitPos + j * e.stride) e.len)

/-- The parts of a 28-bit tacho group (R66, R174). -/
def tachoOf (raw : Nat) : TachoEntry :=
  { count := BitVec.ofNat 16 raw
    time := bitField raw 16 10
    reverse := raw.testBit 26
    edge := raw.testBit 27 }

/-- A field read and converted; none for an invalid tacho field, one with an edge time of 1000..1023 (R66). -/
def convertField (e : ChannelEntry) (stream : Nat) : Option LatchValue :=
  match e.kind with
  | some .analog => some (.analog (convertAnalog e (bitField stream e.bitPos e.len)))
  | some .vib => some (.vib (convertVib e stream))
  | some .stat => some (.stat (BitVec.ofNat 16 (bitField stream e.bitPos e.len)))
  | some .tacho =>
    let t := tachoOf (bitField stream e.bitPos e.len)
    if t.time ≤ 999 then some (.tacho t) else none
  | none => none

/-! ### Latches (R62, R67) -/

/-- Ages stop at 255 (R67). -/
def Latch.aged (k : Nat) (l : Latch) : Latch := { l with age := min 255 (l.age + k) }

/-- One latch after an accepted frame: updated with age 0, or aged by 1 (R62, R67). -/
def Chx.extractLatch (c : Chx) (payloadBits stream : Nat) (i : EntryIx) : Latch :=
  let e := c.entries.get i
  let l := c.latches.get i
  if c.inUse i && decide (e.lastBit < payloadBits) then
    match convertField e stream with
    | some v => { value := v, age := 0 }
    | none => l.aged 1
  else l.aged 1

/-- Extraction of an accepted frame's payload (R62). -/
def Chx.extract (c : Chx) (payload : Bytes) : Chx :=
  let stream := leNat payload
  let bits := 8 * payload.length
  { c with latches := Vector.ofFn fun i => c.extractLatch bits stream i }

/-- A count of k missing frames ages every latch by k (R67). -/
def Chx.missing (c : Chx) (k : Nat) : Chx := { c with latches := c.latches.map (Latch.aged k) }

/-! ### Role resolution (R69) -/

/-- The channels in use with an owner and a role. -/
def Chx.matching (c : Chx) (o : Owner) (r : Role) : List EntryIx :=
  (List.finRange 64).filter fun i =>
    c.inUse i && (c.entries.get i).owner == o && (c.entries.get i).role == some r

/-- The owner among whose channels a bay's role is sought. -/
def roleOwner (b : Bay) (r : Role) : Owner := if cellRole r then .cell else .bay b

/-- Resolve a list of roles in order: the pairs, or the first role that does not resolve to exactly one channel with
the number of channels found (R69). -/
def Chx.resolve (c : Chx) (b : Bay) : List Role → Except (Role × Nat) (List (Role × EntryIx))
  | [] => .ok []
  | r :: rs =>
    match c.matching (roleOwner b r) r with
    | [e] =>
      match c.resolve b rs with
      | .ok ps => .ok ((r, e) :: ps)
      | .error x => .error x
    | es => .error (r, es.length)

/-- The roles a recipe needs, in the order they are tried. -/
def Recipe.neededRoles (r : Recipe) : List Role := roleOrder.filter r.needsRole

end Sys2Proof.Machine
end

