-- ==== Sys2Proof/Machine/Speed.lean ====
section
/-! DEFINITION. Speed Unit: history ring, speed over the gate, direction, standstill and Steady (R75 to R86). -/

namespace Sys2Proof.Machine

/-- Every place of the ring absent. -/
def emptyRing : List (Option TachoEntry) := List.replicate 64 none

/-- Steady: "true when the steady counter is at or above settle frames" (R75). -/
def Spu.steady (p : Spu) : Bool :=
  match p.params with
  | some q => decide (q.settleFrames ≤ p.steadyCount)
  | none => false

/-- The ring cleared and the newest sequence absent (R78). -/
def Spu.resync (p : Spu) : Spu := { p with ring := emptyRing, newest := none }

/-- The ring after a frame with sequence number `seq` (R77): the places between the newest sequence and `seq` are made
absent, and the place of `seq` is written. -/
def Spu.ringUpdate (seq : BitVec 16) (entry : Option TachoEntry) (p : Spu) : Spu :=
  let d := match p.newest with
    | none => 1
    | some n => (seq - n).toNat
  let older := if d = 0 then p.ring.drop 1 else List.replicate (min (d - 1) 63) none ++ p.ring
  { p with ring := (entry :: older).take 64, newest := some seq }

/-- The entries of a stretch of the ring with edge-seen set, newest first, each with how many sequence numbers it lies
behind the newest place. -/
def edgesOf (places : List (Option TachoEntry)) : List (Nat × TachoEntry) :=
  (places.zipIdx).filterMap fun pi =>
    match pi.1 with
    | some e => if e.edge then some (pi.2, e) else none
    | none => none

/-- Speed from the newest and oldest edge of the gate; none when it is held (R79). -/
def gateSpeed (ppr : Nat) (edges : List (Nat × TachoEntry)) : Option Nat :=
  match edges with
  | (iNew, new) :: rest =>
    match rest.getLast? with
    | some (iOld, old) =>
      let pulses := (new.count - old.count).toNat
      let elapsed := (iOld - iNew) * 1000 + new.time - old.time
      if pulses = 0 then none else some (min 65535 (pulses * 3840000000 / (elapsed * ppr)))
    | none => none
  | [] => none

/-- An edge in the frame's own entry sets the quiet time to 0 and STANDSTILL false (R82). -/
def Spu.edgeSeen (entry : Option TachoEntry) (p : Spu) : Spu :=
  match entry with
  | some e => if e.edge then { p with quiet := 0, standstill := false } else p
  | none => p

/-- R79. -/
def Spu.setSpeed (q : SpuParams) (p : Spu) : Spu :=
  match gateSpeed q.ppr (edgesOf (p.ring.take q.gate)) with
  | some v => { p with speed := v }
  | none => p

/-- R80: the newest entry with an edge in the whole ring sets the direction; an entry without one does not, whatever the last
sentence of R77 says (log entry 43). -/
def Spu.setDirection (p : Spu) : Spu :=
  match edgesOf p.ring with
  | (_, e) :: _ => { p with reverse := e.reverse }
  | [] => p

/-- R83: the steady counter against the commanded speed of a RUNNING bay. A clamped speed of 65535 is judged by the same tolerance,
whatever R86 says of lower commanded speeds (log entry 46). -/
def Spu.countSteady (q : SpuParams) (running : Bool) (cmd : Nat) (p : Spu) : Spu :=
  if running ∧ ((p.speed : Int) - cmd).natAbs ≤ q.tolerance then
    { p with steadyCount := min 400 (p.steadyCount + 1) }
  else { p with steadyCount := 0 }

/-- An accepted frame at an active SPU, in the order of R77, R82, R79, R80, R83. -/
def Spu.frame (seq : BitVec 16) (entry : Option TachoEntry) (running : Bool) (cmd : Nat) (p : Spu) : Spu :=
  match p.active, p.params with
  | true, some q =>
    ((((p.ringUpdate seq entry).edgeSeen entry).setSpeed q).setDirection).countSteady q running cmd
  | _, _ => p

/-- A tick brings the quiet time to the standstill time with STANDSTILL false (R81). -/
def Spu.judges (p : Spu) : Bool :=
  match p.active, p.params with
  | true, some q => !p.standstill && decide (q.standstillTime ≤ min 65535 (p.quiet + 1))
  | _, _ => false

/-- A ms tick at an active SPU (R81). -/
def Spu.tick (p : Spu) : Spu :=
  if p.active then
    let t := { p with quiet := min 65535 (p.quiet + 1) }
    if p.judges then { t with standstill := true, speed := 0, ring := emptyRing } else t
  else p

/-- The SPU's values when BAY_START is taken: those of R75, active, with the recipe's parameters (R76). -/
def Spu.started (q : SpuParams) : Spu := { Spu.reset with active := true, params := some q }

/-- The tacho entry the frame just extracted delivered to a bay, if its TACHO channel was updated (R68, R77). -/
def State.tachoEntry (s : State) (b : Bay) : Option TachoEntry :=
  let l := s.roleLatch b .tacho
  match l.value with
  | .tacho e => if l.fresh then some e else none
  | _ => none

/-- The SPU of a bay takes an accepted frame. -/
def spuFrame (seq : BitVec 16) (b : Bay) (s : State) : State :=
  let entry := s.tachoEntry b
  let run := s.running b
  let cmd := (s.bay b).ris.cmdSpeed
  s.updSpu b (Spu.frame seq entry run cmd)

/-- The SPU of every active bay clears its ring at a resynchronization (R78). -/
def resyncSpus (s : State) : State :=
  overBays (fun b t => t.updSpu b fun p => if p.active then p.resync else p) allBays s

end Sys2Proof.Machine
end

