-- ==== Sys2Proof/Machine/Order.lean ====
section
/-! DEFINITION. Order arithmetic of a window: phase steps, quadrature sums, block amplitude, peaks and line judgement
(R118 to R129). -/

namespace Sys2Proof.Machine

/-! ### The sine table (R121) -/

/-- round-half-away-from-zero(32767 × sin(2πi / 1024)) for i = 0..256. -/
def sineQuarter : List Nat :=
  [0, 201, 402, 603, 804, 1005, 1206, 1407, 1608, 1809, 2009, 2210, 2410, 2611, 2811, 3012]
    ++ [3212, 3412, 3612, 3811, 4011, 4210, 4410, 4609, 4808, 5007, 5205, 5404, 5602, 5800, 5998, 6195]
    ++ [6393, 6590, 6786, 6983, 7179, 7375, 7571, 7767, 7962, 8157, 8351, 8545, 8739, 8933, 9126, 9319]
    ++ [9512, 9704, 9896, 10087, 10278, 10469, 10659, 10849, 11039, 11228, 11417, 11605, 11793, 11980, 12167, 12353]
    ++ [12539, 12725, 12910, 13094, 13279, 13462, 13645, 13828, 14010, 14191, 14372, 14553, 14732, 14912, 15090, 15269]
    ++ [15446, 15623, 15800, 15976, 16151, 16325, 16499, 16673, 16846, 17018, 17189, 17360, 17530, 17700, 17869, 18037]
    ++ [18204, 18371, 18537, 18703, 18868, 19032, 19195, 19357, 19519, 19680, 19841, 20000, 20159, 20317, 20475, 20631]
    ++ [20787, 20942, 21096, 21250, 21403, 21554, 21705, 21856, 22005, 22154, 22301, 22448, 22594, 22739, 22884, 23027]
    ++ [23170, 23311, 23452, 23592, 23731, 23870, 24007, 24143, 24279, 24413, 24547, 24680, 24811, 24942, 25072, 25201]
    ++ [25329, 25456, 25582, 25708, 25832, 25955, 26077, 26198, 26319, 26438, 26556, 26674, 26790, 26905, 27019, 27133]
    ++ [27245, 27356, 27466, 27575, 27683, 27790, 27896, 28001, 28105, 28208, 28310, 28411, 28510, 28609, 28706, 28803]
    ++ [28898, 28992, 29085, 29177, 29268, 29358, 29447, 29534, 29621, 29706, 29791, 29874, 29956, 30037, 30117, 30195]
    ++ [30273, 30349, 30424, 30498, 30571, 30643, 30714, 30783, 30852, 30919, 30985, 31050, 31113, 31176, 31237, 31297]
    ++ [31356, 31414, 31470, 31526, 31580, 31633, 31685, 31736, 31785, 31833, 31880, 31926, 31971, 32014, 32057, 32098]
    ++ [32137, 32176, 32213, 32250, 32285, 32318, 32351, 32382, 32412, 32441, 32469, 32495, 32521, 32545, 32567, 32589]
    ++ [32609, 32628, 32646, 32663, 32678, 32692, 32705, 32717, 32728, 32737, 32745, 32752, 32757, 32761, 32765, 32766]
    ++ [32767]

/-- table[i] for i = 0..1023, from the quarter wave by the symmetry of the sine. -/
def sineTable (i : Nat) : Int :=
  if i ≤ 256 then (sineQuarter.getD i 0 : Nat)
  else if i ≤ 512 then (sineQuarter.getD (512 - i) 0 : Nat)
  else if i ≤ 768 then -((sineQuarter.getD (i - 512) 0 : Nat) : Int)
  else -((sineQuarter.getD (1024 - i) 0 : Nat) : Int)

/-- The phase index: the top 10 bits of a line phase (R122). -/
def phaseIndex (φ : BitVec 32) : Nat := φ.toNat / 2 ^ 22

def sinAt (φ : BitVec 32) : Int := sineTable (phaseIndex φ)

/-- The cosine is a quarter turn later in the table (R121). -/
def cosAt (φ : BitVec 32) : Int := sineTable ((phaseIndex φ + 256) % 1024)

/-! ### Phase steps (R119, R120) -/

/-- The shaft phase step of a frame (R119). -/
def phaseStep (v : Nat) : Nat := (v * 2 ^ 32 + 15360000) / 30720000

/-- The phase step of a line (R120). -/
def lineStep (delta order : Nat) : Nat := delta * order / 256

/-- The line lies at or above the band limit (R120). -/
def overBand (lineDelta : Nat) : Bool := decide (2 ^ 31 ≤ lineDelta)

/-! ### Blocks (R112, R118, R122, R125 to R127) -/

def LaneSum.zero : LaneSum := { inPhase := 0, quad := 0, peak := 0 }

/-- Sums dropped, peaks kept. -/
def LaneAcc.dropSums (a : LaneAcc) : LaneAcc :=
  { a with sums := a.sums.map fun x => { x with inPhase := 0, quad := 0 } }

/-- No block in progress: the sums and the excluded-in-block flags are dropped; phases, peaks and included flags stand
(R113, R126). -/
def Window.dropBlock (w : Window) : Window :=
  { w with
    block := none
    lines := w.lines.map fun l => { l with excluded := false }
    lanes := w.lanes.map LaneAcc.dropSums }

/-- A frame begins a block where none is in progress, with sums 0 and frame count 0 (R112 step 1). -/
def Window.beginBlock (w : Window) : Window :=
  match w.block with
  | some _ => w
  | none => { w.dropBlock with block := some 0 }

/-- One sample x of a lane enters the lane's sums of one line (R122). -/
def addToSum (x : Int) (l : LineAcc) (y : LaneSum) : LaneSum :=
  { y with inPhase := y.inPhase + x * cosAt l.phase, quad := y.quad + x * sinAt l.phase }

/-- One sample of one lane enters the sums of every line (R122). -/
def addSample (lines : List LineAcc) (x : Int) (a : LaneAcc) : LaneAcc :=
  { a with sums := List.zipWith (addToSum x) lines a.sums }

/-- The phases advance by their line steps, modulo 2^32 (R122). -/
def advancePhases (deltas : List Nat) (lines : List LineAcc) : List LineAcc :=
  List.zipWith (fun d l => { l with phase := l.phase + BitVec.ofNat 32 d }) deltas lines

/-- Sample instant: one sample of each bound lane (R122). -/
def Window.sampleInstant (deltas : List Nat) (xs : List Int) (w : Window) : Window :=
  { w with
    lanes := List.zipWith (addSample w.lines) xs w.lanes
    lines := advancePhases deltas w.lines }

/-- Excluded-in-block flags of a frame (R120). -/
def Window.markExcluded (deltas : List Nat) (w : Window) : Window :=
  { w with lines := List.zipWith (fun d l => { l with excluded := l.excluded || overBand d }) deltas w.lines }

/-- The eight samples of each lane enter the block (R112 step 3, R122). -/
def Window.accumulate (deltas : List Nat) (samples : List (List Int)) (w : Window) : Window :=
  (List.range 8).foldl (fun t j => t.sampleInstant deltas (samples.map fun xs => xs.getD j 0))
    (w.markExcluded deltas)

/-- The amplitude of a completed block of N samples (R125). -/
def blockAmplitude (n : Nat) (a : LaneSum) : Nat :=
  8 * isqrt (a.inPhase.natAbs ^ 2 + a.quad.natAbs ^ 2) / (n * 32767)

/-- Samples in a block (R111). -/
def Window.blockLen (w : Window) : Nat := 2 ^ w.blockExp

/-- The window peak of one lane and line after a completed block of N samples: the larger of the peak and the block's
amplitude, unless the line is excluded from the block (R125, R127). -/
def raisePeak (n : Nat) (l : LineAcc) (y : LaneSum) : LaneSum :=
  if l.excluded then y else { y with peak := max y.peak (blockAmplitude n y) }

/-- A block completes: peaks and included flags of the lines not excluded from it (R125, R127), and one more valid block
(R112 step 4). -/
def Window.completeBlock (w : Window) : Window :=
  Window.dropBlock
    { w with
      lanes := w.lanes.map fun a => { a with sums := List.zipWith (raisePeak w.blockLen) w.lines a.sums }
      lines := w.lines.map fun l => { l with included := l.included || !l.excluded }
      valid := w.valid + 1 }

/-- A frame whose test passes enters the block: step 3, and step 4 when the frame count reaches N / 8 (R112). An ambient
sample marked clipped sets the window's flag (R114, log entry 15). -/
def Window.takeFrame (deltas : List Nat) (samples : List (List Int)) (ambClip : Bool) (w : Window) : Window :=
  let w1 := w.accumulate deltas samples
  let n := (w.block.getD 0) + 1
  let w2 := { w1 with block := some n, ambClipped := w1.ambClipped || ambClip }
  if n = w.blockLen / 8 then w2.completeBlock else w2

/-! ### Judgement (R116, R128, R129) -/

/-- The window peak of a line in the lane of a role, if the window has that lane. -/
def Window.peak (w : Window) (role : LaneRole) (k : Nat) : Option Nat :=
  (w.lanes.find? fun a => a.role == role).map fun a => (a.sums.getD k .zero).peak

/-- The window has an ambient lane. -/
def Window.hasAmbient (w : Window) : Bool := w.lanes.any fun a => a.role == .ambient

/-- The peak reported for a line and its lane (R29): with AB the larger, and A where the two are equal. -/
def Window.reported (w : Window) (k : Nat) : Nat × VibLane :=
  let pa := (w.peak .vibA k).getD 0
  let pb := (w.peak .vibB k).getD 0
  match w.step.vibSet with
  | .off => (0, .a)
  | .a => (pa, .a)
  | .b => (pb, .b)
  | .ab => if pa < pb then (pb, .b) else (pa, .a)

/-- The line state (R128). `peak` is the larger of the VIB peaks, so row 2 holds when it is at or below the limit. -/
def lineState (limit ratio peak : Nat) (included : Bool) (ambient : Option Nat) (ambClipped : Bool) : LineState :=
  if limit = 0 ∨ included = false then .skipped
  else if peak ≤ limit then .pass
  else
    match ambient with
    | some p => if limit * ratio ≤ p * 256 ∨ ambClipped = true then .masked else .fail
    | none => .fail

/-- The line result of line k (R129). -/
def Window.judgeLine (r : Recipe) (w : Window) (k : Nat) : LineResult :=
  let limit := r.limit w.step.measureIndex k
  let rep := w.reported k
  let inc := ((w.lines[k]?).map (·.included)).getD false
  let amb := w.peak .ambient k
  { state := lineState limit r.ambientRatio rep.1 inc amb w.ambClipped
    peak := rep.1
    lane := rep.2
    limit := limit
    ambient := amb }

/-- Outcome of a measurement attempt (R116). -/
inductive Attempt where
  | pass | fail | retry | nomeas (reason : NomeasReason)
  deriving DecidableEq, Repr

/-- What the OAE hands the RIS for an attempt (R116): the outcome, and for a judged one its line results and, when the
window had an ambient lane, whether it was clipped. -/
structure WindowResult where
  outcome : Attempt
  lines : List LineResult
  ambient : Option Bool
  deriving DecidableEq, Repr

/-- The result of a closing window (R116). -/
def Window.result (r : Recipe) (w : Window) : WindowResult :=
  if w.valid < w.step.minBlocks then { outcome := .nomeas .fewBlocks, lines := [], ambient := none }
  else
    let ls := (List.range r.lines.length).map (w.judgeLine r)
    let out : Attempt :=
      if ls.any (fun l => l.state == .fail) then .fail
      else if ls.any (fun l => l.state == .masked) then .retry
      else .pass
    { outcome := out, lines := ls, ambient := if w.hasAmbient then some w.ambClipped else none }

/-- A NOMEAS result carries its reason and no line results (R116). -/
def WindowResult.nomeas (n : NomeasReason) : WindowResult :=
  { outcome := .nomeas n, lines := [], ambient := none }

/-- The result name of NOISE_ATTEMPT (R116). -/
def Attempt.name : Attempt → ResultName
  | .pass => .pass | .fail => .fail | .retry => .retry | .nomeas _ => .nomeas

/-- A window at its opening (R111, R118). -/
def Window.opened (r : Recipe) (st : Step) : Window :=
  { step := st
    blockExp := r.blockExp
    timer := 0
    valid := 0
    block := none
    ambClipped := false
    lines := List.replicate r.lines.length { phase := 0, excluded := false, included := false }
    lanes := (r.laneRoles st).map fun role => { role, sums := List.replicate r.lines.length .zero } }

end Sys2Proof.Machine
end

