-- ==== Sys2Proof/Machine/Lanes.lean ====
section
/-! DEFINITION. Lane allocator: posts, grants, release, and the frames a window takes (R105 to R117). -/

namespace Sys2Proof.Machine

/-- Number of FREE lanes. -/
def State.freeLanes (s : State) : Nat := s.oae.lanes.toList.countP (·.isNone)

/-- LANE_WAITING: the sum of the needs of the queued requests (R117). -/
def State.laneWaiting (s : State) : Nat := (s.oae.queue.map (·.need)).sum

/-- The lowest-numbered FREE lane. -/
def lowestFree (lanes : Vector (Option LaneUse) 8) : Option LaneIx :=
  (List.finRange 8).find? fun i => (lanes.get i).isNone

/-- Bind the lowest-numbered FREE lanes to the bay, one for each role in order (R108). -/
def bindLanes (b : Bay) : List LaneRole → Vector (Option LaneUse) 8 → Vector (Option LaneUse) 8
  | [], lanes => lanes
  | r :: rs, lanes =>
    match lowestFree lanes with
    | some i => bindLanes b rs (lanes.set i (some { bay := b, role := r }))
    | none => lanes

/-- The bay's lanes become FREE. -/
def freeBayLanes (b : Bay) (lanes : Vector (Option LaneUse) 8) : Vector (Option LaneUse) 8 :=
  lanes.map fun u => match u with
    | some x => if x.bay = b then none else some x
    | none => none

/-- The bay holds a bound lane. -/
def State.holdsLanes (s : State) (b : Bay) : Bool :=
  s.oae.lanes.toList.any fun u => match u with | some x => x.bay == b | none => false

/-- A queued request of the bay. -/
def State.hasRequest (s : State) (b : Bay) : Bool := s.oae.queue.any fun q => q.bay == b

/-- The head request is the bay's. -/
def State.headIs (s : State) (b : Bay) : Bool :=
  match s.oae.queue with
  | q :: _ => q.bay == b
  | [] => false

/-- The grant of a request already taken from the queue: lanes bound, window opened, the RIS enters MEASURE, LANE_GRANT
(R107, R108, R96). -/
def grantOne (q : LaneRequest) (s : State) : State :=
  match s.recipeOf q.bay, s.stepOf q.bay with
  | some r, some st =>
    let s := { s with oae := { s.oae with lanes := bindLanes q.bay (r.laneRoles st) s.oae.lanes } }
    let s := s.setWindow q.bay (some (Window.opened r st))
    let s := s.updRis q.bay fun x => if x.phase = .measureWait then { x with phase := .measure } else x
    s.emitBay .laneGrant q.bay none
  | _, _ => s

/-- The grant test: the head is granted while the FREE lanes meet its need; the test stops at the first request that
does not fit (R107). -/
def grantLoop : List LaneRequest → State → State
  | [], s => { s with oae := { s.oae with queue := [] } }
  | q :: rest, s =>
    if q.need ≤ s.freeLanes then grantLoop rest (grantOne q s)
    else { s with oae := { s.oae with queue := q :: rest } }

def State.grantTest (s : State) : State := grantLoop s.oae.queue s

/-- A post: discarded when the queue holds a request of the bay or lanes are bound to it; otherwise it joins the tail and
the grant test is made (R106). -/
def postRequest (b : Bay) (need : Nat) (s : State) : State :=
  if s.hasRequest b || s.holdsLanes b then s
  else
    State.grantTest
      { s with oae := { s.oae with queue := s.oae.queue ++ [{ bay := b, need := need, wait := 0 }] } }

/-- The bay's lanes are freed and its window made absent. -/
def dropWindow (b : Bay) (s : State) : State :=
  State.setWindow { s with oae := { s.oae with lanes := freeBayLanes b s.oae.lanes } } b none

/-- What the allocator does for a bay that enters STOPPING or COMPLETE (R110). -/
def releaseBay (b : Bay) (s : State) : State :=
  let hadRequest := s.hasRequest b
  let wasHead := s.headIs b
  let hadWindow := (s.bay b).window.isSome || s.holdsLanes b
  let s := { s with oae := { s.oae with queue := s.oae.queue.filter fun q => q.bay != b } }
  let s := if hadWindow then dropWindow b s else s
  let s := if hadRequest || hadWindow then s.emitBay .noiseAttempt b (some .nomeas) else s
  if wasHead || hadWindow then s.grantTest else s

/-! ### Blocks of a window -/

/-- The role of a lane's channel (R108). -/
def laneChannelRole : LaneRole → Role
  | .vibA => .vibA | .vibB => .vibB | .ambient => .ambientMic

/-- The latches of a window's bound lanes, in lane order. -/
def State.laneLatches (s : State) (b : Bay) (w : Window) : List (LaneRole × Latch) :=
  w.lanes.map fun a => (a.role, s.roleLatch b (laneChannelRole a.role))

/-- The validity test of a frame for a bay block (R113): every bound lane's channel updated, Steady true, and no clipped
sample on a VIB lane. -/
def frameValid (steady : Bool) (ls : List (LaneRole × Latch)) : Bool :=
  ls.all (fun x => x.2.fresh) && steady
    && ls.all (fun x => x.1 == .ambient || x.2.clippedCount == 0)

/-- A discard of the block in progress; BLOCK_DISCARD when it holds at least one frame (R113). -/
def discardBlock (b : Bay) (s : State) : State :=
  match (s.bay b).window with
  | none => s
  | some w =>
    match w.block with
    | none => s
    | some n =>
      let s := s.setWindow b (some w.dropBlock)
      if 0 < n then s.emitBay .blockDiscard b none else s

/-- The line steps of a frame at speed v (R119, R120). -/
def lineDeltas (r : Recipe) (v : Nat) : List Nat := r.lines.map fun l => lineStep (phaseStep v) l.order

/-- An accepted frame at an open window (R112), but for the closing. -/
def windowFrame (b : Bay) (s : State) : State :=
  match (s.bay b).window, s.recipeOf b with
  | some w, some r =>
    let w := w.beginBlock
    let s := s.setWindow b (some w)
    let ls := s.laneLatches b w
    if frameValid (s.bay b).spu.steady ls then
      let clip := ls.any fun x => x.1 == .ambient && decide (0 < x.2.clippedCount)
      s.setWindow b (some (w.takeFrame (lineDeltas r (s.bay b).spu.speed) (ls.map (·.2.samples)) clip))
    else discardBlock b s
  | _, _ => s

/-- The valid blocks have reached W (R115). -/
def State.windowFull (s : State) (b : Bay) : Bool :=
  match (s.bay b).window with
  | some w => w.valid == w.step.blocks
  | none => false

end Sys2Proof.Machine
end

