-- ==== Sys2Proof/Machine/Records.lean ====
section
/-! DEFINITION. Axle records: opening, verdict, finalization, and the serialized form (R25, R34 to R36, R179, R180). -/

namespace Sys2Proof.Machine

/-- The run-in summary at opening (R27). -/
def Summary.opening : Summary :=
  { driveTime := 0, maxOil := none, maxTorque := none, holdTime := 0, stepsCompleted := 0 }

/-- The lowest-index FREE record (R5). -/
def State.freeRecord (s : State) : Option RecIx :=
  (List.finRange 12).find? fun i => (s.art.get i).isNone

/-- Number of FREE records. -/
def State.freeRecords (s : State) : Nat := s.art.toList.countP (·.isNone)

/-- An OPEN or QUEUED record holds the serial (R4 check 6). -/
def State.serialInUse (s : State) (serial : Bytes) : Bool :=
  s.art.toList.any fun r => match r with
    | some x => x.serial == serial && x.state != .sent
    | none => false

/-- The verdict (R35) from the abort cause, the entries, and the MEASURE step count and cavity count of the recipe. -/
def verdictOf (measures cavities : Nat) (r : AxleRecord) : Verdict :=
  if r.cause.isSome then .aborted
  else if r.noise.any (fun n => n.result == .fail)
      || r.leaks.any (fun l => l.result == .fail || l.result == .gross) then .fail
  else if r.noise.any (fun n => n.result == .incomplete)
      || r.leaks.any (fun l => l.result == .incomplete)
      || r.noise.length < measures || r.leaks.length < cavities then .incomplete
  else .pass

/-- The fail reasons (R36). -/
def reasonsOf (r : AxleRecord) : FailReasons :=
  { noise := r.noise.any fun n => n.result == .fail
    leak := r.leaks.any fun l => l.result == .fail
    grossLeak := r.leaks.any fun l => l.result == .gross }

/-- MEASURE step count and cavity count of the recipe in a slot (R52). -/
def State.recipeCounts (s : State) (k : SlotIx) : Nat × Nat :=
  match (s.rbk.get k).recipe with
  | some r => (r.measureCount, r.cavities.length)
  | none => (0, 0)

/-- Lower a slot's pin count by 1 (R56). -/
def State.unpin (s : State) (k : SlotIx) : State :=
  { s with rbk := s.rbk.set k { s.rbk.get k with pins := (s.rbk.get k).pins - 1 } }

/-- Raise a slot's pin count by 1 (R56). -/
def State.pin (s : State) (k : SlotIx) : State :=
  { s with rbk := s.rbk.set k { s.rbk.get k with pins := (s.rbk.get k).pins + 1 } }

/-- The finalized form of a record: end time, verdict and fail reasons, QUEUED (R34 steps 1, 2, 3, 5). -/
def finalized (now : BitVec 32) (v : Verdict) (r : AxleRecord) : AxleRecord :=
  { r with state := .queued, endTime := some now, verdict := some v, reasons := some (reasonsOf r) }

/-- Finalization of an OPEN record, with its verdict (R34). -/
def finalize (i : RecIx) (r : AxleRecord) (s : State) : State × Verdict :=
  let counts := s.recipeCounts r.slot
  let v := verdictOf counts.1 counts.2 r
  let s := s.unpin r.slot
  let s := { s with
    art := s.art.set i (some (finalized s.tbs.cellTime v r))
    rsp := { s.rsp with spool := s.rsp.spool ++ [i] } }
  (s.emit { event := .axleDone, bay := some r.bay, result := some (verdictResult v), slot := some r.slot }, v)

/-! ### Serialized form (R179) -/

def lineResultBytes (l : LineResult) : Bytes :=
  [BitVec.ofNat 8 (lineStateCode l.state), BitVec.ofNat 8 (vibLaneCode l.lane)]
    ++ leBytes 2 l.limit ++ leBytes 4 l.peak ++ leBytes 4 (l.ambient.getD 0)

/-- 0 no ambient lane or a NOMEAS reason present, 1 ambient lane not clipped, 2 ambient clipped. -/
def ambientCode : Option Bool → Nat
  | none => 0 | some false => 1 | some true => 2

def noiseEntryBytes (e : NoiseEntry) : Bytes :=
  [BitVec.ofNat 8 e.stepIndex, BitVec.ofNat 8 e.measureIndex, BitVec.ofNat 8 (loadModeCode e.loadMode),
   BitVec.ofNat 8 e.attempts] ++ leBytes 2 e.target
    ++ [BitVec.ofNat 8 (noiseResultCode e.result), BitVec.ofNat 8 (nomeasCode e.reason),
        BitVec.ofNat 8 (ambientCode e.ambient), BitVec.ofNat 8 e.lines.length, 0, 0]
    ++ (e.lines.map lineResultBytes).flatten

def leakEntryBytes (e : LeakEntry) : Bytes :=
  [BitVec.ofNat 8 (cavityIdCode e.id), BitVec.ofNat 8 e.attempts, BitVec.ofNat 8 (leakResultCode e.result),
   BitVec.ofNat 8 (flagBit 0 e.p0.isSome + flagBit 1 e.p1.isSome)]
    ++ signedBytes 2 (e.p0.getD 0) ++ signedBytes 2 (e.t0.getD 0)
    ++ signedBytes 2 (e.p1.getD 0) ++ signedBytes 2 (e.t1.getD 0)
    ++ signedBytes 4 (e.decay.getD 0) ++ signedBytes 4 (e.rate.getD 0)

/-- Fail reasons: bits 0..2 NOISE, LEAK, GROSS_LEAK; absent is 0. -/
def reasonsCode : Option FailReasons → Nat
  | none => 0
  | some r => flagsNat [r.noise, r.leak, r.grossLeak]

/-- A record as it stands, in the layout of R179. -/
def recordBytes (i : RecIx) (r : AxleRecord) : Bytes :=
  [BitVec.ofNat 8 i.val, BitVec.ofNat 8 (recStateCode r.state)] ++ serialBytes r.serial
    ++ [BitVec.ofNat 8 r.bay.val, BitVec.ofNat 8 r.slot.val] ++ padText 16 r.name ++ leBytes 2 r.version
    ++ leBytes 4 r.startTime.toNat ++ leBytes 4 (match r.endTime with | some t => t.toNat | none => 0)
    ++ [BitVec.ofNat 8 (flagsNat [r.endTime.isSome, r.summary.maxOil.isSome, r.summary.maxTorque.isSome]),
        BitVec.ofNat 8 (verdictCode r.verdict), BitVec.ofNat 8 (reasonsCode r.reasons),
        BitVec.ofNat 8 (causeCode r.cause), BitVec.ofNat 8 r.summary.stepsCompleted]
    ++ leBytes 4 r.summary.driveTime ++ leBytes 4 r.summary.holdTime
    ++ signedBytes 2 (r.summary.maxOil.getD 0) ++ leBytes 2 (r.summary.maxTorque.getD 0)
    ++ [BitVec.ofNat 8 r.noise.length, BitVec.ofNat 8 r.leaks.length, 0, 0]
    ++ (r.noise.map noiseEntryBytes).flatten ++ (r.leaks.map leakEntryBytes).flatten

/-- Bytes of a share (R180). -/
def shareSize : Nat := 512

/-- The part count of a serialized record of n bytes: n / 512 rounded up (R180). -/
def partCountOf (n : Nat) : Nat := (n + 511) / shareSize

/-- A part: the 26-byte part header and the part's share (R180). The alarm flag word is the bay's, as it stands. -/
def partBytes (s : State) (i : RecIx) (r : AxleRecord) (part count : Nat) : Bytes :=
  [BitVec.ofNat 8 i.val] ++ serialBytes r.serial ++ [BitVec.ofNat 8 part, BitVec.ofNat 8 count]
    ++ leBytes 2 (alarmWord (s.bay r.bay).ctl.alarms)
    ++ ((recordBytes i r).drop (shareSize * part)).take shareSize

end Sys2Proof.Machine
end

