-- ==== Sys2Proof/Machine/RunIn.lean ====
section
/-! DEFINITION. Run-in Sequencer: step entry, ramps, waits, measurement attempts, noise entries and the run-down
(R87 to R101). What these do to the bay's test as a whole is in Bays.lean. -/

namespace Sys2Proof.Machine

/-- The load mode runs in reverse (R88). -/
def LoadMode.isReverse : LoadMode → Bool
  | .fwdDrive | .fwdCoast => false
  | .revDrive | .revCoast => true

/-- The RIS at rest after STANDSTILL: drive enable 0, load mode and torque limit absent, IDLE (R100, R101); HOLD ends at
the end of RUNIN (R94). -/
def Ris.atRest (r : Ris) : Ris :=
  { r with
    phase := .idle, stepIndex := none, driveEnable := false, loadMode := none, torqueLimit := none,
    hold := false, holdTimer := 0 }

/-- The commanded speed is 0 and STANDSTILL is true: a wait for STANDSTILL is over (R90). -/
def State.atStandstill (s : State) (b : Bay) : Bool :=
  (s.bay b).ris.cmdSpeed == 0 && (s.bay b).spu.standstill

/-- Steps completed + 1 (R92, R102). -/
def stepCompleted (b : Bay) (s : State) : State :=
  s.writeSummary b fun m => { m with stepsCompleted := m.stepsCompleted + 1 }

/-- The target of a step's ramp: the target speed for RUN and MEASURE, 0 for STOP (R88). -/
def Step.rampTarget (st : Step) : Nat := if st.kind = .stop then 0 else st.target

/-- The phase that follows a step's ramp, with the phase timer at 0 (R88, R89, R91). -/
def Ris.leaveRamp (st : Step) (r : Ris) : Ris :=
  { r with phase := if st.kind = .stop then .stopWait else .settle, phaseTimer := 0 }

/-- Step 3 of R88: the step's load mode and torque limit, and its ramp, left at once when the commanded speed already
equals the target. The phase timer is 0 in the ramp, also after the wait of a REVERSE_STOP (R88; the worked sequence of
section 6.12, event 3). -/
def startRamp (b : Bay) (st : Step) (s : State) : State :=
  s.updRis b fun r =>
    let r := { r with loadMode := some st.loadMode, torqueLimit := some st.torqueLimit, rampFrac := 0,
                      phase := .ramp, phaseTimer := 0 }
    if r.cmdSpeed = st.rampTarget then r.leaveRamp st else r

/-- A STOP step stands in STOP_WAIT at STANDSTILL, so it is finished (R92). -/
def State.stopStepDone (s : State) (b : Bay) : Bool :=
  (s.bay b).ris.phase == .stopWait && s.atStandstill b

/-- RUNDOWN ends at STANDSTILL with the commanded speed 0 (R100, R101). -/
def rundownTest (b : Bay) (s : State) : State :=
  if (s.bay b).ris.phase = .rundown ∧ s.atStandstill b then s.updRis b Ris.atRest else s

/-- RUNDOWN after the last step (R100). The phase timer is set to 0 on entry also while the commanded speed is above 0, where no rule
gives it and nothing reads it (log entry 35). -/
def enterRundown (b : Bay) (s : State) : State :=
  rundownTest b (s.updRis b fun r => { r with phase := .rundown, rampFrac := 0, phaseTimer := 0 })

/-- The step's direction differs from that of the load mode in force and the commanded speed is above 0 (R88 step 2). -/
def Ris.mustReverse (st : Step) (r : Ris) : Bool :=
  match r.loadMode with
  | some m => m.isReverse != st.loadMode.isReverse && decide (0 < r.cmdSpeed)
  | none => false

/-- Step 1 of R88 for step i. -/
def Ris.setStep (st : Step) (i : Nat) (r : Ris) : Ris :=
  { r with stepIndex := some i, attempts := 0, phaseTimer := 0,
           budget := if st.kind = .measure then st.retry else 0 }

/-- Enter the first of the remaining steps, which is step i; a step finished on entry is left for the next, and after the
last the RIS enters RUNDOWN (R88, R92, R100). -/
def enterSteps (b : Bay) : List Step → Nat → State → State
  | [], _, s => enterRundown b s
  | st :: rest, i, s =>
    let s := s.updRis b (Ris.setStep st i)
    if (s.bay b).ris.mustReverse st then
      s.updRis b fun r => { r with phase := .reverseStop, rampFrac := 0 }
    else
      let s := startRamp b st s
      if s.stopStepDone b then enterSteps b rest (i + 1) (stepCompleted b s) else s

/-- The steps of the bay's recipe from step i on. -/
def State.stepsFrom (s : State) (b : Bay) (i : Nat) : List Step :=
  match s.recipeOf b with
  | some r => r.steps.drop i
  | none => []

/-- The step in progress is left for the next (R92). -/
def nextStep (b : Bay) (s : State) : State :=
  match (s.bay b).ris.stepIndex with
  | some i => enterSteps b (s.stepsFrom b (i + 1)) (i + 1) s
  | none => s

/-- The step in progress is finished (R92). -/
def finishStep (b : Bay) (s : State) : State := nextStep b (stepCompleted b s)

/-- The BYC directs the RIS to begin RUNIN (R88, R95). -/
def beginRunin (b : Bay) (s : State) : State :=
  let s := s.setCmdSpeed b 0
  let s := s.updRis b fun r => { r with driveEnable := true, rampFrac := 0, overload := 0 }
  enterSteps b (s.stepsFrom b 0) 0 s

/-- REVERSE_STOP has ended: the new step's load mode, torque limit and ramp (R90). -/
def endReverseStop (b : Bay) (s : State) : State :=
  match s.stepOf b with
  | some st =>
    let s := startRamp b st s
    if s.stopStepDone b then finishStep b s else s
  | none => s

/-- STANDSTILL is tested in the phases that wait for it, once the commanded speed is 0 (R90, R92, R100, R101). -/
def standstillTest (b : Bay) (s : State) : State :=
  if s.atStandstill b then
    match (s.bay b).ris.phase with
    | .reverseStop => endReverseStop b s
    | .stopWait => finishStep b s
    | .rundown => s.updRis b Ris.atRest
    | _ => s
  else s

/-! ### Measurement attempts (R96 to R99) -/

/-- Post a lane request, one more attempt (R96). -/
def postAttempt (b : Bay) (s : State) : State :=
  match s.recipeOf b, s.stepOf b with
  | some r, some st =>
    postRequest b (r.laneNeed st) (s.updRis b fun x => { x with attempts := x.attempts + 1 })
  | _, _ => s

/-- Entry to MEASURE_WAIT: a request is posted if HOLD is no (R96). -/
def enterMeasureWait (b : Bay) (s : State) : State :=
  let s := s.updRis b fun r => { r with phase := .measureWait }
  if (s.bay b).ris.hold then s else postAttempt b s

/-- SETTLE ends at a frame with Steady true: DWELL or MEASURE_WAIT (R91). A dwell of 0 finishes the step (R92). -/
def endSettle (b : Bay) (s : State) : State :=
  match s.stepOf b with
  | some st =>
    if st.kind = .measure then enterMeasureWait b s
    else
      let s := s.updRis b fun r => { r with phase := .dwell, phaseTimer := 0 }
      if st.dwell = 0 then finishStep b s else s
  | none => s

/-- Entry to SETTLE with the phase timer at 0 (R91). -/
def enterSettle (b : Bay) (s : State) : State :=
  s.updRis b fun r => { r with phase := .settle, phaseTimer := 0 }

/-- Entry to RERUN; a rerun dwell of 0 goes to SETTLE at once (R99). -/
def enterRerun (b : Bay) (st : Step) (s : State) : State :=
  if st.rerunDwell = 0 then enterSettle b s
  else s.updRis b fun r => { r with phase := .rerun, phaseTimer := 0 }

/-- Offer the noise entry of the step in progress (R98). -/
def offerNoiseEntry (b : Bay) (st : Step) (result : NoiseResult) (reason : Option NomeasReason)
    (lines : List LineResult) (ambient : Option Bool) (s : State) : State :=
  s.offerNoise b
    { stepIndex := ((s.bay b).ris.stepIndex).getD 0
      measureIndex := st.measureIndex
      loadMode := st.loadMode
      target := st.target
      attempts := (s.bay b).ris.attempts
      result, reason, ambient, lines }

/-- What the RIS does with a result (R97): the new state, and whether run-in is to end early (R99). -/
structure Taken where
  state : State
  early : Bool

/-- The step's retry budget pays for another attempt. -/
def spendBudget (b : Bay) (s : State) : State := s.updRis b fun r => { r with budget := r.budget - 1 }

/-- R97's table for a result taken in its phase. -/
def actOnResult (b : Bay) (r : Recipe) (st : Step) (w : WindowResult) (s : State) : Taken :=
  let budget := (s.bay b).ris.budget
  match w.outcome with
  | .pass =>
    { state := finishStep b (offerNoiseEntry b st .pass none w.lines w.ambient s), early := false }
  | .fail =>
    if st.rerunOnFail ∧ 0 < budget then { state := enterRerun b st (spendBudget b s), early := false }
    else
      let s := offerNoiseEntry b st .fail none w.lines w.ambient s
      if r.stopAtFirstFail then { state := stepCompleted b s, early := true }
      else { state := finishStep b s, early := false }
  | .retry =>
    if 0 < budget then { state := enterSettle b (spendBudget b s), early := false }
    else { state := finishStep b (offerNoiseEntry b st .incomplete none w.lines w.ambient s), early := false }
  | .nomeas reason =>
    if 0 < budget then { state := enterSettle b (spendBudget b s), early := false }
    else { state := finishStep b (offerNoiseEntry b st .incomplete (some reason) [] none s), early := false }

/-- The RIS takes a window result in MEASURE and a LANE_WAIT result in MEASURE_WAIT; "a result that finds the RIS in
another phase is ignored" (R97). -/
def takeResult (b : Bay) (w : WindowResult) (s : State) : Taken :=
  let phase := (s.bay b).ris.phase
  if phase = .measure ∨ (phase = .measureWait ∧ w.outcome = .nomeas .laneWait) then
    match s.recipeOf b, s.stepOf b with
    | some r, some st => actOnResult b r st w s
    | _, _ => { state := s, early := false }
  else { state := s, early := false }

/-! ### Stopping (R101) -/

/-- RUNDOWN under STOPPING: ramp fraction 0, HOLD no; STANDSTILL is tested on entry (R101). The phase timer, which nothing reads
there, is set to 0 (log entry 35). -/
def stopRundown (b : Bay) (s : State) : State :=
  rundownTest b (s.updRis b fun r =>
    { r with phase := .rundown, rampFrac := 0, phaseTimer := 0, hold := false, holdTimer := 0 })

/-- The BYC's direction at entry to STOPPING by abort (R101). -/
def risAbort (b : Bay) (s : State) : State :=
  let phase := (s.bay b).ris.phase
  if phase = .idle then s
  else if phase = .measureWait ∨ phase = .measure then
    match s.stepOf b with
    | some st => stopRundown b (offerNoiseEntry b st .incomplete (some .aborted) [] none s)
    | none => stopRundown b s
  else stopRundown b s

/-! ### The ramp (R89) -/

/-- One ramp tick from commanded speed `cmd` and fraction `frac` toward `target` at `rate` rpm/s: the new commanded speed and
fraction (R89 steps 1 to 3). -/
def rampStep (rate target maxSpeed cmd frac : Nat) : Nat × Nat :=
  let f := frac + 16 * rate
  let size := f / 1000
  let moved := if cmd ≤ target then min target (cmd + size) else max target (cmd - size)
  (min maxSpeed moved, f % 1000)

/-- The ramp's target and rate in force, when the RIS is ramping (R89, R90, R100). -/
def rampInForce (r : Recipe) (st : Step) (x : Ris) : Option (Nat × Nat) :=
  match x.phase with
  | .ramp => some (st.rampTarget, st.rampRate)
  | .reverseStop => if x.cmdSpeed = 0 then none else some (0, r.stopRamp)
  | .rundown => if x.cmdSpeed = 0 then none else some (0, r.stopRamp)
  | _ => none

/-- The ramp phase is left on reaching the target (R89 step 4). -/
def reachTarget (b : Bay) (st : Step) (s : State) : State :=
  let s := s.updRis b fun r => { r with rampFrac := 0 }
  if (s.bay b).ris.phase = .ramp then
    let s := s.updRis b (Ris.leaveRamp st)
    if s.stopStepDone b then finishStep b s else s
  else standstillTest b (s.updRis b fun r => { r with phaseTimer := 0 })

/-- A ramp tick of the bay (R89). -/
def rampTick (b : Bay) (r : Recipe) (st : Step) (target rate : Nat) (s : State) : State :=
  let x := (s.bay b).ris
  let p := rampStep rate target r.maxSpeed x.cmdSpeed x.rampFrac
  let s := (s.setCmdSpeed b p.1).updRis b fun y => { y with rampFrac := p.2 }
  if (s.bay b).ris.cmdSpeed = target then reachTarget b st s else s

end Sys2Proof.Machine
end

