-- ==== Sys2Proof/Machine/Leak.lean ====
section
/-! DEFINITION. Leak Test Unit: cavity phases, valve bits, compensated decay, judgement, retry, vents and the abort
direction (R130 to R143). What these do to the bay's test as a whole is in Bays.lean. -/

namespace Sys2Proof.Machine

/-! ### Valves, readings and the leak entry -/

/-- The bit of valve pair 1..3 (R130, R174). -/
def pairBit (pair : Nat) : BitVec 3 := 1 <<< (pair - 1)

/-- P0 to rate made absent (R132, R138). -/
def Ltu.noReadings (u : Ltu) : Ltu :=
  { u with p0 := none, t0 := none, p1 := none, t1 := none, decay := none, rate := none }

/-- FILL is left: the pair's fill bit is 0 (R139). -/
def Ltu.closeFill (c : Cavity) (u : Ltu) : Ltu := { u with fill := u.fill &&& ~~~ pairBit c.pair }

/-- Entry to FILL: fill 1, vent 0, phase timer 0 (R133, R139). -/
def Ltu.enterFill (c : Cavity) (u : Ltu) : Ltu :=
  { u with phase := .fill, phaseTimer := 0, fill := u.fill ||| pairBit c.pair,
           vent := u.vent &&& ~~~ pairBit c.pair }

/-- Entry to SETTLE (R134). -/
def Ltu.enterSettle (c : Cavity) (u : Ltu) : Ltu := { u.closeFill c with phase := .settle, phaseTimer := 0 }

/-- Entry to MEASURE with P0 and T0 latched (R134, R135). -/
def Ltu.enterMeasure (p t : Int) (u : Ltu) : Ltu :=
  { u with phase := .measure, phaseTimer := 0, p0 := some p, t0 := some t }

/-- Entry to VENT: fill 0, vent 1, phase timer 0 (R138, R139). -/
def Ltu.enterVent (c : Cavity) (what : AfterVent) (u : Ltu) : Ltu :=
  { u with phase := .vent, phaseTimer := 0, afterVent := some what, fill := u.fill &&& ~~~ pairBit c.pair,
           vent := u.vent ||| pairBit c.pair }

/-- The end of a vent: the pair's vent bit is 0 and after vent is absent (R130, R138). -/
def Ltu.closeVent (c : Cavity) (u : Ltu) : Ltu :=
  { u with vent := u.vent &&& ~~~ pairBit c.pair, afterVent := none }

/-- Entry of recipe cavity i, in COOL_WAIT (R132). -/
def Ltu.enterCavity (c : Cavity) (i : Nat) (u : Ltu) : Ltu :=
  { u.noReadings with
    phase := .coolWait, cavityIndex := some i, phaseTimer := 0, attempts := 1, budget := c.retry,
    offered := false }

/-- The reading of the cavity's pressure role. -/
def State.cavityPressure (s : State) (b : Bay) (c : Cavity) : Int := s.roleReading b c.pressRole

/-- The reading of the cavity's temperature role. -/
def State.cavityTemp (s : State) (b : Bay) (c : Cavity) : Int := s.roleReading b c.tempRole

/-- Offer the leak entry of a cavity with the readings as they stand (R140). -/
def offerLeakEntry (b : Bay) (c : Cavity) (result : LeakResult) (s : State) : State :=
  let u := (s.bay b).ltu
  (s.offerLeak b
    { id := c.id, attempts := u.attempts, result := result, p0 := u.p0, t0 := u.t0, p1 := u.p1,
      t1 := u.t1, decay := u.decay, rate := u.rate }).updLtu b fun x => { x with offered := true }

/-- The event of an attempt (R143). -/
def leakAttempt (b : Bay) (outcome : ResultName) (s : State) : State :=
  s.emitBay .leakAttempt b (some outcome)

/-- A cavity ends GROSS with the readings as they stand (R133 to R135). -/
def grossEnd (b : Bay) (c : Cavity) (s : State) : State :=
  (offerLeakEntry b c .gross (leakAttempt b .gross s)).updLtu b (Ltu.enterVent c .next)

/-- The attempt ends INCOMPLETE: its event and its entry (R132, R141). -/
def incompleteEnd (b : Bay) (c : Cavity) (s : State) : State :=
  offerLeakEntry b c .incomplete (leakAttempt b .incomplete s)

/-! ### Compensated decay (R136, R137) -/

/-- The pressure change the temperature change alone would make. -/
def thermalTerm (p0 pa t0 t1 : Int) : Int :=
  if t0 + 27315 ≤ 0 then 0 else ((p0 + pa) * (t1 - t0)).tdiv (t0 + 27315)

/-- D. -/
def decayOf (p0 p1 pa t0 t1 : Int) : Int := clamp32 ((p0 - p1) + thermalTerm p0 pa t0 t1)

/-- The decay per minute. -/
def rateOf (d : Int) (measureTime : Nat) : Int := clamp32 ((d * 60000).tdiv measureTime)

/-- The outcome of a judged attempt. -/
inductive DecayOutcome where
  | pass | fail | invalid
  deriving DecidableEq, Repr

/-- R137: D above the decay limit fails, D below the negative of the negative decay limit is not believed. -/
def judgeDecay (c : Cavity) (d : Int) : DecayOutcome :=
  if (c.decayLimit : Int) < d then .fail
  else if d < -(c.negDecayLimit : Int) then .invalid
  else .pass

def DecayOutcome.name : DecayOutcome → ResultName
  | .pass => .pass | .fail => .fail | .invalid => .invalid

/-- The entry result of a final judgement (R137). -/
def DecayOutcome.entry : DecayOutcome → LeakResult
  | .pass => .pass | .fail => .fail | .invalid => .incomplete

/-- A judged attempt: a FAIL or INVALID with budget is vented for a refill, any other outcome is final (R137). -/
def actOnDecay (b : Bay) (c : Cavity) (o : DecayOutcome) (s : State) : State :=
  let s := leakAttempt b o.name s
  if o ≠ .pass ∧ 0 < (s.bay b).ltu.budget then
    s.updLtu b fun u => { u.enterVent c .refill with budget := 0 }
  else (offerLeakEntry b c o.entry s).updLtu b (Ltu.enterVent c .next)

/-- The measure time has passed: P1, T1 and Pa, D and rate, and the judgement (R135 to R137). -/
def measureEnd (b : Bay) (c : Cavity) (s : State) : State :=
  let u := (s.bay b).ltu
  let p1 := s.cavityPressure b c
  let t1 := s.cavityTemp b c
  let d := decayOf (u.p0.getD 0) p1 (s.roleReading b .baro) (u.t0.getD 0) t1
  actOnDecay b c (judgeDecay c d)
    (s.updLtu b fun x =>
      { x with p1 := some p1, t1 := some t1, decay := some d, rate := some (rateOf d c.measureTime) })

/-- The settle time has passed: P0 and T0 are latched (R134). -/
def settleEnd (b : Bay) (c : Cavity) (s : State) : State :=
  s.updLtu b (Ltu.enterMeasure (s.cavityPressure b c) (s.cavityTemp b c))

/-! ### COOL_WAIT and the cavities (R131, R132) -/

/-- STANDSTILL and drive enable 0 found in a leak sub-phase make start permitted yes (R131). -/
def permitStart (b : Bay) (s : State) : State :=
  if s.inLeak b && (s.bay b).spu.standstill && !(s.bay b).ris.driveEnable then
    s.updLtu b fun u => { u with startPermitted := true }
  else s

/-- The cavity may leave COOL_WAIT for FILL (R132). -/
def State.coolEnough (s : State) (b : Bay) (c : Cavity) : Bool :=
  decide (s.cavityTemp b c ≤ c.maxStartTemp) && (s.bay b).ltu.startPermitted

/-- Enter the first of the remaining cavities, which is cavity i, with its test on entry; a cool-wait limit of 0 ends
the cavity at once when that test fails; after the last cavity the LTU is DONE (R132, R138). -/
def enterCavities (b : Bay) : List Cavity → Nat → State → State
  | [], _, s => s.updLtu b fun u => { u with phase := .done, cavityIndex := none }
  | c :: rest, i, s =>
    let s := s.updLtu b (Ltu.enterCavity c i)
    if s.coolEnough b c then s.updLtu b (Ltu.enterFill c)
    else if c.coolWaitLimit = 0 then enterCavities b rest (i + 1) (incompleteEnd b c s)
    else s

/-- The cavities of the bay's recipe from cavity i on. -/
def State.cavitiesFrom (s : State) (b : Bay) (i : Nat) : List Cavity :=
  match s.recipeOf b with
  | some r => r.cavities.drop i
  | none => []

/-- The cavity in progress is left for the next (R132, R138). -/
def nextCavity (b : Bay) (s : State) : State :=
  match (s.bay b).ltu.cavityIndex with
  | some i => enterCavities b (s.cavitiesFrom b (i + 1)) (i + 1) s
  | none => s

/-- The BYC directs the LTU to begin a leak sub-phase (R131). -/
def beginLeak (b : Bay) (s : State) : State :=
  let s := permitStart b (s.updLtu b fun u => { u with startPermitted := false })
  enterCavities b (s.cavitiesFrom b 0) 0 s

/-- The test of COOL_WAIT, made on frames and when start permitted becomes yes (R132). -/
def coolTest (b : Bay) (s : State) : State :=
  match s.cavityOf b with
  | some c =>
    if (s.bay b).ltu.phase = .coolWait ∧ s.coolEnough b c then s.updLtu b (Ltu.enterFill c) else s
  | none => s

/-- The cool-wait limit has passed (R132). -/
def coolWaitEnd (b : Bay) (c : Cavity) (s : State) : State := nextCavity b (incompleteEnd b c s)

/-! ### Frames (R132 to R135) -/

/-- The pressure of a frame in FILL is above fill target + overfill margin (R133). -/
def State.overfilled (s : State) (b : Bay) (c : Cavity) : Bool :=
  (s.bay b).ltu.phase == .fill
    && decide ((c.fillTarget : Int) + c.overfillMargin < s.cavityPressure b c)

/-- An accepted frame at the LTU in a leak sub-phase, but for the overfill test (R132 to R135). -/
def leakFrame (b : Bay) (c : Cavity) (s : State) : State :=
  let p := s.cavityPressure b c
  match (s.bay b).ltu.phase with
  | .coolWait => coolTest b s
  | .fill => if (c.fillTarget : Int) - c.fillTolerance ≤ p then s.updLtu b (Ltu.enterSettle c) else s
  | .settle => if p < (c.fillTarget : Int) - c.grossMargin then grossEnd b c s else s
  | .measure => if p < (s.bay b).ltu.p0.getD 0 - c.grossMargin then grossEnd b c s else s
  | .vent => s
  | .idle => s
  | .done => s

/-! ### Ticks (R132 to R138) -/

/-- A vent has lasted its vent time: REFILL, the next cavity, DONE, or IDLE in STOPPING (R138, R141). -/
def ventEnd (b : Bay) (c : Cavity) (s : State) : State :=
  let what := (s.bay b).ltu.afterVent
  let s := s.updLtu b (Ltu.closeVent c)
  if s.running b then
    match what with
    | some .refill => s.updLtu b fun u => { (u.noReadings.enterFill c) with attempts := 2 }
    | _ => nextCavity b s
  else s.updLtu b fun u => { u with phase := .idle, cavityIndex := none }

/-- The time limit of the LTU's phase, if the phase is timed. -/
def Ltu.limit (c : Cavity) (u : Ltu) : Option Nat :=
  match u.phase with
  | .coolWait => some c.coolWaitLimit
  | .fill => some c.fillTimeout
  | .settle => some c.settleTime
  | .measure => some c.measureTime
  | .vent => some c.ventTime
  | .idle => none
  | .done => none

/-- What the end of a timed phase does. -/
def phaseEnd (b : Bay) (c : Cavity) (s : State) : State :=
  match (s.bay b).ltu.phase with
  | .coolWait => coolWaitEnd b c s
  | .fill => grossEnd b c s
  | .settle => settleEnd b c s
  | .measure => measureEnd b c s
  | .vent => ventEnd b c s
  | .idle => s
  | .done => s

/-- The next tick brings the phase timer to the phase's limit. -/
def State.ltuExpires (s : State) (b : Bay) : Bool :=
  match s.cavityOf b with
  | some c =>
    match (s.bay b).ltu.limit c with
    | some n => decide (n ≤ (s.bay b).ltu.phaseTimer + 1)
    | none => false
  | none => false

/-- A ms tick at the LTU: the phase timer is raised, and at the phase's limit the phase ends. -/
def ltuTick (b : Bay) (s : State) : State :=
  match s.cavityOf b with
  | some c =>
    match (s.bay b).ltu.limit c with
    | some n =>
      let t := (s.bay b).ltu.phaseTimer + 1
      let s := s.updLtu b fun u => { u with phaseTimer := t }
      if n ≤ t then phaseEnd b c s else s
    | none => s
  | none => s

/-! ### Abort (R141) -/

/-- The BYC's direction at entry to STOPPING by abort, by the LTU's phase (R141). After vent of the vent it begins is NEXT, which
has no effect in STOPPING (log entry 36). -/
def ltuAbort (b : Bay) (s : State) : State :=
  match s.cavityOf b with
  | some c =>
    match (s.bay b).ltu.phase with
    | .idle => s
    | .done => s
    | .coolWait => (incompleteEnd b c s).updLtu b fun u => { u with phase := .idle, cavityIndex := none }
    | .fill => (incompleteEnd b c s).updLtu b (Ltu.enterVent c .next)
    | .settle => (incompleteEnd b c s).updLtu b (Ltu.enterVent c .next)
    | .measure => (incompleteEnd b c s).updLtu b (Ltu.enterVent c .next)
    | .vent => if (s.bay b).ltu.offered then s else offerLeakEntry b c .incomplete s
  | none => s

end Sys2Proof.Machine
end

