-- ==== Sys2Proof/Machine/Bays.lean ====
section
/-! DEFINITION. Bay Controller: sub-phases, faults and aborts, STOPPING, COMPLETE, the quality stop, and the events of a
bay's units that move its test on (R3, R7 to R17, R93 to R97, R116). -/

namespace Sys2Proof.Machine

/-! ### COMPLETE (R16, R17) -/

/-- The consecutive-fail count and the quality stop after a verdict (R17). -/
def BayCtl.qualityStop (limit : Nat) (v : Verdict) (c : BayCtl) : BayCtl :=
  match v with
  | .pass => { c with failCount := 0 }
  | .fail =>
    let n := min 15 (c.failCount + 1)
    if limit ≠ 0 ∧ limit ≤ n then
      { c with failCount := n, alarms := withAlarm c.alarms .qstop, lockPending := true }
    else { c with failCount := n }
  | .incomplete => c
  | .aborted => c

/-- The bay's bound record when it is OPEN. -/
def State.openRecord (s : State) (b : Bay) : Option (RecIx × AxleRecord) :=
  match (s.bay b).ctl.bound with
  | none => none
  | some i =>
    match s.art.get i with
    | some r => if r.state = .opened then some (i, r) else none
    | none => none

/-- The bound record becomes the last record (R6, R16 step 2). -/
def BayCtl.unbind (c : BayCtl) : BayCtl := { c with last := c.bound, bound := none }

/-- The bay is COMPLETE, its RIS and LTU left idle with their initial values (R16, R101, R130). -/
def BayUnit.complete (u : BayUnit) : BayUnit :=
  { u with ctl := { u.ctl with state := .complete, subPhase := none }, ris := .reset, ltu := .reset }

/-- Entry to COMPLETE (R16). -/
def enterComplete (b : Bay) (s : State) : State :=
  let p := match s.openRecord b with
    | some (i, r) => ((finalize i r s).1, some (finalize i r s).2)
    | none => (s, none)
  let s := releaseBay b (p.1.updCtl b BayCtl.unbind)
  let s := match p.2 with
    | some v => s.updCtl b (BayCtl.qualityStop s.mga.params.qualityStopLimit v)
    | none => s
  s.updBay b BayUnit.complete

/-! ### STOPPING (R12, R13, R15) -/

/-- The three conditions of R13. -/
def State.atRest (s : State) (b : Bay) : Bool :=
  (s.bay b).spu.standstill && (s.bay b).ltu.fill == 0 && (s.bay b).ltu.vent == 0
    && (s.bay b).ltu.phase != .vent

/-- The test of R13. -/
def testStopped (b : Bay) (s : State) : State :=
  if (s.bay b).ctl.state = .stopping ∧ s.atRest b then enterComplete b s else s

/-- The bay is STOPPING: stopping time 0, sub-phase absent (R12, R15). -/
def BayCtl.stop (c : BayCtl) : BayCtl :=
  { c with state := .stopping, subPhase := none, stoppingTime := 0 }

/-- The end of the last planned sub-phase (R15). -/
def stopNormally (b : Bay) (s : State) : State :=
  testStopped b (releaseBay b (s.updCtl b BayCtl.stop))

/-- Early end: the RIS ramps down as in STOPPING (R15, R99, R101). An end reported for a bay that is not RUNNING is
ignored (R3). -/
def earlyEnd (b : Bay) (s : State) : State :=
  if s.running b then testStopped b (stopRundown b (releaseBay b (s.updCtl b BayCtl.stop))) else s

/-- The abort cause, set in the bay and written into the bound record in the same change (R33). -/
def setCause (b : Bay) (cause : Cause) (s : State) : State :=
  (s.writeBound b fun r => { r with cause := some cause }).updCtl b fun c => { c with cause := some cause }

/-- Abort of a RUNNING bay: cause, STOPPING, the directions to RIS, LTU and allocator, and the test of R13
(R10, R12). -/
def abortBay (b : Bay) (cause : Cause) (s : State) : State :=
  let s := (setCause b cause s).updCtl b BayCtl.stop
  testStopped b (releaseBay b (ltuAbort b (risAbort b s)))

/-- A supervision fault: its flag is latched, and a RUNNING bay is aborted (R10). -/
def raiseFault (b : Bay) (cause : Cause) (s : State) : State :=
  let s := match causeAlarm cause with
    | some a => s.latchAlarm b a
    | none => s
  if s.running b then abortBay b cause s else s

/-! ### Sub-phases (R3, R7) -/

/-- The bay takes a sub-phase and directs its owner to begin. -/
def beginSubPhase (b : Bay) (p : SubPhase) (s : State) : State :=
  let s := s.updCtl b fun c => { c with subPhase := some p }
  match p with
  | .runin => beginRunin b s
  | .leakPre => beginLeak b s
  | .leakPost => beginLeak b s

/-- The owner of the sub-phase in progress has ended it: RUNIN with the RIS back in IDLE, a leak sub-phase with the LTU
in DONE (R3). -/
def State.subPhaseDone (s : State) (b : Bay) : Bool :=
  s.running b &&
    (match (s.bay b).ctl.subPhase with
      | some .runin => (s.bay b).ris.phase == .idle
      | some .leakPre => (s.bay b).ltu.phase == .done
      | some .leakPost => (s.bay b).ltu.phase == .done
      | none => false)

/-- Take the sub-phases of a plan from the first on, as long as each is done when it begins; after the last the bay
leaves RUNNING (R3, R15). -/
def runPlan (b : Bay) : List SubPhase → State → State
  | [], s => stopNormally b s
  | p :: rest, s =>
    let s := beginSubPhase b p s
    if s.subPhaseDone b then runPlan b rest s else s

/-- The sub-phases of the plan after the one in progress. -/
def BayCtl.planAfter (c : BayCtl) : List SubPhase :=
  (c.plan.dropWhile fun p => some p != c.subPhase).drop 1

/-- Sub-phase done, if the bay's units have come to it (R3). -/
def advance (b : Bay) (s : State) : State :=
  if s.subPhaseDone b then runPlan b (s.bay b).ctl.planAfter s else s

/-- Entry to RUNNING (R7): the plan is run first, and the frame is tested by R8 and R9 after it. A test that ends inside the entry
(STOP steps only, at STANDSTILL, without leak test) is therefore not tested on that frame (log entry 45). -/
def enterRunning (b : Bay) (s : State) : State :=
  let s := s.updCtl b fun c => { c with state := .running }
  runPlan b (s.bay b).ctl.plan s

/-! ### The BYC on an accepted frame (R7, R8, R9) -/

/-- The STAT value of a frame that updated the bay's STAT latch. -/
def State.statUpdate (s : State) (b : Bay) : Option (BitVec 16) :=
  let l := s.roleLatch b .stat
  if l.fresh then some l.flags else none

/-- READY to RUNNING (R7). -/
def enterTest (b : Bay) (s : State) : State :=
  match s.statUpdate b with
  | some w =>
    if (s.bay b).ctl.state = .ready ∧ s.lfe.link = .up
        ∧ (statClamped w && statGuardClosed w && statCoupled w) = true then enterRunning b s
    else s
  | none => s

/-- A supervision fault of a frame reaches the bay: it is RUNNING, or it was when the frame was handed on (state s0) and a
fault of the same frame has aborted it since, so that this one "leaves only its flag" (R10; log entry 40). -/
def State.facesFaults (s0 s : State) (b : Bay) : Bool :=
  s.running b || (s0.running b && (s.bay b).ctl.cause.isSome)

/-- Fixture supervision (R8, R10). -/
def fixtureTest (s0 : State) (b : Bay) (s : State) : State :=
  match s.statUpdate b with
  | some w =>
    if s0.facesFaults s b && !(statClamped w && statGuardClosed w) then raiseFault b .fixture s else s
  | none => s

/-- A resolved role's latch age exceeds the stale limit (R9). -/
def State.staleRole (s : State) (b : Bay) : Bool :=
  (s.bay b).ctl.roles.any fun p => decide (s.mga.params.staleLimit < (s.latch p.2).age)

/-- Freshness supervision (R9, R10). -/
def staleTest (s0 : State) (b : Bay) (s : State) : State :=
  if s0.facesFaults s b && s.staleRole b then raiseFault b .sensor s else s

/-! ### The RIS on an accepted frame (R91, R93, R95, R101, R102) -/

/-- The RIS takes oil and torque readings: in RUNIN, and in RUNDOWN under STOPPING (R93, R95, R101). -/
def State.takesReadings (s : State) (b : Bay) : Bool :=
  s.inRunin b || ((s.bay b).ctl.state == .stopping && (s.bay b).ris.phase == .rundown)

/-- HOLD begins (R93). -/
def beginHold (b : Bay) (s : State) : State :=
  (s.updRis b fun r => { r with hold := true, holdTimer := 0 }).latchAlarm b .overtempWarn

/-- HOLD ends; a MEASURE_WAIT without a request posts it (R93, R94, R96). -/
def endHold (b : Bay) (s : State) : State :=
  let s := s.updRis b fun r => { r with hold := false, holdTimer := 0 }
  if (s.bay b).ris.phase = .measureWait ∧ s.hasRequest b = false then postAttempt b s else s

/-- The larger of a held value and a reading; the first reading makes it present (R27). -/
def maxInt (held : Option Int) (v : Int) : Option Int :=
  match held with
  | some x => some (max x v)
  | none => some v

def maxNat (held : Option Nat) (v : Nat) : Option Nat :=
  match held with
  | some x => some (max x v)
  | none => some v

/-- What an oil reading does (R93; in STOPPING R101). -/
def actOnOil (b : Bay) (r : Recipe) (v : Int) (s : State) : State :=
  if r.oilAbort ≤ v then raiseFault b .overtemp s
  else if s.running b then
    if (s.bay b).ris.hold then
      if v ≤ r.oilWarn - r.hysteresis then endHold b s else s
    else if r.oilWarn ≤ v then beginHold b s else s
  else if r.oilWarn ≤ v then s.latchAlarm b .overtempWarn else s

/-- The oil reading of a frame (R93, R101, R102). -/
def oilFrame (b : Bay) (s : State) : State :=
  match s.recipeOf b with
  | some r =>
    if s.takesReadings b then
      let v := s.roleReading b .oilTemp
      actOnOil b r v (s.writeSummary b fun m => { m with maxOil := maxInt m.maxOil v })
    else s
  | none => s

/-- The torque threshold (R95). -/
def torqueThreshold (limit margin : Nat) : Nat := limit * (100 + margin) / 100

/-- The overload counter after a reading of magnitude v (R95). -/
def nextOverload (threshold v count : Nat) : Nat := if threshold < v then min 400 (count + 1) else 0

/-- The torque reading of a frame: the summary, the overload counter, and the fault when the counter reaches the overload
frames (R95, R101, R102; log entry 16). -/
def torqueFrame (b : Bay) (s : State) : State :=
  match s.recipeOf b with
  | some r =>
    if s.takesReadings b then
      let v := (s.roleReading b .torque).natAbs
      let x := (s.bay b).ris
      let n := nextOverload (torqueThreshold (x.torqueLimit.getD 0) r.overloadMargin) v x.overload
      let s := s.writeSummary b fun m => { m with maxTorque := maxNat m.maxTorque v }
      let s := s.updRis b fun y => { y with overload := n }
      if x.overload < r.overloadFrames ∧ r.overloadFrames ≤ n then raiseFault b .overload s else s
    else s
  | none => s

/-- The SETTLE test of a frame (R91). -/
def settleFrame (b : Bay) (s : State) : State :=
  if s.running b && (s.bay b).ris.phase == .settle && (s.bay b).spu.steady then
    advance b (endSettle b s)
  else s

/-- An accepted frame at the RIS: oil, torque, and the SETTLE test for a bay that was in SETTLE when the frame came
(R93 "before the SETTLE test of R91 on the same frame"; log entry 21). -/
def risFrame (b : Bay) (inSettle : Bool) (s : State) : State :=
  let s := torqueFrame b (oilFrame b s)
  if inSettle then settleFrame b s else s

/-! ### The LTU and the OAE on an accepted frame -/

/-- An accepted frame at the LTU (R131 to R135). -/
def ltuFrame (b : Bay) (s : State) : State :=
  if s.inLeak b then
    let s := permitStart b s
    match s.cavityOf b with
    | some c =>
      if s.overfilled b c then raiseFault b .overpressure (s.updLtu b (Ltu.closeFill c))
      else advance b (leakFrame b c s)
    | none => s
  else s

/-- The close of a window (R116). -/
def closeWindow (b : Bay) (s : State) : State :=
  match (s.bay b).window, s.recipeOf b with
  | some w, some r =>
    let res := w.result r
    let t := takeResult b res (dropWindow b s)
    let s := (t.state.emitBay .noiseAttempt b (some res.outcome.name)).grantTest
    if t.early then earlyEnd b s else advance b s
  | _, _ => s

/-- An accepted frame at a window (R112, R115). -/
def oaeFrame (b : Bay) (s : State) : State :=
  let s := windowFrame b s
  if s.windowFull b then closeWindow b s else s

end Sys2Proof.Machine
end

