-- ==== Sys2Proof/Machine/Views.lean ====
section
/-! DEFINITION. What the part shows of its state: the bay command record and the status block (R23, R74, R103, R104, R139,
R144, R174). They are functions of the state; the part holds no copy of them (log entry 20). -/

namespace Sys2Proof.Machine

/-- RUNNING or STOPPING: the states in which the RIS and the LTU supply the record (R23). -/
def State.testing (s : State) (b : Bay) : Bool :=
  (s.bay b).ctl.state == .running || (s.bay b).ctl.state == .stopping

/-- The fields of a command record (R23). -/
structure CommandRecord where
  drive : Bool
  loadMode : Option LoadMode
  speed : Nat
  torque : Nat
  fill : BitVec 3
  vent : BitVec 3
  state : BayState
  deriving DecidableEq, Repr

/-- The bay's command record as it stands (R23, R103, R139): all zero but the state code outside RUNNING and STOPPING. -/
def State.command (s : State) (b : Bay) : CommandRecord :=
  let u := s.bay b
  if s.testing b then
    { drive := u.ris.driveEnable, loadMode := u.ris.loadMode, speed := u.ris.cmdSpeed,
      torque := u.ris.torqueLimit.getD 0, fill := u.ltu.fill, vent := u.ltu.vent, state := u.ctl.state }
  else
    { drive := false, loadMode := none, speed := 0, torque := 0, fill := 0, vent := 0, state := u.ctl.state }

/-- The link-state override: drive enable and the fill bits are 0 while the link is LOST (R72). -/
def CommandRecord.override (link : LinkState) (c : CommandRecord) : CommandRecord :=
  if link = .lost then { c with drive := false, fill := 0 } else c

/-- The 12 bytes of a command record (R174). -/
def CommandRecord.bytes (c : CommandRecord) : Bytes :=
  [BitVec.ofNat 8 (flagBit 0 c.drive + 2 * loadModeOptCode c.loadMode), 0]
    ++ leBytes 2 c.speed ++ leBytes 2 c.torque
    ++ [BitVec.ofNat 8 (c.fill.toNat + 8 * c.vent.toNat), BitVec.ofNat 8 (bayStateCode c.state), 0, 0, 0, 0]

/-- RIS step index and phase are shown (R22, R104). -/
def State.showsRis (s : State) (b : Bay) : Bool := (s.bay b).ris.phase != .idle

/-- LTU cavity index and phase are shown: in a leak sub-phase, and in STOPPING while a vent runs (R22, R144). -/
def State.showsLtu (s : State) (b : Bay) : Bool :=
  s.inLeak b || ((s.bay b).ctl.state == .stopping && (s.bay b).ltu.phase == .vent)

/-- The shown RIS step index and phase; 0 and none where absent. -/
def State.risView (s : State) (b : Bay) : Nat × RisPhase :=
  if s.showsRis b then ((s.bay b).ris.stepIndex.getD 0, (s.bay b).ris.phase) else (0, .idle)

/-- The shown LTU cavity index and phase; 0 and none where absent. -/
def State.ltuView (s : State) (b : Bay) : Nat × LtuPhase :=
  if s.showsLtu b then ((s.bay b).ltu.cavityIndex.getD 0, (s.bay b).ltu.phase) else (0, .idle)

/-- The record index of a bay's section: the bound record, or the last record in COMPLETE; 15 for none. -/
def BayCtl.recordIndex (c : BayCtl) : Nat :=
  match c.bound, c.last with
  | some i, _ => i.val
  | none, some i => i.val
  | none, none => 15

/-- The 12 bytes of a bay section (R174). -/
def baySection (s : State) (b : Bay) : Bytes :=
  let u := s.bay b
  let cmd := if s.testing b then u.ris.cmdSpeed else 0
  [BitVec.ofNat 8 (bayStateCode u.ctl.state + 8 * subPhaseCode u.ctl.subPhase + flagBit 5 u.ctl.lockPending
      + flagBit 6 u.spu.standstill + flagBit 7 u.spu.reverse)]
    ++ leBytes 2 (alarmWord u.ctl.alarms + flagBit 12 u.spu.steady)
    ++ leBytes 2 u.spu.speed ++ leBytes 2 cmd
    ++ [BitVec.ofNat 8 ((s.risView b).1 + 32 * (s.ltuView b).1),
        BitVec.ofNat 8 (risPhaseCode (s.risView b).2 + 16 * ltuPhaseCode (s.ltuView b).2),
        BitVec.ofNat 8 (u.ctl.recordIndex + 16 * u.ctl.failCount)]
    ++ signedBytes 2 (s.roleReading b .oilTemp)

/-- The flags of VALID slots, bit n for slot n. -/
def validSlots (s : State) : Nat := flagsNat (s.rbk.toList.map fun k => k.state == .valid)

/-- The 8 bytes of the cell section (R174). -/
def cellSection (s : State) : Bytes :=
  [BitVec.ofNat 8 (linkStateCode s.lfe.link + 4 * s.mga.alarms.toNat + flagBit 6 (counterAlarm s)),
   BitVec.ofNat 8 (s.rsp.spool.length + 16 * s.freeLanes),
   BitVec.ofNat 8 (s.oae.queue.length + 8 * s.freeRecords),
   BitVec.ofNat 8 (validSlots s)]
    ++ leBytes 2 s.tbs.cellTime.toNat ++ [0, 0]

/-- The 56-byte status block (R74). -/
def statusBlock (s : State) : Bytes :=
  baySection s 0 ++ baySection s 1 ++ baySection s 2 ++ baySection s 3 ++ cellSection s

end Sys2Proof.Machine
end

