-- ==== Sys2Proof/Machine/Link.lean ====
section
/-! DEFINITION. Link Frame Engine: link state, sample sequence, and the frames that arrive on the two ports (R72, R73, R146,
R157 to R163, R173). -/

namespace Sys2Proof.Machine

/-! ### Transmission -/

/-- A frame leaves on port C. An insertion goes "immediately behind the sample frame", so no opportunity stays open behind
another frame (R146; log entry 6). -/
def State.sendC (s : State) (f : Bytes) : State :=
  { s with
    ports := { s.ports with sentC := s.ports.sentC ++ [f] }
    lfe := { s.lfe with opportunity := none } }

/-- A frame leaves on port F. -/
def State.sendF (s : State) (f : Bytes) : State :=
  { s with ports := { s.ports with sentF := s.ports.sentF ++ [f] } }

/-! ### Link state (R161) -/

/-- The link comes up: both quiet times 0. -/
def Lfe.up (l : Lfe) : Lfe := { l with link := .up, sampleQuiet := 0, outputQuiet := 0 }

/-- The seen flags of a link that is DOWN or LOST with a good frame of one kind taken. -/
def Lfe.seen (sample : Bool) (l : Lfe) : Lfe :=
  if sample then { l with sampleSeen := true } else { l with outputSeen := true }

/-- The quiet time of one kind becomes 0. -/
def Lfe.heard (sample : Bool) (l : Lfe) : Lfe :=
  if sample then { l with sampleQuiet := 0 } else { l with outputQuiet := 0 }

/-- A good SAMPLE or OUTPUT frame at the link state (R161). The SPU of every active bay clears its ring when the link
returns from LOST (R161, R78; log entry 19). -/
def goodFrame (sample : Bool) (s : State) : State :=
  match s.lfe.link with
  | .up => { s with lfe := s.lfe.heard sample }
  | .down =>
    let l := s.lfe.seen sample
    { s with lfe := if l.sampleSeen && l.outputSeen then l.up else l }
  | .lost =>
    let l := s.lfe.seen sample
    if l.sampleSeen && l.outputSeen then resyncSpus { s with lfe := l.up } else { s with lfe := l }

/-- The change from UP to LOST (R161). -/
def Lfe.lose (l : Lfe) : Lfe :=
  { l with link := .lost, sampleSeen := false, outputSeen := false, lastSeq := none, refusedRun := 0 }

/-- The LINK fault reaches every bay in RUNNING or STOPPING (R10, R161). -/
def deliverLink (bays : List Bay) (s : State) : State :=
  overBays (fun b t => if t.testing b then raiseFault b .link t else t) (bayOrder bays) s

/-! ### The blocks' parts of a frame -/

/-- Every part of a frame, in the default order. -/
def allTasks : List FrameTask :=
  allBays.flatMap fun b => [(b, .enter), (b, .fixture), (b, .stale), (b, .ris), (b, .ltu), (b, .oae)]

/-- The order in which the parts of a frame are taken: the given ones, then the others; a bay's `enter` goes before its
other parts, since the frame that brings a bay to RUNNING is supervised after that (R7; log entry 4). -/
def taskOrder (given : List FrameTask) : List FrameTask :=
  ((given ++ allTasks).flatMap fun t => [(t.1, .enter), t]).eraseDups

/-- One block's part of an accepted frame for one bay. `s0` is the state when the frame was handed on: the RIS, the LTU
and the OAE take a frame only where they were at work then (R7, R111; log entry 21). -/
def frameTask (s0 : State) (t : FrameTask) (s : State) : State :=
  match t.2 with
  | .enter => enterTest t.1 s
  | .fixture => fixtureTest s0 t.1 s
  | .stale => staleTest s0 t.1 s
  | .ris =>
    if (s0.bay t.1).ris.phase = .idle then s
    else risFrame t.1 (decide ((s0.bay t.1).ris.phase = .settle)) s
  | .ltu => if (s0.bay t.1).ltu.phase = .idle then s else ltuFrame t.1 s
  | .oae => if (s0.bay t.1).window.isSome then oaeFrame t.1 s else s

def frameTasks (s0 : State) (l : List FrameTask) (s : State) : State :=
  l.foldl (fun t x => frameTask s0 x t) s

/-- One block's part of a count of missing frames (R9, R113). -/
def missingTask (t : FrameTask) (s : State) : State :=
  match t.2 with
  | .stale => staleTest s t.1 s
  | .oae => discardBlock t.1 s
  | .enter => s
  | .fixture => s
  | .ris => s
  | .ltu => s

/-- A count of k missing frames (R67, R68). -/
def missingFrames (k : Nat) (tasks : List FrameTask) (s : State) : State :=
  (taskOrder tasks).foldl (fun t x => missingTask x t) { s with chx := s.chx.missing k }

/-! ### The sample sequence (R160) -/

/-- The five cases of R160. -/
inductive SeqCase where
  | accept
  | gap (missing : Nat)
  | refuse
  | resync
  deriving DecidableEq, Repr

def seqCase (last : Option (BitVec 16)) (refusedRun : Nat) (seq : BitVec 16) : SeqCase :=
  match last with
  | none => .accept
  | some l =>
    let d := (seq - l).toNat
    if d = 1 then .accept
    else if 2 ≤ d ∧ d ≤ 16 then .gap (d - 1)
    else if refusedRun < 2 then .refuse
    else .resync

/-- An accepted frame: extraction, the Speed Units, then the blocks (R62, R68, R85, R160). -/
def acceptFrame (f : Bytes) (tasks : List FrameTask) (s : State) : State :=
  let s := { s with
    lfe := { s.lfe with lastSeq := some (frameSeq f), refusedRun := 0 }
    chx := s.chx.extract (framePayload f) }
  let s := overBays (spuFrame (frameSeq f)) allBays s
  frameTasks s (taskOrder tasks) s

/-- SEQ_ERROR is latched and one FRAME_ERROR emitted (R160). -/
def seqError (s : State) : State := (s.latchCell .seqError).frameError

/-- A good SAMPLE frame in DOWN or UP (R160). -/
def takeSample (f : Bytes) (tasks : List FrameTask) (s : State) : State :=
  match seqCase s.lfe.lastSeq s.lfe.refusedRun (frameSeq f) with
  | .accept => acceptFrame f tasks s
  | .gap k => acceptFrame f tasks (missingFrames k tasks s)
  | .refuse =>
    let s := missingFrames 1 tasks (seqError s)
    { s with lfe := { s.lfe with refusedRun := s.lfe.refusedRun + 1 } }
  | .resync => acceptFrame f tasks (resyncSpus (seqError s))

/-! ### Forwarding of sample frames (R73, R146) -/

/-- Demand mode: "spool depth at or above the demand threshold" (R147). -/
def State.demand (s : State) : Bool := decide (s.mga.params.demandThreshold ≤ s.rsp.spool.length)

/-- The egress arbiter's choice (R147). -/
def State.arbiterChoice (s : State) : Option Offer :=
  if s.demand then some .report
  else if !s.mga.responses.isEmpty then some .response
  else if !s.rsp.spool.isEmpty then some .report
  else none

/-- A forwarded sample frame completes an insertion opportunity while the link is not LOST, and the arbiter chooses then and
there; one at which nothing waits "passes unused and is not saved for later" (R146, R147; log entry 6). -/
def State.openOpportunity (s : State) : State :=
  { s with lfe := { s.lfe with opportunity := if s.lfe.link = .lost then none else s.arbiterChoice } }

/-- A good sample frame goes on to port C with the status block, or as received with STATUS_SHORT latched (R73). -/
def forwardSample (f : Bytes) (s : State) : State :=
  let off := s.mga.params.statusOffset
  if off + 56 ≤ frameLen f then
    (s.sendC (frameWithPayload f (overwrite (framePayload f) off (statusBlock s)))).openOpportunity
  else ((s.latchCell .statusShort).sendC f).openOpportunity

/-- A bad SAMPLE frame (R159). -/
def badSample (f : Bytes) (tasks : List FrameTask) (s : State) : State :=
  let s := s.frameError
  let s := if s.lfe.link = .lost then s
    else missingFrames 1 tasks { s with lfe := { s.lfe with lastSeq := s.lfe.lastSeq.map (· + 1) } }
  (s.sendC (badFrameOut f)).openOpportunity

/-- A SAMPLE frame arrives on port F. The link state takes it first (log entry 18), and the status block is written last, also
into a refused frame (R73, R160; log entry 39). -/
def sampleArrives (f : Bytes) (tasks : List FrameTask) (s : State) : State :=
  if frameGood f then
    let s := goodFrame true s
    forwardSample f (if s.lfe.link = .lost then s else takeSample f tasks s)
  else badSample f tasks s

/-! ### Output frames (R72) -/

/-- The record of an enabled place fits a payload of n bytes. -/
def OutputPlace.fits (n : Nat) (p : OutputPlace) : Bool := p.offset + 12 ≤ n

/-- Write the enabled records that fit into a payload, bays in index order. Enabled places never overlap (R71). -/
def writeRecords (s : State) (payload : Bytes) : Bytes :=
  allBays.foldl (fun acc b =>
    let p := s.chx.outputMap.get b
    if p.enabled && p.fits payload.length then
      overwrite acc p.offset ((s.command b).override s.lfe.link).bytes
    else acc) payload

/-- Some enabled record fits. -/
def anyWritten (s : State) (n : Nat) : Bool :=
  allBays.any fun b => (s.chx.outputMap.get b).enabled && (s.chx.outputMap.get b).fits n

/-- Some enabled record is skipped. -/
def anySkipped (s : State) (n : Nat) : Bool :=
  allBays.any fun b => (s.chx.outputMap.get b).enabled && !(s.chx.outputMap.get b).fits n

/-- What leaves port F for a good OUTPUT frame. -/
def outputFrameOut (s : State) (f : Bytes) : Bytes :=
  if anyWritten s (frameLen f) then frameWithPayload f (writeRecords s (framePayload f)) else f

/-- OUTPUT_SHORT, with its FRAME_ERROR, for a frame with a skipped record. -/
def outputShort (n : Nat) (s : State) : State :=
  if anySkipped s n then (s.latchCell .outputShort).frameError else s

/-- An OUTPUT frame arrives on port C. -/
def outputArrives (f : Bytes) (s : State) : State :=
  if frameGood f then
    let s := goodFrame false s
    (outputShort (frameLen f) s).sendF (outputFrameOut s f)
  else s.frameError.sendF (badFrameOut f)

/-! ### Management requests (R162, R163) -/

/-- A consumed request joins the queue, or is dropped with MGMT_DROP when four wait (R163). -/
def enqueueRequest (f : Bytes) (s : State) : State :=
  if s.mga.requests.length < 4 then
    { s with mga := { s.mga with
        requests := s.mga.requests ++ [{ source := frameSource f, payload := framePayload f }] } }
  else s.latchCell .mgmtDrop

/-- A MGMT_REQ for the node, or a broadcast one that is bad or IDENTIFY, arrives on port C (R159, R162). -/
def requestArrives (f : Bytes) (s : State) : State :=
  match arrivalOf .c s.lfe.nodeAddr f with
  | .request => if frameGood f then enqueueRequest f s else s.frameError
  | .broadcast => if frameGood f then enqueueRequest f (s.sendF f) else s.frameError
  | .sample => s
  | .output => s
  | .pass => s

/-- A frame that only passes leaves by the other port as received (R158, R173). -/
def frameArrives (p : Port) (f : Bytes) (s : State) : State :=
  if arrivalOf p s.lfe.nodeAddr f = .pass then
    match p with
    | .f => s.sendC f
    | .c => s.sendF f
  else s

end Sys2Proof.Machine
end

