-- ==== Sys2Proof/Machine/Egress.lean ====
section
/-! DEFINITION. Egress arbiter, response frames, report emission, power-on and RESET_PART (R145 to R149, R163, R169, R170,
R177). -/

namespace Sys2Proof.Machine

/-- The opportunity that is open is one for the given stream (R146, R147). -/
def State.serves (s : State) (o : Offer) : Bool := s.lfe.opportunity == some o && s.lfe.link != .lost

/-- The node address as a header byte. -/
def State.nodeByte (s : State) : Byte := s.lfe.nodeAddr.zeroExtend 8

/-! ### Responses -/

/-- The payload of a response (R177). -/
def responsePayload (r : MgmtResponse) : Bytes :=
  leBytes 2 r.code ++ leBytes 2 r.tag ++ [BitVec.ofNat 8 (statusCode r.status), 0]
    ++ leBytes 2 r.results.length ++ r.results

/-- The frame of a response (R163). -/
def responseFrame (s : State) (r : MgmtResponse) : Bytes :=
  buildFrame 4 r.dest s.nodeByte s.mga.rspSeq (responsePayload r)

/-- The response is that of a RESET_PART taken (R170). -/
def MgmtResponse.resets (r : MgmtResponse) : Bool :=
  r.code == commandCode .resetPart && r.status == .ok

/-- The head response is inserted on port C and leaves the queue (R147, R163). -/
def insertResponse (s : State) : State :=
  match s.mga.responses with
  | [] => s
  | r :: rest =>
    if s.serves .response then
      let sent := s.sendC (responseFrame s r)
      { sent with mga := { s.mga with
          responses := rest, rspSeq := s.mga.rspSeq + 1, resetDue := s.mga.resetDue || r.resets } }
    else s

/-! ### Reports -/

/-- A record as its report carries it: state SENT (R37, R148). -/
def AxleRecord.reported (r : AxleRecord) : AxleRecord := { r with state := .sent }

/-- The emission of the head record: the one in progress, or one begun now (R148 step 1). -/
def State.headEmission (s : State) (i : RecIx) (r : AxleRecord) : Emission :=
  match s.rsp.emission with
  | some e => e
  | none => { partCount := partCountOf (recordBytes i r.reported).length, nextPart := 0 }

/-- The report frame of a part (R148 step 2). -/
def reportFrame (s : State) (i : RecIx) (r : AxleRecord) (e : Emission) : Bytes :=
  buildFrame 5 255 s.nodeByte s.rsp.reportSeq (partBytes s i r.reported e.nextPart e.partCount)

/-- The part just sent was the last: the record is SENT and leaves the spool queue (R148 step 4). -/
def recordSent (i : RecIx) (r : AxleRecord) (s : State) : State :=
  { s with
    art := s.art.set i (some r.reported)
    rsp := { s.rsp with spool := s.rsp.spool.drop 1, emission := none } }

/-- The next part of the head report is inserted on port C (R147, R148). -/
def insertReportPart (s : State) : State :=
  match s.rsp.spool with
  | [] => s
  | i :: _ =>
    match s.art.get i with
    | none => s
    | some r =>
      if s.serves .report then
        let e := s.headEmission i r
        let sent := s.sendC (reportFrame s i r e)
        let sent := { sent with rsp := { sent.rsp with
            reportSeq := sent.rsp.reportSeq + 1
            emission := some { e with nextPart := e.nextPart + 1 } } }
        if e.partCount ≤ e.nextPart + 1 then recordSent i r sent else sent
      else s

/-! ### Reset (R2, R40, R41, R58, R75, R87, R105, R130, R145, R150, R157, R170) -/

/-- R41's RESET_PART column: a load in progress is lost, the other states are kept, pins fall to 0. -/
def Slot.resetPart (k : Slot) : Slot :=
  match k.state with
  | .loading => .reset
  | .empty => .reset
  | .valid => { k with pins := 0 }
  | .invalid => { k with pins := 0 }

/-- R58's RESET_PART column for a latch: value kept, age 255. -/
def Latch.resetPart (l : Latch) : Latch := { l with age := 255 }

/-- R150's RESET_PART column: the configuration is kept. -/
def Counter.resetPart (c : Counter) : Counter :=
  { c with value := 0, saturated := false, alarm := false, above := false }

/-- R157's RESET_PART column: the node address is kept. -/
def Lfe.resetPart (l : Lfe) : Lfe :=
  { link := .down, lastSeq := none, refusedRun := 0, sampleSeen := false, outputSeen := false,
    sampleQuiet := 0, outputQuiet := 0, nodeAddr := l.nodeAddr, opportunity := none }

/-- R170: both queues emptied, response sequence 0, cell alarm flags cleared; the cell parameters are kept. -/
def Mga.resetPart (m : Mga) : Mga :=
  { requests := [], responses := [], rspSeq := 0, params := m.params, alarms := 0, resetTaken := false,
    resetDue := false }

/-- The whole part at its RESET_PART values. What it has transmitted stays transmitted. -/
def State.resetPart (s : State) : State :=
  { pending := s.pending
    tbs := { cellTime := 0, served := [] }
    lfe := s.lfe.resetPart
    ports := s.ports
    chx := { s.chx with latches := s.chx.latches.map Latch.resetPart }
    bays := Vector.replicate 4 .reset
    oae := { lanes := Vector.replicate 8 none, queue := [] }
    rbk := s.rbk.map Slot.resetPart
    art := Vector.replicate 12 none
    rsp := { spool := [], emission := none, reportSeq := 0 }
    stc := { counters := s.stc.counters.map Counter.resetPart, snapshot := .reset }
    mga := s.mga.resetPart }

/-- RESET_PART applies once its response has been inserted (R170). -/
def applyReset (s : State) : State := if s.mga.resetDue then s.resetPart else s

/-- Power-on with the strap pins at a value (R162, R169). -/
def powerOn (strap : BitVec 6) (s : State) : State :=
  { State.reset with
    pending := s.pending
    ports := s.ports
    lfe := { State.reset.lfe with nodeAddr := strap } }

/-! ### The commands -/

/-- POWER_ON (R169). -/
def execPowerOn (strap : BitVec 6) (s : State) : Host.Outcome State Fault Refusal := .next (powerOn strap s)

/-- SAMPLE_FRAME (R160). A frame of another kind is no sample frame and does nothing here (log entry 12). -/
def execSampleFrame (frame : Bytes) (tasks : List FrameTask) (s : State) : Host.Outcome State Fault Refusal :=
  .next (if arrivalOf .f s.lfe.nodeAddr frame = .sample then sampleArrives frame tasks s else s)

/-- OUTPUT_FRAME (R72). -/
def execOutputFrame (frame : Bytes) (s : State) : Host.Outcome State Fault Refusal :=
  .next (if arrivalOf .c s.lfe.nodeAddr frame = .output then outputArrives frame s else s)

/-- MGMT_REQ_RECEIVE (R163). -/
def execMgmtReqReceive (frame : Bytes) (s : State) : Host.Outcome State Fault Refusal :=
  .next (requestArrives frame s)

/-- FRAME_PASS_THROUGH (R173). -/
def execFramePassThrough (port : Port) (frame : Bytes) (s : State) : Host.Outcome State Fault Refusal :=
  .next (frameArrives port frame s)

/-- RESPONSE_INSERT (R147). -/
def execResponseInsert (s : State) : Host.Outcome State Fault Refusal := .next (insertResponse s)

/-- REPORT_PART_INSERT (R148). -/
def execReportPartInsert (s : State) : Host.Outcome State Fault Refusal := .next (insertReportPart s)

/-- RESET_APPLY (R170). -/
def execResetApply (s : State) : Host.Outcome State Fault Refusal := .next (applyReset s)

end Sys2Proof.Machine
end

