-- ==== Sys2Proof/Machine/Manage.lean ====
section
/-! DEFINITION. Management Agent: how a request is taken and answered, and the commands on cell parameters, maps, channels
and recipe slots (R42 to R44, R53 to R55, R60, R61, R70, R71, R163 to R167, R175, R177, R178). -/

namespace Sys2Proof.Machine

/-! ### Requests and responses (R163, R164, R178) -/

/-- The command code of a request, 0 where the payload does not hold it (R178). -/
def reqCode (payload : Bytes) : Nat := natAt payload 0 2

/-- The tag of a request, 0 where the payload does not hold it (R178). -/
def reqTag (payload : Bytes) : Nat := natAt payload 2 2

/-- The arguments of a request. -/
def reqArgs (payload : Bytes) : Bytes := payload.drop 6

/-- The envelope is whole: at least 6 bytes, and an argument length of L − 6 (R178). -/
def envelopeOk (payload : Bytes) : Bool := 6 ≤ payload.length && natAt payload 4 2 == payload.length - 6

/-- The argument length of a command agrees with the table (R177). -/
def argsFit (c : Command) (args : Bytes) : Bool :=
  match c with
  | .identify => args.length == 0
  | .setCellParams => args.length == 10
  | .readCellParams => args.length == 0
  | .loadChannelMap => 2 ≤ args.length && args.length == 2 + 16 * byteAt args 1
  | .loadOutputMap => args.length == 16
  | .readChannel => args.length == 1
  | .recipePage => args.length == 260
  | .recipeCommit => args.length == 1
  | .recipeErase => args.length == 1
  | .recipeStatus => args.length == 1
  | .bayStart => args.length == 23
  | .bayAbort => args.length == 1
  | .bayUnload => args.length == 1
  | .bayLock => args.length == 1
  | .bayUnlock => args.length == 1
  | .ackAlarms => args.length == 3
  | .readBay => args.length == 1
  | .readRecord => args.length == 2
  | .releaseRecord => args.length == 22
  | .counterSetup => args.length == 12
  | .counterSnapshot => args.length == 1
  | .resetPart => args.length == 0

/-- Why the MGA refuses a request before it looks at its arguments, if it does (R164, R178). The envelope is tested first, then the
command code, then the argument length, an order the rules do not state (log entry 44). -/
def requestFault (payload : Bytes) : Option Status :=
  if envelopeOk payload then
    match commandOf (reqCode payload) with
    | none => some .unknownCommand
    | some c => if argsFit c (reqArgs payload) then none else some .badArg
  else some .badArg

/-- The head request, when the MGA may take it (R163, R170). -/
def State.headRequest (s : State) : Option MgmtRequest :=
  if s.mga.resetTaken = false ∧ s.mga.responses.length < 4 then s.mga.requests.head? else none

/-- The state with the head request taken. -/
def State.popRequest (s : State) : State :=
  { s with mga := { s.mga with requests := s.mga.requests.drop 1 } }

/-- What a command makes of its arguments. -/
structure Reply where
  state : State
  status : Status
  results : Bytes

def Reply.ok (s : State) (results : Bytes) : Reply := { state := s, status := .ok, results := results }

/-- A refusal changes nothing and carries no results. -/
def Reply.refuse (s : State) (st : Status) : Reply := { state := s, status := st, results := [] }

/-- The response to a request joins the tail of the response queue (R163). -/
def State.respond (s : State) (q : MgmtRequest) (st : Status) (results : Bytes) : State :=
  { s with mga := { s.mga with
      responses := s.mga.responses ++
        [{ dest := q.source, code := reqCode q.payload, tag := reqTag q.payload, status := st, results := results }] } }

/-- The MGA takes the head request, if it is one of the given command, executes it and answers it (R163, R164). The length is tested
ahead of every check of the command's own rule, also ahead of the BUSY of R60 (log entry 44). -/
def serve (c : Command) (body : Bytes → State → Reply) (s : State) : State :=
  match s.headRequest with
  | some q =>
    if envelopeOk q.payload ∧ commandOf (reqCode q.payload) = some c then
      if argsFit c (reqArgs q.payload) then
        let r := body (reqArgs q.payload) s.popRequest
        r.state.respond q r.status r.results
      else s.popRequest.respond q .badArg []
    else s
  | none => s

/-- The MGA takes the head request, if it is malformed, of the wrong length or of an unknown command, and refuses it
(R164, R178; the order of these tests: log entry 44). -/
def serveRefusal (s : State) : State :=
  match s.headRequest with
  | some q =>
    match requestFault q.payload with
    | some st => s.popRequest.respond q st []
    | none => s
  | none => s

/-! ### Arguments -/

def bayArg (args : Bytes) (i : Nat) : Option Bay :=
  if h : byteAt args i < 4 then some ⟨byteAt args i, h⟩ else none

def slotArg (args : Bytes) (i : Nat) : Option SlotIx :=
  if h : byteAt args i < 6 then some ⟨byteAt args i, h⟩ else none

def recArg (args : Bytes) (i : Nat) : Option RecIx :=
  if h : byteAt args i < 12 then some ⟨byteAt args i, h⟩ else none

def entryArg (args : Bytes) (i : Nat) : Option EntryIx :=
  if h : byteAt args i < 64 then some ⟨byteAt args i, h⟩ else none

/-! ### IDENTIFY and the cell parameters (R165 to R167) -/

/-- The fields of R165. Widths of the codes, the revision and the capacities, and no count byte for the six capacities, by
log entry 41. -/
def doIdentify (_args : Bytes) (s : State) : Reply :=
  .ok s (leBytes 2 Config.vendorCode ++ leBytes 2 Config.partCode ++ leBytes 1 Config.revision
    ++ leBytes 1 s.lfe.nodeAddr.toNat ++ leBytes 8 Config.unitNumber.toNat ++ [4, 64, 8, 6, 12, 8])

/-- The six parameters of a request (R177). -/
def paramsOf (args : Bytes) : CellParams :=
  { linkLossTimeout := byteAt args 0, staleLimit := byteAt args 1, qualityStopLimit := byteAt args 2,
    demandThreshold := byteAt args 3, stopTimeout := natAt args 4 4, statusOffset := natAt args 8 2 }

/-- The ranges of R166. -/
def CellParams.inRange (p : CellParams) : Bool :=
  within 2 100 p.linkLossTimeout && within 1 64 p.staleLimit && within 0 15 p.qualityStopLimit
    && within 1 12 p.demandThreshold && within 1000 120000 p.stopTimeout && within 0 968 p.statusOffset

/-- Some bay is READY, RUNNING or STOPPING. -/
def State.anyTest (s : State) : Bool :=
  allBays.any fun b => (s.bay b).ctl.state == .ready || s.testing b

def doSetCellParams (args : Bytes) (s : State) : Reply :=
  let p := paramsOf args
  if p.inRange = false then .refuse s .badArg
  else if p.statusOffset ≠ s.mga.params.statusOffset ∧ s.anyTest then .refuse s .busy
  else .ok { s with mga := { s.mga with params := p } } []

/-- The cell alarm flags with COUNTER_ALARM, in the layout of the cell mask: bits 0..4 (R177). -/
def cellAlarmByte (s : State) : Byte := BitVec.ofNat 8 (s.mga.alarms.toNat + flagBit 4 (counterAlarm s))

def doReadCellParams (_args : Bytes) (s : State) : Reply :=
  let p := s.mga.params
  .ok s (leBytes 1 p.linkLossTimeout ++ leBytes 1 p.staleLimit ++ leBytes 1 p.qualityStopLimit
    ++ leBytes 1 p.demandThreshold ++ leBytes 4 p.stopTimeout ++ leBytes 2 p.statusOffset
    ++ leBytes 1 (linkStateCode s.lfe.link) ++ leBytes 1 s.lfe.nodeAddr.toNat
    ++ leBytes 2 (cellAlarmByte s).toNat ++ leBytes 4 s.tbs.cellTime.toNat)

/-! ### LOAD_CHANNEL_MAP (R60, R61, R175) -/

/-- An item of the list. -/
inductive MapItem where
  | clear
  | write (e : ChannelEntry)
  deriving DecidableEq, Repr

/-- The 16 bytes of item i. -/
def itemBytes (args : Bytes) (i : Nat) : Bytes := (args.drop (2 + 16 * i)).take 16

/-- The field length and, for VIB, the stride lie in the range of the kind (R58). -/
def kindFieldsOk (k : Kind) (bytes : Bytes) : Bool :=
  let len := byteAt bytes 5
  match k with
  | .vib => within 8 16 len && within len 1024 (natAt bytes 14 2)
  | .tacho => len == 28
  | .stat => within 1 16 len
  | .analog => within 1 32 len && (flagOf (byteAt bytes 8)).isSome

/-- The entry an item writes; fields that do not belong to its kind are held as 0 or no (R58). -/
def entryOf (o : Owner) (r : Role) (k : Kind) (bytes : Bytes) : ChannelEntry :=
  let analog := k == .analog
  { enabled := true, owner := o, role := some r, kind := some k
    bitPos := natAt bytes 6 2
    len := byteAt bytes 5
    signed := analog && (flagOf (byteAt bytes 8)).getD false
    gain := if analog then intAt bytes 10 2 else 0
    offset := if analog then intAt bytes 12 2 else 0
    stride := if k == .vib then natAt bytes 14 2 else 0 }

/-- Check 3 of R60 for one item, with what the item stands for; none when it fails. A disable item reads only its entry
index (R175). -/
def readItem (bytes : Bytes) : Option (EntryIx × MapItem) :=
  match entryArg bytes 0 with
  | none => none
  | some i =>
    match byteAt bytes 1 with
    | 0 => some (i, .clear)
    | 1 =>
      match ownerOf (byteAt bytes 2), roleOf (byteAt bytes 3), kindOf (byteAt bytes 4) with
      | some o, some r, some k =>
        if within 0 8191 (natAt bytes 6 2) && kindFieldsOk k bytes then some (i, .write (entryOf o r k bytes))
        else none
      | _, _, _ => none
    | _ => none

/-- The owner is of the role's class (R59). -/
def ownerClass (o : Owner) (r : Role) : Bool :=
  match o with
  | .cell => cellRole r
  | .bay _ => !cellRole r

/-- Kind and owner agree with the role: check 4 (R59). -/
def ChannelEntry.consistent (e : ChannelEntry) : Bool :=
  match e.role with
  | some r => e.kind == some (kindOfRole r) && ownerClass e.owner r
  | none => false

/-- The entry fits the stream: check 5 (R59). -/
def ChannelEntry.fitsStream (e : ChannelEntry) : Bool := e.lastBit ≤ 8191

/-- Checks 4 and 5 for one item. -/
def MapItem.sound : MapItem → Bool
  | .clear => true
  | .write e => e.consistent && e.fitsStream

/-- The position of the first of items 0..n − 1 that fails a test. -/
def firstFailing (n : Nat) (ok : Nat → Bool) : Option Nat := (List.range n).find? fun i => !ok i

/-- The entry index byte of item i is named by no earlier item. -/
def freshIndex (args : Bytes) (i : Nat) : Bool :=
  (List.range i).all fun j => byteAt (itemBytes args j) 0 != byteAt (itemBytes args i) 0

/-- The items of a list whose check 3 passes. -/
def mapItems (args : Bytes) : List (EntryIx × MapItem) :=
  (List.range (byteAt args 1)).filterMap fun i => readItem (itemBytes args i)

/-- Checks 2 to 5 of R60: the position of the first failing item, if any. Checks 4 and 5 are made for one item before the
next (log entry 14). -/
def mapFault (args : Bytes) : Option Nat :=
  let n := byteAt args 1
  if 16 < n then some 16
  else
    match firstFailing n (freshIndex args) with
    | some i => some i
    | none =>
      match firstFailing n (fun i => (readItem (itemBytes args i)).isSome) with
      | some i => some i
      | none => firstFailing n fun i =>
          match readItem (itemBytes args i) with
          | some x => x.2.sound
          | none => false

/-- One item taken: the entry is written or cleared, its latch set to value 0 and age 255 (R61). -/
def Chx.takeItem (c : Chx) (x : EntryIx × MapItem) : Chx :=
  { c with
    entries := c.entries.set x.1 (match x.2 with | .clear => .cleared | .write e => e)
    latches := c.latches.set x.1 .cleared }

/-- Some bay holds resolved roles (R60). -/
def State.rolesHeld (s : State) : Bool := allBays.any fun b => !(s.bay b).ctl.roles.isEmpty

/-- LOAD_CHANNEL_MAP (R60, R61, R175). Bits 4 to 7 of the partition enable byte are ignored (log entry 42). -/
def doLoadChannelMap (args : Bytes) (s : State) : Reply :=
  if s.rolesHeld then .refuse s .busy
  else
    match mapFault args with
    | some i => { state := s, status := .badArg, results := leBytes 1 i }
    | none =>
      let c := (mapItems args).foldl Chx.takeItem s.chx
      .ok { s with chx := { c with partitions := BitVec.ofNat 4 (byteAt args 0) } } []

/-! ### LOAD_OUTPUT_MAP (R71, R175) -/

/-- The place of bay b; none for an enable other than 0 or 1. -/
def placeArg (args : Bytes) (b : Bay) : Option OutputPlace :=
  (flagOf (byteAt args (4 * b.val))).map fun e => { enabled := e, offset := natAt args (4 * b.val + 2) 2 }

/-- Two enabled places do not overlap: "their offsets differ by at least 12". -/
def OutputPlace.apart (p q : OutputPlace) : Bool :=
  !(p.enabled && q.enabled) || p.offset + 12 ≤ q.offset || q.offset + 12 ≤ p.offset

/-- No two places of the map overlap. -/
def placesApart (m : Vector OutputPlace 4) : Bool :=
  allBays.all fun a => allBays.all fun b => a == b || (m.get a).apart (m.get b)

/-- The four places of a request. -/
def placesOf (args : Bytes) : Vector OutputPlace 4 :=
  Vector.ofFn fun b => (placeArg args b).getD { enabled := false, offset := 0 }

/-- Checks 2 and 3 of R71, and the enable codes. -/
def placesOk (args : Bytes) : Bool :=
  allBays.all (fun b => (placeArg args b).isSome)
    && allBays.all (fun b => ((placesOf args).get b).offset ≤ 500) && placesApart (placesOf args)

def doLoadOutputMap (args : Bytes) (s : State) : Reply :=
  if s.rolesHeld then .refuse s .busy
  else if placesOk args then .ok { s with chx := { s.chx with outputMap := placesOf args } } []
  else .refuse s .badArg

/-! ### READ_CHANNEL (R70) -/

/-- The latch content of an entry's kind; nothing for an entry that has none (log entry 23). Each of the eight VIB samples is
followed by its mark byte, with no count byte, and the flag set of STAT takes a count byte and its flags (R70, R178; log
entry 13). -/
def latchBytes (k : Option Kind) (l : Latch) : Bytes :=
  match k with
  | some .analog => signedBytes 2 l.reading
  | some .vib => l.samples.flatMap fun x => signedBytes 2 x ++ [flagByte (clippedSample x)]
  | some .stat => setBytes l.flags
  | some .tacho =>
    let t := match l.value with
      | .tacho t => t
      | _ => { count := 0, time := 0, reverse := false, edge := false }
    leBytes 2 t.count.toNat ++ leBytes 2 t.time ++ [flagByte t.reverse, flagByte t.edge]
  | none => []

/-- An optional enumeration, 0 for none. -/
def codeOr0 {α : Type} (code : α → Nat) (x : Option α) : Nat :=
  match x with
  | some a => code a
  | none => 0

def doReadChannel (args : Bytes) (s : State) : Reply :=
  match entryArg args 0 with
  | none => .refuse s .badArg
  | some i =>
    let e := s.chx.entries.get i
    let l := s.latch i
    .ok s ([flagByte e.enabled, BitVec.ofNat 8 (ownerCode e.owner), BitVec.ofNat 8 (codeOr0 roleCode e.role),
        BitVec.ofNat 8 (codeOr0 kindCode e.kind)]
      ++ leBytes 2 e.bitPos ++ leBytes 1 e.len ++ [flagByte e.signed] ++ signedBytes 2 e.gain
      ++ signedBytes 2 e.offset ++ leBytes 2 e.stride ++ [flagByte (s.chx.inUse i)]
      ++ latchBytes e.kind l ++ leBytes 1 l.age)

/-! ### Recipe slots (R42 to R44, R53 to R55) -/

def State.slot (s : State) (k : SlotIx) : Slot := s.rbk.get k

def State.setSlot (s : State) (k : SlotIx) (x : Slot) : State := { s with rbk := s.rbk.set k x }

/-- A slot ready to take a page of a load of `count` pages: a new load is opened unless one is in progress (R43). -/
def Slot.openLoad (count : Nat) (k : Slot) : Slot :=
  if k.state = .loading then k
  else { k with state := .loading, expected := some count, presence := 0, pages := [], recipe := none,
                failure := none }

/-- Store a page: a repeated page replaces the earlier copy (R43). -/
def Slot.storePage (i : Nat) (page : Bytes) (k : Slot) : Slot :=
  { k with pages := (k.pages.filter fun p => p.1 != i) ++ [(i, page)], presence := k.presence ||| 1 <<< i }

/-- The expected page count, 0 for none. -/
def Slot.expectedOr0 (k : Slot) : Nat := k.expected.getD 0

def doRecipePage (args : Bytes) (s : State) : Reply :=
  match slotArg args 0 with
  | none => .refuse s .badArg
  | some k =>
    let i := byteAt args 1
    let n := byteAt args 2
    let old := s.slot k
    if within 1 8 n = false then .refuse s .badArg
    else if n ≤ i then .refuse s .badArg
    else if 0 < old.pins then .refuse s .pinned
    else if old.state = .loading ∧ old.expected ≠ some n then .refuse s .badArg
    else
      let x := (old.openLoad n).storePage i (args.drop 4)
      .ok (s.setSlot k x)
        ([Config.slotStateCode .loading] ++ leBytes 1 x.expectedOr0 ++ leBytes 1 x.presence.toNat)

/-- The presence set holds every index below the expected page count (R44). -/
def Slot.pagesHere (k : Slot) : Bool := (List.range k.expectedOr0).all fun i => k.presence.getLsbD i

/-- The stored page with an index. -/
def Slot.page (k : Slot) (i : Nat) : Bytes :=
  match k.pages.find? fun p => p.1 == i with
  | some p => p.2
  | none => []

/-- The image: the stored pages in index order (R44). -/
def Slot.image (k : Slot) : Bytes := (List.range k.expectedOr0).flatMap k.page

/-- The outcome of a commit: VALID with the decoded recipe, or INVALID with reason and item; the page store is released
(R45, R53). -/
def Slot.commit (k : Slot) : Slot :=
  match validationFault k.image k.expectedOr0 with
  | none => { k with state := .valid, recipe := some (decodeRecipe k.image), failure := none, pages := [] }
  | some f => { k with state := .invalid, recipe := none, failure := some f, pages := [] }

/-- Reason and item as an optional pair. -/
def failureBytes (f : Option (Reason × Nat)) : Bytes :=
  optBytes 2 (f.map fun x => [Config.reasonCode x.1, BitVec.ofNat 8 x.2])

def doRecipeCommit (args : Bytes) (s : State) : Reply :=
  match slotArg args 0 with
  | none => .refuse s .badArg
  | some k =>
    let old := s.slot k
    if old.state ≠ .loading then .refuse s .wrongState
    else if old.pagesHere then
      let x := old.commit
      .ok (s.setSlot k x) (Config.slotStateCode x.state :: failureBytes x.failure)
    else { state := s, status := .pagesMissing, results := leBytes 1 old.presence.toNat }

def doRecipeErase (args : Bytes) (s : State) : Reply :=
  match slotArg args 0 with
  | none => .refuse s .badArg
  | some k =>
    if 0 < (s.slot k).pins then .refuse s .pinned
    else .ok (s.setSlot k .reset) []

def doRecipeStatus (args : Bytes) (s : State) : Reply :=
  match slotArg args 0 with
  | none => .refuse s .badArg
  | some k =>
    let x := s.slot k
    .ok s ([Config.slotStateCode x.state] ++ leBytes 1 x.pins ++ optBytes 1 (x.expected.map (leBytes 1))
      ++ leBytes 1 x.presence.toNat ++ failureBytes x.failure
      ++ optBytes 18 (x.recipe.map fun r => padText 16 r.name ++ leBytes 2 r.version)
      ++ optBytes 4 (x.recipe.map fun r => leBytes 1 r.steps.length ++ leBytes 1 r.lines.length
          ++ leBytes 1 r.cavities.length ++ leBytes 1 r.measureCount))

/-! ### The commands -/

/-- IDENTIFY (R165). -/
def execIdentify (s : State) : Host.Outcome State Fault Refusal := .next (serve .identify doIdentify s)

/-- SET_CELL_PARAMS (R166). -/
def execSetCellParams (s : State) : Host.Outcome State Fault Refusal :=
  .next (serve .setCellParams doSetCellParams s)

/-- READ_CELL_PARAMS (R167). -/
def execReadCellParams (s : State) : Host.Outcome State Fault Refusal :=
  .next (serve .readCellParams doReadCellParams s)

/-- LOAD_CHANNEL_MAP (R60, R61). -/
def execLoadChannelMap (s : State) : Host.Outcome State Fault Refusal :=
  .next (serve .loadChannelMap doLoadChannelMap s)

/-- LOAD_OUTPUT_MAP (R71). -/
def execLoadOutputMap (s : State) : Host.Outcome State Fault Refusal :=
  .next (serve .loadOutputMap doLoadOutputMap s)

/-- READ_CHANNEL (R70). -/
def execReadChannel (s : State) : Host.Outcome State Fault Refusal :=
  .next (serve .readChannel doReadChannel s)

/-- RECIPE_PAGE (R42, R43). -/
def execRecipePage (s : State) : Host.Outcome State Fault Refusal :=
  .next (serve .recipePage doRecipePage s)

/-- RECIPE_COMMIT (R44, R45, R53). -/
def execRecipeCommit (s : State) : Host.Outcome State Fault Refusal :=
  .next (serve .recipeCommit doRecipeCommit s)

/-- RECIPE_ERASE (R54). -/
def execRecipeErase (s : State) : Host.Outcome State Fault Refusal :=
  .next (serve .recipeErase doRecipeErase s)

/-- RECIPE_STATUS (R55). -/
def execRecipeStatus (s : State) : Host.Outcome State Fault Refusal :=
  .next (serve .recipeStatus doRecipeStatus s)

/-- UNKNOWN_COMMAND: a malformed request or an unknown command (R164, R178). -/
def execUnknownCommand (s : State) : Host.Outcome State Fault Refusal := .next (serveRefusal s)

end Sys2Proof.Machine
end

