-- ==== Sys2Proof/Machine/Requests.lean ====
section
/-! DEFINITION. Management commands on bays, records and counters, and RESET_PART (R4, R5, R11, R18, R19, R21, R22, R38, R39,
R69, R76, R151, R155, R168, R170, R177). -/

namespace Sys2Proof.Machine

/-! ### BAY_START (R4, R5, R69, R76) -/

/-- The record of a test at its opening (R5, R25). -/
def openingRecord (s : State) (b : Bay) (k : SlotIx) (r : Recipe) (serial : Bytes) : AxleRecord :=
  { state := .opened, serial := serial, bay := b, slot := k, name := r.name, version := r.version,
    startTime := s.tbs.cellTime, endTime := none, verdict := none, reasons := none, cause := none,
    summary := .opening, noise := [], leaks := [] }

/-- The bay's controller after BAY_START (R5). -/
def BayCtl.start (k : SlotIx) (plan : List SubPhase) (roles : List (Role × EntryIx)) (i : RecIx)
    (c : BayCtl) : BayCtl :=
  { c with state := .ready, slot := some k, plan := plan, roles := roles, bound := some i, cause := none }

/-- A BAY_START that passed every check opens the test (R5). -/
def openTest (b : Bay) (k : SlotIx) (r : Recipe) (serial : Bytes) (i : RecIx) (roles : List (Role × EntryIx))
    (s : State) : State :=
  let s := { s with art := s.art.set i (some (openingRecord s b k r serial)) }
  ((s.pin k).updCtl b (BayCtl.start k r.plan roles i)).updSpu b fun _ => Spu.started r.spuParams

/-- The recipe of a VALID slot (R4 check 5). -/
def State.validRecipe (s : State) (k : SlotIx) : Option Recipe :=
  if (s.slot k).state = .valid then (s.slot k).recipe else none

/-- The checks of R4 from the bay state on. -/
def startBay (b : Bay) (k : SlotIx) (serial : Bytes) (s : State) : Reply :=
  if (s.bay b).ctl.state = .locked then .refuse s .locked
  else if (s.bay b).ctl.state ≠ .vacant then .refuse s .wrongState
  else if s.lfe.link ≠ .up then .refuse s .linkDown
  else
    match s.validRecipe k with
    | none => .refuse s .noRecipe
    | some r =>
      if s.serialInUse serial then .refuse s .duplicate
      else
        match s.freeRecord with
        | none => .refuse s .tableFull
        | some i =>
          match s.chx.resolve b r.neededRoles with
          | .error (role, n) =>
            { state := s, status := .mapMismatch, results := leBytes 1 (roleCode role) ++ leBytes 1 n }
          | .ok roles => .ok (openTest b k r serial i roles s) (leBytes 1 i.val)

def doBayStart (args : Bytes) (s : State) : Reply :=
  match bayArg args 0, slotArg args 1, readSerial (args.drop 2) with
  | some b, some k, some serial => startBay b k serial s
  | _, _, _ => .refuse s .badArg

/-! ### BAY_ABORT, BAY_UNLOAD, BAY_LOCK, BAY_UNLOCK (R11, R18, R19) -/

/-- A command that carries a bay and nothing else. -/
def withBay (args : Bytes) (s : State) (f : Bay → Reply) : Reply :=
  match bayArg args 0 with
  | some b => f b
  | none => .refuse s .badArg

/-- BAY_ABORT by bay state (R11). -/
def abortRequest (b : Bay) (s : State) : Reply :=
  match (s.bay b).ctl.state with
  | .ready => .ok (enterComplete b (setCause b .operator s)) []
  | .running => .ok (abortBay b .operator s) []
  | .stopping => .ok s []
  | .vacant => .refuse s .wrongState
  | .complete => .refuse s .wrongState
  | .locked => .refuse s .wrongState

/-- The bay's controller after an unload (R18). -/
def BayCtl.unload (c : BayCtl) : BayCtl :=
  { c with
    state := if c.lockPending then .locked else .vacant
    lockPending := false
    roles := []
    slot := none
    plan := []
    last := none
    cause := none }

/-- The bay unloaded; its SPU becomes inactive with its initial values (R18, R76). -/
def unloadBay (b : Bay) (s : State) : State :=
  (s.updCtl b BayCtl.unload).updSpu b fun _ => Spu.reset

def unloadRequest (b : Bay) (s : State) : Reply :=
  match (s.bay b).ctl.state with
  | .complete => .ok (unloadBay b s) []
  | .vacant => .refuse s .wrongState
  | .ready => .refuse s .wrongState
  | .running => .refuse s .wrongState
  | .stopping => .refuse s .wrongState
  | .locked => .refuse s .wrongState

/-- BAY_LOCK by bay state (R19). -/
def BayCtl.lock (c : BayCtl) : BayCtl :=
  match c.state with
  | .vacant => { c with state := .locked }
  | .locked => c
  | .ready => { c with lockPending := true }
  | .running => { c with lockPending := true }
  | .stopping => { c with lockPending := true }
  | .complete => { c with lockPending := true }

def lockRequest (b : Bay) (s : State) : Reply := .ok (s.updCtl b BayCtl.lock) []

/-- BAY_UNLOCK of a LOCKED bay (R19). -/
def BayCtl.unlock (c : BayCtl) : BayCtl := { c with state := .vacant, failCount := 0 }

def unlockRequest (b : Bay) (s : State) : Reply :=
  if (s.bay b).ctl.state = .locked then .ok (s.updCtl b BayCtl.unlock) []
  else .refuse s .wrongState

def doBayAbort (args : Bytes) (s : State) : Reply := withBay args s fun b => abortRequest b s
def doBayUnload (args : Bytes) (s : State) : Reply := withBay args s fun b => unloadRequest b s
def doBayLock (args : Bytes) (s : State) : Reply := withBay args s fun b => lockRequest b s
def doBayUnlock (args : Bytes) (s : State) : Reply := withBay args s fun b => unlockRequest b s

/-! ### ACK_ALARMS (R21, R168, R177) -/

/-- The cell designation. -/
def cellDesignation : Nat := 255

/-- The alarm flags of the counters named in a cell mask, bits 5..12, are cleared. -/
def ackCounters (mask : Nat) (cs : Vector Counter 8) : Vector Counter 8 :=
  Vector.ofFn fun i => if mask.testBit (5 + i.val) then { cs.get i with alarm := false } else cs.get i

/-- The cell flags named in bits 0..3 of a mask are cleared. -/
def ackCell (mask : Nat) (s : State) : State :=
  { s with
    mga := { s.mga with alarms := s.mga.alarms &&& ~~~ BitVec.ofNat 4 mask }
    stc := { s.stc with counters := ackCounters mask s.stc.counters } }

/-- The bay flags named in a mask are cleared. -/
def ackBay (mask : Nat) (c : BayCtl) : BayCtl := { c with alarms := c.alarms &&& ~~~ BitVec.ofNat 11 mask }

/-- A cell mask names a flag that may be named there: bits 0..3 and 5..12 (R168). -/
def cellMaskOk (mask : Nat) : Bool := decide (mask < 2 ^ 13) && !mask.testBit 4

def doAckAlarms (args : Bytes) (s : State) : Reply :=
  let mask := natAt args 1 2
  if byteAt args 0 = cellDesignation then
    if cellMaskOk mask then .ok (ackCell mask s) [] else .refuse s .badArg
  else
    match bayArg args 0 with
    | some b => if mask < 2 ^ 11 then .ok (s.updCtl b (ackBay mask)) [] else .refuse s .badArg
    | none => .refuse s .badArg

/-! ### READ_BAY (R22) -/

/-- One byte that is present only under a condition. -/
def optByte (present : Bool) (v : Nat) : Bytes := optBytes 1 (if present then some (leBytes 1 v) else none)

/-- An optional index in one byte. -/
def optIndex {n : Nat} (x : Option (Fin n)) : Bytes := optBytes 1 (x.map fun i => leBytes 1 i.val)

/-- Several bytes that are present only under a condition. -/
def optGroup (present : Bool) (bs : Bytes) : Bytes := optBytes bs.length (if present then some bs else none)

/-- The readings P0 to rate of an attempt, each an optional field (R178). -/
def readingBytes (u : Ltu) : Bytes :=
  optBytes 2 (u.p0.map (signedBytes 2)) ++ optBytes 2 (u.t0.map (signedBytes 2)) ++ optBytes 2 (u.p1.map (signedBytes 2))
    ++ optBytes 2 (u.t1.map (signedBytes 2)) ++ optBytes 4 (u.decay.map (signedBytes 4))
    ++ optBytes 4 (u.rate.map (signedBytes 4))

/-- The LTU is in a retry vent: in VENT with after vent REFILL (R137, R138). -/
def Ltu.inRetryVent (u : Ltu) : Bool := u.phase == .vent && u.afterVent == some .refill

/-- The fields of READ_BAY in the order of R22; the plan is a plain list (log entry 13). The command record is the one that
stands, without the override of a LOST link (log entry 31). In a retry vent the kept readings follow it, as R137 has READ_BAY
see them (log entry 32). -/
def readBayBytes (s : State) (b : Bay) : Bytes :=
  let u := s.bay b
  let c := u.ctl
  leBytes 1 (bayStateCode c.state)
    ++ optByte c.subPhase.isSome (subPhaseCode c.subPhase)
    ++ listBytes (c.plan.map fun p => leBytes 1 (subPhaseCode (some p)))
    ++ optIndex c.bound ++ optIndex c.last ++ optIndex c.slot
    ++ optByte c.cause.isSome (causeCode c.cause)
    ++ leBytes 2 (alarmWord c.alarms)
    ++ [flagByte c.lockPending] ++ leBytes 1 c.failCount
    ++ listBytes (c.roles.map fun p => leBytes 1 (roleCode p.1) ++ leBytes 1 p.2.val)
    ++ optGroup (s.showsRis b) (leBytes 1 (s.risView b).1 ++ leBytes 1 (risPhaseCode (s.risView b).2))
    ++ optGroup (s.showsLtu b) (leBytes 1 (s.ltuView b).1 ++ leBytes 1 (ltuPhaseCode (s.ltuView b).2))
    ++ optGroup u.spu.active (leBytes 2 u.spu.speed ++ [flagByte u.spu.reverse, flagByte u.spu.standstill])
    ++ optGroup (c.state == .stopping) (leBytes 4 c.stoppingTime)
    ++ (s.command b).bytes
    ++ (if u.ltu.inRetryVent then readingBytes u.ltu else [])

def doReadBay (args : Bytes) (s : State) : Reply := withBay args s fun b => .ok s (readBayBytes s b)

/-! ### Records (R38, R39) -/

def doReadRecord (args : Bytes) (s : State) : Reply :=
  match recArg args 0 with
  | none => .refuse s .badArg
  | some i =>
    match s.art.get i with
    | none => .refuse s .notFound
    | some r =>
      let count := partCountOf (recordBytes i r).length
      if count ≤ byteAt args 1 then .refuse s .badArg
      else .ok s (partBytes s i r (byteAt args 1) count)

def doReleaseRecord (args : Bytes) (s : State) : Reply :=
  match recArg args 0, readSerial (args.drop 1) with
  | some i, some serial =>
    match s.art.get i with
    | none => .refuse s .notFound
    | some r =>
      if r.serial ≠ serial then .refuse s .serialMismatch
      else if r.state ≠ .sent then .refuse s .wrongState
      else .ok { s with art := s.art.set i none } []
  | _, _ => .refuse s .badArg

/-! ### Counters (R151, R155) -/

/-- An occupancy event (R152). -/
def CounterEvent.occupancy : CounterEvent → Bool
  | .laneWaiting | .spoolDepth => true
  | _ => false

def counterArg (args : Bytes) : Option (Fin 8) :=
  if h : byteAt args 0 < 8 then some ⟨byteAt args 0, h⟩ else none

/-- The slot match of a request: absent (255) or 0..5; none for any other code. -/
def slotMatchArg (args : Bytes) : Option (Option SlotIx) :=
  if byteAt args 6 = 255 then some none else (slotArg args 6).map some

/-- The counter a COUNTER_SETUP of counter i leaves, or none when checks 2 to 4 of R151 fail. -/
def setupCounter (i : Nat) (args : Bytes) : Option Counter :=
  match counterEventOf (byteAt args 1), counterModeOf (byteAt args 2), slotMatchArg args with
  | some ev, some mode, some slot =>
    if within 0 12 (byteAt args 3) && decide (byteAt args 4 < 16)
        && (!ev.occupancy || decide (i ≤ 1)) && (mode == .count || ev.occupancy) then
      some { Counter.reset with
        event := ev, mode := mode, threshold := byteAt args 3, baySet := BitVec.ofNat 4 (byteAt args 4),
        resultSet := BitVec.ofNat 8 (byteAt args 5), slotMatch := slot, alarmLimit := natAt args 8 4 }
    else none
  | _, _, _ => none

def doCounterSetup (args : Bytes) (s : State) : Reply :=
  match counterArg args with
  | none => .refuse s .badArg
  | some i =>
    match setupCounter i.val args with
    | none => .refuse s .badArg
    | some c => .ok { s with stc := { s.stc with counters := s.stc.counters.set i c } } []

/-- The clear choice of a snapshot. -/
def Counter.clear (c : Counter) : Counter := { c with value := 0, saturated := false }

/-- The STC at a snapshot (R155). -/
def Stc.takeSnapshot (now : BitVec 32) (clear : Bool) (x : Stc) : Stc :=
  { counters := if clear then x.counters.map Counter.clear else x.counters
    snapshot := { values := x.counters.toList.map (·.value), time := now } }

/-- The results of a snapshot: values, cell time, SATURATED flags, alarm flags as they stood before the clear; the eight
values without a count byte (R155, R178; log entry 13). -/
def snapshotBytes (now : BitVec 32) (x : Stc) : Bytes :=
  x.counters.toList.flatMap (fun c => leBytes 4 c.value) ++ leBytes 4 now.toNat
    ++ leBytes 1 (flagsNat (x.counters.toList.map (·.saturated)))
    ++ leBytes 1 (flagsNat (x.counters.toList.map (·.alarm)))

def doCounterSnapshot (args : Bytes) (s : State) : Reply :=
  match flagOf (byteAt args 0) with
  | none => .refuse s .badArg
  | some clear =>
    .ok { s with stc := s.stc.takeSnapshot s.tbs.cellTime clear } (snapshotBytes s.tbs.cellTime s.stc)

/-! ### RESET_PART (R170) -/

/-- "Once the MGA has taken it, it takes no further request." -/
def doResetPart (_args : Bytes) (s : State) : Reply :=
  .ok { s with mga := { s.mga with resetTaken := true } } []

/-! ### The commands -/

/-- BAY_START (R4, R5). -/
def execBayStart (s : State) : Host.Outcome State Fault Refusal := .next (serve .bayStart doBayStart s)

/-- BAY_ABORT (R11). -/
def execBayAbort (s : State) : Host.Outcome State Fault Refusal := .next (serve .bayAbort doBayAbort s)

/-- BAY_UNLOAD (R18). -/
def execBayUnload (s : State) : Host.Outcome State Fault Refusal := .next (serve .bayUnload doBayUnload s)

/-- BAY_LOCK (R19). -/
def execBayLock (s : State) : Host.Outcome State Fault Refusal := .next (serve .bayLock doBayLock s)

/-- BAY_UNLOCK (R19). -/
def execBayUnlock (s : State) : Host.Outcome State Fault Refusal := .next (serve .bayUnlock doBayUnlock s)

/-- ACK_ALARMS (R21, R168). -/
def execAckAlarms (s : State) : Host.Outcome State Fault Refusal := .next (serve .ackAlarms doAckAlarms s)

/-- READ_BAY (R22). -/
def execReadBay (s : State) : Host.Outcome State Fault Refusal := .next (serve .readBay doReadBay s)

/-- READ_RECORD (R38). -/
def execReadRecord (s : State) : Host.Outcome State Fault Refusal := .next (serve .readRecord doReadRecord s)

/-- RELEASE_RECORD (R39). -/
def execReleaseRecord (s : State) : Host.Outcome State Fault Refusal :=
  .next (serve .releaseRecord doReleaseRecord s)

/-- COUNTER_SETUP (R151). -/
def execCounterSetup (s : State) : Host.Outcome State Fault Refusal :=
  .next (serve .counterSetup doCounterSetup s)

/-- COUNTER_SNAPSHOT (R155). -/
def execCounterSnapshot (s : State) : Host.Outcome State Fault Refusal :=
  .next (serve .counterSnapshot doCounterSnapshot s)

/-- RESET_PART (R170). -/
def execResetPart (s : State) : Host.Outcome State Fault Refusal := .next (serve .resetPart doResetPart s)

end Sys2Proof.Machine
end

