-- ==== Sys2Proof/Machine/Timers.lean ====
section
/-! DEFINITION. The ms tick: each block's share, the whole tick, and the expiry commands (R14, R81, R89, R91, R92, R94, R99,
R102, R109, R111, R115, R131 to R138, R153, R161, R169). -/

namespace Sys2Proof.Machine

/-! ### Speed Unit (R81) -/

/-- STANDSTILL has been set: the RIS, the LTU and the BYC test it (R90, R92, R100, R131, R13). -/
def standstillSet (b : Bay) (s : State) : State :=
  let s := advance b (standstillTest b s)
  let s := coolTest b (permitStart b s)
  testStopped b s

/-- A tick at a bay's SPU. -/
def spuTick (b : Bay) (s : State) : State :=
  let judged := (s.bay b).spu.judges
  let s := s.updSpu b Spu.tick
  if judged then standstillSet b s else s

/-! ### Run-in Sequencer (R89, R91, R92, R94, R99, R102) -/

/-- A tick in HOLD raises the hold timer and the record's hold time, and emits HOLD_MS (R94). -/
def holdTick (b : Bay) (s : State) : State :=
  let s := s.updRis b fun r => { r with holdTimer := r.holdTimer + 1 }
  let s := s.writeSummary b fun m => { m with holdTime := countUp32 m.holdTime }
  s.emitBay .holdMs b none

/-- The next tick brings the hold timer to max hold time. -/
def State.holdExpires (s : State) (b : Bay) : Bool :=
  match s.recipeOf b with
  | some r => (s.bay b).ris.hold && decide (r.maxHold ≤ (s.bay b).ris.holdTimer + 1)
  | none => false

/-- Drive time rises with drive enable 1 as the RIS holds it, on a LOST link too (R27's table, R102; log entry 33). -/
def driveTick (b : Bay) (s : State) : State :=
  if (s.bay b).ris.driveEnable then s.writeSummary b fun m => { m with driveTime := countUp32 m.driveTime }
  else s

/-- The counting of the RIS at a tick: drive time and HOLD (R94, R102). -/
def risCountTick (b : Bay) (s : State) : State :=
  let expires := s.holdExpires b
  let s := driveTick b s
  let s := if (s.bay b).ris.hold then holdTick b s else s
  if expires then raiseFault b .overtemp s else s

/-- The phase timer runs toward the settle timeout: in SETTLE, and in the waits for STANDSTILL at commanded speed 0,
while the bay is in RUNIN (R91). -/
def State.settleTimed (s : State) (b : Bay) : Bool :=
  s.running b &&
    (match (s.bay b).ris.phase with
      | .settle => true
      | .reverseStop => (s.bay b).ris.cmdSpeed == 0
      | .stopWait => (s.bay b).ris.cmdSpeed == 0
      | .rundown => (s.bay b).ris.cmdSpeed == 0
      | _ => false)

/-- The time limit of the RIS phase and whether the timer runs: the settle timeout also in HOLD, the dwells not
(R91, R92, R94, R99). -/
def State.risLimit (s : State) (b : Bay) (r : Recipe) (st : Step) : Option Nat :=
  if s.settleTimed b then some r.settleTimeout
  else
    match (s.bay b).ris.phase with
    | .dwell => if (s.bay b).ris.hold then none else some st.dwell
    | .rerun => if (s.bay b).ris.hold then none else some st.rerunDwell
    | _ => none

/-- The next tick brings the RIS's phase timer to its limit. -/
def State.risExpires (s : State) (b : Bay) : Bool :=
  match s.recipeOf b, s.stepOf b with
  | some r, some st =>
    match s.risLimit b r st with
    | some n => decide (n ≤ (s.bay b).ris.phaseTimer + 1)
    | none => false
  | _, _ => false

/-- What the end of a timed phase of the RIS does. -/
def risPhaseEnd (b : Bay) (s : State) : State :=
  if s.settleTimed b then raiseFault b .settle s
  else
    match (s.bay b).ris.phase with
    | .dwell => advance b (finishStep b s)
    | .rerun => enterSettle b s
    | _ => s

/-- The ramp or the phase timer of the RIS at a tick. -/
def risPhaseTick (b : Bay) (s : State) : State :=
  match s.recipeOf b, s.stepOf b with
  | some r, some st =>
    match rampInForce r st (s.bay b).ris with
    | some (target, rate) =>
      if (s.bay b).ris.hold then s else advance b (rampTick b r st target rate s)
    | none =>
      match s.risLimit b r st with
      | some n =>
        let t := (s.bay b).ris.phaseTimer + 1
        let s := s.updRis b fun x => { x with phaseTimer := t }
        if n ≤ t then risPhaseEnd b s else s
      | none => s
  | _, _ => s

/-! ### Lane allocator and windows (R109, R111, R115) -/

/-- The lane wait limit of a request's bay. -/
def State.waitLimit (s : State) (q : LaneRequest) : Option Nat := (s.recipeOf q.bay).map (·.laneWaitLimit)

/-- A request reaches its limit with the wait time it would have after the tick. -/
def State.waitExpires (s : State) (q : LaneRequest) : Bool :=
  match s.waitLimit q with
  | some n => decide (n ≤ q.wait + 1)
  | none => false

/-- Some queued request reaches its limit at the next tick. -/
def State.anyWaitExpires (s : State) : Bool := s.oae.queue.any s.waitExpires

/-- Withdrawal of a bay's request at the wait limit, but for the grant test (R109). -/
def withdrawRequest (b : Bay) (s : State) : State :=
  let s := { s with oae := { s.oae with queue := s.oae.queue.filter fun q => q.bay != b } }
  let s := (s.latchAlarm b .laneWait).emitBay .noiseAttempt b (some .nomeas)
  advance b (takeResult b (.nomeas .laneWait) s).state

/-- The wait times of all queued requests are raised by 1. -/
def State.raiseWaits (s : State) : State :=
  { s with oae := { s.oae with queue := s.oae.queue.map fun q => { q with wait := q.wait + 1 } } }

/-- A tick at the allocator: the withdrawals in the given order, then one grant test if the head was withdrawn (R109). -/
def allocTick (bays : List Bay) (s : State) : State :=
  let leaving := (s.oae.queue.filter s.waitExpires).map (·.bay)
  let head := match s.oae.queue with
    | q :: _ => s.waitExpires q
    | [] => false
  let s := overBays (fun b t => if leaving.contains b then withdrawRequest b t else t) (bayOrder bays).eraseDups
    s.raiseWaits
  if head then s.grantTest else s

/-- The next tick brings the window timer to the window limit. -/
def State.windowExpires (s : State) (b : Bay) : Bool :=
  match (s.bay b).window with
  | some w => decide (w.step.windowLimit ≤ w.timer + 1)
  | none => false

/-- A tick at a bay's window (R111, R115). -/
def windowTick (b : Bay) (s : State) : State :=
  match (s.bay b).window with
  | some w =>
    let w := { w with timer := w.timer + 1 }
    if w.step.windowLimit ≤ w.timer then closeWindow b (s.setWindow b (some w.dropBlock))
    else s.setWindow b (some w)
  | none => s

/-! ### Bay Controller, Leak Test Unit, link (R14, R138, R161) -/

/-- The next tick brings the stopping time to the stop timeout. -/
def State.stopExpires (s : State) (b : Bay) : Bool :=
  (s.bay b).ctl.state == .stopping && decide (s.mga.params.stopTimeout ≤ (s.bay b).ctl.stoppingTime + 1)

/-- The stop has timed out (R14). Entry to COMPLETE clears drive enable. -/
def stopTimedOut (b : Bay) (s : State) : State :=
  enterComplete b ((s.latchAlarm b .stopTimeout).updCtl b fun c => { c with lockPending := true })

/-- A tick at a bay in STOPPING (R14). -/
def bycTick (b : Bay) (s : State) : State :=
  let expires := s.stopExpires b
  let s := if (s.bay b).ctl.state = .stopping then
      s.updCtl b fun c => { c with stoppingTime := c.stoppingTime + 1 } else s
  if expires then stopTimedOut b s else s

/-- A tick at a bay's LTU; the end of a vent is an event on which the BYC tests R13 (R138). -/
def leakTick (b : Bay) (s : State) : State := testStopped b (advance b (ltuTick b s))

/-- The next tick brings a quiet time to the link loss timeout. -/
def State.linkExpires (s : State) : Bool :=
  s.lfe.link == .up
    && decide (s.mga.params.linkLossTimeout ≤ max (s.lfe.sampleQuiet + 1) (s.lfe.outputQuiet + 1))

/-- Both quiet times raised by 1, stopping at 100 (R157, R161). -/
def Lfe.quieter (l : Lfe) : Lfe :=
  { l with sampleQuiet := min 100 (l.sampleQuiet + 1), outputQuiet := min 100 (l.outputQuiet + 1) }

/-- A tick at the link state (R161). -/
def lfeTick (bays : List Bay) (s : State) : State :=
  let expires := s.linkExpires
  let s := if s.lfe.link = .up then { s with lfe := s.lfe.quieter } else s
  if expires then deliverLink bays { s with lfe := s.lfe.lose } else s

/-! ### Statistics Counters (R153) -/

/-- What a counter adds at a tick for an occupancy of x. -/
def Counter.tickAdd (x : Nat) (c : Counter) : Option Nat :=
  match c.mode with
  | .count => some x
  | .threshold => if c.threshold ≤ x then some 1 else none
  | .edge => if c.threshold ≤ x ∧ c.above = false then some 1 else none

/-- The last level after a tick, for EDGE. -/
def Counter.setLevel (x : Nat) (c : Counter) : Counter :=
  if c.mode = .edge then { c with above := decide (c.threshold ≤ x) } else c

/-- A counter on an occupancy at a tick. -/
def Counter.tick (x : Nat) (c : Counter) : Counter :=
  Counter.setLevel x (match c.tickAdd x with
    | some n => c.add n
    | none => c)

/-- A tick at the counters. -/
def stcTick (s : State) : State :=
  { s with stc := { s.stc with counters := s.stc.counters.map fun c =>
      match c.event with
      | .laneWaiting => c.tick s.laneWaiting
      | .spoolDepth => c.tick s.rsp.spool.length
      | _ => c } }

/-! ### The tick (R169) -/

/-- One block's share of a tick. -/
def tickUnit (bays : List Bay) (u : TickUnit) (s : State) : State :=
  match u with
  | .lfe => lfeTick bays s
  | .risCount b => risCountTick b s
  | .risPhase b => risPhaseTick b s
  | .spu b => spuTick b s
  | .alloc => allocTick bays s
  | .window b => windowTick b s
  | .ltu b => leakTick b s
  | .byc b => bycTick b s
  | .stc => stcTick s

/-- Every block's share, in the default order. -/
def allUnits : List TickUnit :=
  [.lfe] ++ allBays.map .risCount ++ allBays.map .risPhase ++ allBays.map .spu ++ [.alloc]
    ++ allBays.map .window ++ allBays.map .ltu ++ allBays.map .byc ++ [.stc]

/-- The order of a tick: the given shares, then the others. -/
def unitOrder (given : List TickUnit) : List TickUnit := (given ++ allUnits).eraseDups

/-- The cell time is raised at the first share of a tick (R169). -/
def openTick (s : State) : State :=
  if s.tbs.served = [] then { s with tbs := { s.tbs with cellTime := s.tbs.cellTime + 1 } } else s

/-- A share taken ahead of the rest of its tick. -/
def serveUnit (bays : List Bay) (u : TickUnit) (s : State) : State :=
  let s := tickUnit bays u (openTick s)
  { s with tbs := { s.tbs with served := s.tbs.served ++ [u] } }

/-- The rest of a tick: every share not yet taken; the tick is then over (log entry 3). -/
def wholeTick (units : List TickUnit) (bays : List Bay) (s : State) : State :=
  let rest := (unitOrder units).filter fun u => !s.tbs.served.contains u
  let s := rest.foldl (fun t u => tickUnit bays u t) (openTick s)
  { s with tbs := { s.tbs with served := [] } }

/-- An expiry command: when the tick makes the timer expire and its block has not yet taken the tick, the block takes it
now, ahead of the rest of the tick; otherwise the event does not happen (log entry 3). -/
def expire (bays : List Bay) (u : TickUnit) (expires : Bool) (s : State) : State :=
  if expires && !s.tbs.served.contains u then serveUnit bays u s else s

/-- The RIS of the bay stands in a phase. -/
def State.risIn (s : State) (b : Bay) (p : RisPhase) : Bool := (s.bay b).ris.phase == p

/-- The LTU of the bay stands in a phase. -/
def State.ltuIn (s : State) (b : Bay) (p : LtuPhase) : Bool := (s.bay b).ltu.phase == p

/-! ### The commands -/

/-- MS_TICK (R169). -/
def execMsTick (units : List TickUnit) (bays : List Bay) (s : State) : Host.Outcome State Fault Refusal :=
  .next (wholeTick units bays s)

/-- STANDSTILL_JUDGED (R81). -/
def execStandstillJudged (bay : Bay) (s : State) : Host.Outcome State Fault Refusal :=
  .next (expire [] (.spu bay) (s.bay bay).spu.judges s)

/-- STOP_TIMEOUT (R14). -/
def execStopTimeout (bay : Bay) (s : State) : Host.Outcome State Fault Refusal :=
  .next (expire [] (.byc bay) (s.stopExpires bay) s)

/-- LINK_LOSS (R161). -/
def execLinkLoss (bays : List Bay) (s : State) : Host.Outcome State Fault Refusal :=
  .next (expire bays .lfe s.linkExpires s)

/-- SETTLE_TIMEOUT (R91). -/
def execSettleTimeout (bay : Bay) (s : State) : Host.Outcome State Fault Refusal :=
  .next (expire [] (.risPhase bay) (s.settleTimed bay && s.risExpires bay) s)

/-- DWELL_END (R92). -/
def execDwellEnd (bay : Bay) (s : State) : Host.Outcome State Fault Refusal :=
  .next (expire [] (.risPhase bay) (s.risIn bay .dwell && s.risExpires bay) s)

/-- RERUN_END (R99). -/
def execRerunEnd (bay : Bay) (s : State) : Host.Outcome State Fault Refusal :=
  .next (expire [] (.risPhase bay) (s.risIn bay .rerun && s.risExpires bay) s)

/-- MAX_HOLD_TIME (R94). -/
def execMaxHoldTime (bay : Bay) (s : State) : Host.Outcome State Fault Refusal :=
  .next (expire [] (.risCount bay) (s.holdExpires bay) s)

/-- LANE_WAIT_LIMIT (R109). -/
def execLaneWaitLimit (bays : List Bay) (s : State) : Host.Outcome State Fault Refusal :=
  .next (expire bays .alloc s.anyWaitExpires s)

/-- WINDOW_LIMIT (R115). -/
def execWindowLimit (bay : Bay) (s : State) : Host.Outcome State Fault Refusal :=
  .next (expire [] (.window bay) (s.windowExpires bay) s)

/-- COOL_WAIT_LIMIT (R132). -/
def execCoolWaitLimit (bay : Bay) (s : State) : Host.Outcome State Fault Refusal :=
  .next (expire [] (.ltu bay) (s.ltuIn bay .coolWait && s.ltuExpires bay) s)

/-- FILL_TIMEOUT (R133). -/
def execFillTimeout (bay : Bay) (s : State) : Host.Outcome State Fault Refusal :=
  .next (expire [] (.ltu bay) (s.ltuIn bay .fill && s.ltuExpires bay) s)

/-- LEAK_SETTLE_END (R134). -/
def execLeakSettleEnd (bay : Bay) (s : State) : Host.Outcome State Fault Refusal :=
  .next (expire [] (.ltu bay) (s.ltuIn bay .settle && s.ltuExpires bay) s)

/-- LEAK_MEASURE_END (R135). -/
def execLeakMeasureEnd (bay : Bay) (s : State) : Host.Outcome State Fault Refusal :=
  .next (expire [] (.ltu bay) (s.ltuIn bay .measure && s.ltuExpires bay) s)

/-- VENT_END (R138). -/
def execVentEnd (bay : Bay) (s : State) : Host.Outcome State Fault Refusal :=
  .next (expire [] (.ltu bay) (s.ltuIn bay .vent && s.ltuExpires bay) s)

end Sys2Proof.Machine
end

