-- ==== Sys2Proof/Machine/Dispatch.lean ====
section
/-! DEFINITION. `exec`: one arm per command, each one call of its meaning. -/

namespace Sys2Proof.Machine

def exec (i : Instr) (s : State) : Host.Outcome State Fault Refusal :=
  match i with
  | .powerOn strap => Sys2Proof.Machine.execPowerOn strap s
  | .msTick units bays => Sys2Proof.Machine.execMsTick units bays s
  | .sampleFrame frame tasks => Sys2Proof.Machine.execSampleFrame frame tasks s
  | .outputFrame frame => Sys2Proof.Machine.execOutputFrame frame s
  | .mgmtReqReceive frame => Sys2Proof.Machine.execMgmtReqReceive frame s
  | .framePassThrough port frame => Sys2Proof.Machine.execFramePassThrough port frame s
  | .responseInsert => Sys2Proof.Machine.execResponseInsert s
  | .reportPartInsert => Sys2Proof.Machine.execReportPartInsert s
  | .resetApply => Sys2Proof.Machine.execResetApply s
  | .identify => Sys2Proof.Machine.execIdentify s
  | .setCellParams => Sys2Proof.Machine.execSetCellParams s
  | .readCellParams => Sys2Proof.Machine.execReadCellParams s
  | .loadChannelMap => Sys2Proof.Machine.execLoadChannelMap s
  | .loadOutputMap => Sys2Proof.Machine.execLoadOutputMap s
  | .readChannel => Sys2Proof.Machine.execReadChannel s
  | .recipePage => Sys2Proof.Machine.execRecipePage s
  | .recipeCommit => Sys2Proof.Machine.execRecipeCommit s
  | .recipeErase => Sys2Proof.Machine.execRecipeErase s
  | .recipeStatus => Sys2Proof.Machine.execRecipeStatus s
  | .bayStart => Sys2Proof.Machine.execBayStart s
  | .bayAbort => Sys2Proof.Machine.execBayAbort s
  | .bayUnload => Sys2Proof.Machine.execBayUnload s
  | .bayLock => Sys2Proof.Machine.execBayLock s
  | .bayUnlock => Sys2Proof.Machine.execBayUnlock s
  | .ackAlarms => Sys2Proof.Machine.execAckAlarms s
  | .readBay => Sys2Proof.Machine.execReadBay s
  | .readRecord => Sys2Proof.Machine.execReadRecord s
  | .releaseRecord => Sys2Proof.Machine.execReleaseRecord s
  | .counterSetup => Sys2Proof.Machine.execCounterSetup s
  | .counterSnapshot => Sys2Proof.Machine.execCounterSnapshot s
  | .resetPart => Sys2Proof.Machine.execResetPart s
  | .unknownCommand => Sys2Proof.Machine.execUnknownCommand s
  | .standstillJudged bay => Sys2Proof.Machine.execStandstillJudged bay s
  | .stopTimeout bay => Sys2Proof.Machine.execStopTimeout bay s
  | .linkLoss bays => Sys2Proof.Machine.execLinkLoss bays s
  | .settleTimeout bay => Sys2Proof.Machine.execSettleTimeout bay s
  | .dwellEnd bay => Sys2Proof.Machine.execDwellEnd bay s
  | .rerunEnd bay => Sys2Proof.Machine.execRerunEnd bay s
  | .maxHoldTime bay => Sys2Proof.Machine.execMaxHoldTime bay s
  | .laneWaitLimit bays => Sys2Proof.Machine.execLaneWaitLimit bays s
  | .windowLimit bay => Sys2Proof.Machine.execWindowLimit bay s
  | .coolWaitLimit bay => Sys2Proof.Machine.execCoolWaitLimit bay s
  | .fillTimeout bay => Sys2Proof.Machine.execFillTimeout bay s
  | .leakSettleEnd bay => Sys2Proof.Machine.execLeakSettleEnd bay s
  | .leakMeasureEnd bay => Sys2Proof.Machine.execLeakMeasureEnd bay s
  | .ventEnd bay => Sys2Proof.Machine.execVentEnd bay s

end Sys2Proof.Machine
end

