-- ==== Sys2Proof/Safety.lean ====
section
/-! DEFINITION. What the spec promises of every state of the part, and the words in which the statements speak of requests,
records and frames. -/

namespace Sys2Proof.Machine

/-! ### Invariants -/

/-- "the LTU never holds the fill and the vent bit of a pair at 1 together" (R139). -/
def ValvesExclusive (s : State) : Prop := ∀ b : Bay, (s.bay b).ltu.fill &&& (s.bay b).ltu.vent = 0

/-- Request queue and response queue hold 0..4 (R163). -/
def QueuesBounded (s : State) : Prop := s.mga.requests.length ≤ 4 ∧ s.mga.responses.length ≤ 4

/-- A counter "never exceeds 2^32 − 1" (R154). -/
def CountersBounded (s : State) : Prop := ∀ i : Fin 8, (s.stc.counters.get i).value ≤ counterMax

/-- "A bay's consecutive-fail count never exceeds 15" (R17). -/
def FailCountsBounded (s : State) : Prop := ∀ b : Bay, (s.bay b).ctl.failCount ≤ 15

/-- "The age of each latch is 0..255" (R67). -/
def AgesBounded (s : State) : Prop := ∀ e : EntryIx, (s.latch e).age ≤ 255

/-- The ring covers 64 places, and speed, quiet time and steady counter stay in their ranges (R75). -/
def SpeedUnitsBounded (s : State) : Prop :=
  ∀ b : Bay, (s.bay b).spu.ring.length = 64 ∧ (s.bay b).spu.speed ≤ 65535 ∧ (s.bay b).spu.quiet ≤ 65535
    ∧ (s.bay b).spu.steadyCount ≤ 400

/-- "The lane request queue holds at most one request per bay" (R106). -/
def OneRequestPerBay (s : State) : Prop := (s.oae.queue.map (·.bay)).Nodup

/-- The state of a record; none for FREE. -/
def State.recState (s : State) (i : RecIx) : Option RecState := (s.art.get i).map (·.state)

/-- "The spool queue of the Report Spooler holds exactly the QUEUED records, each once" (R24). -/
def SpoolMatches (s : State) : Prop :=
  s.rsp.spool.Nodup ∧ ∀ i : RecIx, i ∈ s.rsp.spool ↔ s.recState i = some .queued

/-- The record is OPEN and names the slot. -/
def State.opensSlot (s : State) (k : SlotIx) (i : RecIx) : Bool :=
  match s.art.get i with
  | some r => r.state == .opened && r.slot == k
  | none => false

/-- "A recipe slot's pin count equals the number of OPEN axle records naming that slot" (R56). -/
def PinsMatch (s : State) : Prop :=
  ∀ k : SlotIx, (s.rbk.get k).pins = (List.finRange 12).countP (s.opensSlot k)

/-- READY, RUNNING or STOPPING: the states in which a bay is bound (R6). -/
def BayState.bindsRecord : BayState → Bool
  | .ready | .running | .stopping => true
  | .vacant | .complete | .locked => false

/-- The bay of an OPEN record. -/
def State.openBay (s : State) (i : RecIx) : Option Bay :=
  match s.art.get i with
  | some r => if r.state = .opened then some r.bay else none
  | none => none

/-- Each bay in READY, RUNNING or STOPPING is bound to one OPEN record of its own, and no other bay and no other record is
(R6, R24). -/
def BindingsMatch (s : State) : Prop :=
  (∀ b : Bay, (s.bay b).ctl.bound.isSome = (s.bay b).ctl.state.bindsRecord)
    ∧ ∀ (b : Bay) (i : RecIx), (s.bay b).ctl.bound = some i ↔ s.openBay i = some b

/-- The RIS of a bay is outside IDLE only in RUNIN and in RUNDOWN under STOPPING, and in IDLE it supplies drive enable 0,
no load mode, no torque limit and speed 0 (R87, R100, R101). -/
def RunInAgrees (s : State) : Prop :=
  ∀ b : Bay,
    ((s.bay b).ris.phase ≠ .idle →
      s.inRunin b = true ∨ ((s.bay b).ctl.state = .stopping ∧ (s.bay b).ris.phase = .rundown))
    ∧ ((s.bay b).ris.phase = .idle →
      (s.bay b).ris.driveEnable = false ∧ (s.bay b).ris.loadMode = none ∧ (s.bay b).ris.torqueLimit = none
        ∧ (s.bay b).ris.cmdSpeed = 0)

/-- The queue holds requests only of bays in MEASURE_WAIT, one each, and lanes and windows belong only to bays in MEASURE
(R106, R108). -/
def LanesAgree (s : State) : Prop :=
  OneRequestPerBay s
    ∧ (∀ q ∈ s.oae.queue, (s.bay q.bay).ris.phase = .measureWait)
    ∧ (∀ (l : LaneIx) (u : LaneUse), s.oae.lanes.get l = some u →
        (s.bay u.bay).ris.phase = .measure ∧ (s.bay u.bay).window.isSome = true)
    ∧ ∀ b : Bay, (s.bay b).window.isSome = true → (s.bay b).ris.phase = .measure

/-- Two enabled places of the output map differ by at least 12, and every offset is 0..500 (R71). -/
def PlacesApart (s : State) : Prop :=
  (∀ b : Bay, (s.chx.outputMap.get b).offset ≤ 500)
    ∧ ∀ a b : Bay, a ≠ b → (s.chx.outputMap.get a).enabled = true → (s.chx.outputMap.get b).enabled = true →
        (s.chx.outputMap.get a).offset + 12 ≤ (s.chx.outputMap.get b).offset
          ∨ (s.chx.outputMap.get b).offset + 12 ≤ (s.chx.outputMap.get a).offset

/-- The ranges of R17, R67, R71, R75, R154 and R163 hold. -/
def RangesHold (s : State) : Prop :=
  QueuesBounded s ∧ FailCountsBounded s ∧ AgesBounded s ∧ SpeedUnitsBounded s ∧ CountersBounded s ∧ PlacesApart s

/-- A number lies in a closed range. -/
abbrev InRange (lo hi v : Nat) : Prop := lo ≤ v ∧ v ≤ hi

/-- Every character is a printable ASCII character (R46, R50). -/
def Printable (text : Bytes) : Prop := ∀ c ∈ text, InRange 0x20 0x7E c.toNat

/-- The header fields lie in the ranges of R46 in table order, but for the counts. -/
def Recipe.headerChecked (r : Recipe) : Prop :=
  r.name.length = 16 ∧ Printable r.name ∧ r.version ≤ 65535 ∧ InRange 16 65535 r.maxSpeed ∧ InRange 1 4000 r.stopRamp
    ∧ InRange 1 1024 r.ppr ∧ InRange 4 64 r.gate ∧ InRange 50 2000 r.standstillTime ∧ InRange 1 4095 r.tolerance
    ∧ InRange 4 400 r.settleFrames ∧ InRange 100 60000 r.settleTimeout
    ∧ (-32768 ≤ r.oilWarn ∧ r.oilWarn < r.oilAbort ∧ r.oilAbort ≤ 32767) ∧ r.hysteresis ≤ 10000
    ∧ InRange 1000 600000 r.maxHold ∧ r.overloadMargin ≤ 100 ∧ InRange 1 400 r.overloadFrames ∧ InRange 10 16 r.blockExp
    ∧ InRange 100 60000 r.laneWaitLimit ∧ r.ambientRatio ≤ 255

/-- The fields of a step lie in the ranges of R48, and those its kind does not use are 0, no or off. -/
def Step.checked (maxSpeed : Nat) (st : Step) : Prop :=
  st.torqueLimit ≤ 32767 ∧ InRange 1 4000 st.rampRate
    ∧ st.target ≤ (if st.kind = .stop then 0 else maxSpeed) ∧ st.dwell ≤ (if st.kind = .run then 600000 else 0)
    ∧ (st.kind = .measure →
      st.measureIndex ≤ 7 ∧ st.vibSet ≠ .off ∧ InRange 1 16 st.blocks ∧ InRange 1 st.blocks st.minBlocks
        ∧ InRange 100 120000 st.windowLimit ∧ st.retry ≤ 3 ∧ st.rerunDwell ≤ 600000)
    ∧ (st.kind ≠ .measure →
      st.measureIndex = 0 ∧ st.vibSet = .off ∧ st.ambient = false ∧ st.blocks = 0 ∧ st.minBlocks = 0
        ∧ st.windowLimit = 0 ∧ st.retry = 0 ∧ st.rerunOnFail = false ∧ st.rerunDwell = 0)

/-- The fields of a cavity lie in the ranges of R51. -/
def Cavity.checked (c : Cavity) : Prop :=
  (c.pressRole = .press1 ∨ c.pressRole = .press2 ∨ c.pressRole = .press3)
    ∧ (c.tempRole = .housingTemp ∨ c.tempRole = .oilTemp) ∧ InRange 1 3 c.pair ∧ InRange 100 10000 c.fillTarget
    ∧ InRange 1 32767 c.fillTolerance ∧ InRange 1 32767 c.overfillMargin ∧ InRange 100 60000 c.fillTimeout
    ∧ InRange 1 32767 c.grossMargin ∧ InRange 100 60000 c.settleTime ∧ InRange 1000 120000 c.measureTime
    ∧ c.decayLimit ≤ 32767 ∧ c.negDecayLimit ≤ 32767 ∧ c.retry ≤ 1 ∧ InRange 100 30000 c.ventTime
    ∧ (-32768 ≤ c.maxStartTemp ∧ c.maxStartTemp ≤ 32767) ∧ c.coolWaitLimit ≤ 600000

/-- A recipe is as validation leaves it: every field of header, steps, lines, limit grid and cavities in its range; 1..24 steps, at
most 8 of them MEASURE and then at least one line; at most 16 lines; at most 3 cavities with distinct ids, pressure roles and
valve pairs, and a leak order that agrees with them (R46, R48, R49, R50, R51). -/
def Recipe.checked (r : Recipe) : Prop :=
  r.headerChecked ∧ InRange 1 24 r.steps.length ∧ r.lines.length ≤ 16 ∧ r.cavities.length ≤ 3
    ∧ (r.leakOrder = .none ↔ r.cavities = [])
    ∧ (∀ st ∈ r.steps, st.checked r.maxSpeed) ∧ r.measureCount ≤ 8 ∧ (0 < r.measureCount → r.lines ≠ [])
    ∧ (∀ l ∈ r.lines, InRange 1 65535 l.order ∧ l.label.length ≤ 8 ∧ Printable l.label)
    ∧ (r.limits.length = 8 * r.lines.length ∧ ∀ v ∈ r.limits, v ≤ 65535)
    ∧ (∀ c ∈ r.cavities, c.checked)
    ∧ (r.cavities.map (·.id)).Nodup ∧ (r.cavities.map (·.pressRole)).Nodup ∧ (r.cavities.map (·.pair)).Nodup

/-- Every VALID slot holds a validated recipe, and a slot in another state none (R41, R45, R53). -/
def RecipesChecked (s : State) : Prop :=
  ∀ k : SlotIx, ((s.slot k).state = .valid → ∃ r : Recipe, (s.slot k).recipe = some r ∧ r.checked)
    ∧ ((s.slot k).state ≠ .valid → (s.slot k).recipe = none)

/-- A pinned slot is VALID (R56). -/
def PinnedValid (s : State) : Prop := ∀ k : SlotIx, 0 < (s.rbk.get k).pins → (s.rbk.get k).state = .valid

/-- The record a bay is bound to names that bay and the bay's recipe slot (R5, R6). -/
def BoundToSlot (s : State) : Prop :=
  ∀ (b : Bay) (i : RecIx) (r : AxleRecord), (s.bay b).ctl.bound = some i → s.art.get i = some r →
    r.bay = b ∧ (s.bay b).ctl.slot = some r.slot

/-- An emission in progress is of the record at the head of the spool queue: its part count is that of the record as the
report carries it, and a part has been sent and one is still to be sent (R145, R148). -/
def EmissionMatches (s : State) : Prop :=
  ∀ e : Emission, s.rsp.emission = some e →
    ∃ (i : RecIx) (rest : List RecIx) (r : AxleRecord), s.rsp.spool = i :: rest ∧ s.art.get i = some r
      ∧ e.partCount = ((recordBytes i { r with state := .sent }).length + 511) / 512
      ∧ 1 ≤ e.nextPart ∧ e.nextPart < e.partCount

/-- The LTU of a bay works on a cavity of the recipe only in a leak sub-phase, or venting in STOPPING; and it holds a fill bit
at 1 only in FILL, that of the cavity's pair, with drive enable 0 (R139, R141). -/
def FillsSafely (s : State) : Prop :=
  ∀ b : Bay,
    ((s.bay b).ltu.phase ≠ .idle → (s.bay b).ltu.phase ≠ .done →
      (∃ c : Cavity, s.cavityOf b = some c)
        ∧ (s.inLeak b = true ∨ ((s.bay b).ctl.state = .stopping ∧ (s.bay b).ltu.phase = .vent)))
    ∧ ((s.bay b).ltu.fill ≠ 0 →
      (s.bay b).ltu.phase = .fill ∧ (s.bay b).ris.driveEnable = false
        ∧ ∀ c : Cavity, s.cavityOf b = some c → (s.bay b).ltu.fill = pairBit c.pair)

/-! ### Requests -/

/-- The request at the head of the queue is one of the command, with arguments of its length, and the MGA may take it. -/
def TakenAs (c : Command) (q : MgmtRequest) (s : State) : Prop :=
  s.headRequest = some q ∧ envelopeOk q.payload = true ∧ commandOf (reqCode q.payload) = some c
    ∧ argsFit c (reqArgs q.payload) = true

/-- The request at the head of the queue, with a bay as its argument. -/
def TakenFor (c : Command) (q : MgmtRequest) (b : Bay) (s : State) : Prop :=
  TakenAs c q s ∧ bayArg (reqArgs q.payload) 0 = some b

/-- A BAY_START for a bay, a slot and a serial. -/
def StartFor (q : MgmtRequest) (b : Bay) (k : SlotIx) (serial : Bytes) (s : State) : Prop :=
  TakenFor .bayStart q b s ∧ slotArg (reqArgs q.payload) 1 = some k
    ∧ readSerial ((reqArgs q.payload).drop 2) = some serial

/-- A request whose first argument is a recipe slot. -/
def TakenAt (c : Command) (q : MgmtRequest) (k : SlotIx) (s : State) : Prop :=
  TakenAs c q s ∧ slotArg (reqArgs q.payload) 0 = some k

/-- The bay's bound record is record i, OPEN with content r. -/
def State.bindsOpen (s : State) (b : Bay) (i : RecIx) (r : AxleRecord) : Prop :=
  (s.bay b).ctl.bound = some i ∧ s.art.get i = some r ∧ r.state = .opened

/-- An OPEN or QUEUED record holds the serial (R4). -/
def State.holdsSerial (s : State) (serial : Bytes) : Prop :=
  ∃ (i : RecIx) (r : AxleRecord), s.art.get i = some r ∧ r.serial = serial ∧ r.state ≠ .sent

/-- Record i is the lowest-index FREE record (R5). -/
def State.lowestFreeRecord (s : State) (i : RecIx) : Prop :=
  s.art.get i = none ∧ ∀ j : RecIx, j < i → s.art.get j ≠ none

/-- The state with the head request taken and answered, and nothing else changed. -/
def State.answered (s : State) (q : MgmtRequest) (st : Status) (results : Bytes) : State :=
  s.popRequest.respond q st results

/-! ### The link -/

/-- The stream the egress arbiter serves at an opportunity: demand mode reports, and otherwise the response queue before the
spool queue (R147). -/
def State.arbiterServes (s : State) : Option Offer :=
  if s.mga.params.demandThreshold ≤ s.rsp.spool.length then some .report
  else if s.mga.responses ≠ [] then some .response
  else if s.rsp.spool ≠ [] then some .report
  else none

/-- The link after a good SAMPLE frame (or OUTPUT frame): in UP its quiet time is 0; in DOWN and LOST the frame has been
seen, and with the other kind seen the link is UP with both quiet times 0 (R161). -/
def Lfe.afterGood (sample : Bool) (l : Lfe) : Lfe :=
  if l.link = .up then if sample then { l with sampleQuiet := 0 } else { l with outputQuiet := 0 }
  else if (if sample then l.outputSeen else l.sampleSeen) = true then
    { l with link := .up, sampleSeen := true, outputSeen := true, sampleQuiet := 0, outputQuiet := 0 }
  else if sample then { l with sampleSeen := true } else { l with outputSeen := true }

/-- A good SAMPLE frame finds the link, or brings it, out of LOST, so that it is tested (R160, R161). -/
def State.testsSample (s : State) : Prop := s.lfe.link ≠ .lost ∨ s.lfe.outputSeen = true

/-- The 12 bytes of a command record of a RUNNING or STOPPING bay; on a LOST link drive enable and fill bits are 0
(R23, R72, R103, R174). -/
def BayUnit.commandBytes (lost : Bool) (u : BayUnit) : Bytes :=
  [BitVec.ofNat 8 ((if u.ris.driveEnable = true ∧ lost = false then 1 else 0)
      + 2 * (match u.ris.loadMode with
        | none => 0 | some .fwdDrive => 1 | some .fwdCoast => 2 | some .revDrive => 3 | some .revCoast => 4)), 0]
    ++ leBytes 2 u.ris.cmdSpeed ++ leBytes 2 (u.ris.torqueLimit.getD 0)
    ++ [BitVec.ofNat 8 ((if lost then 0 else u.ltu.fill.toNat) + 8 * u.ltu.vent.toNat),
        if u.ctl.state = .running then 2 else 3, 0, 0, 0, 0]

/-! ### What the link shows of the state (R74, R174, R179) -/

/-- The LTU cavity of the bay is shown: in a leak sub-phase, and in STOPPING while a vent runs (R22, R74). -/
def State.cavityShown (s : State) (b : Bay) : Prop :=
  s.inLeak b = true ∨ ((s.bay b).ctl.state = .stopping ∧ (s.bay b).ltu.phase = .vent)

/-- 12 bytes show a bay as a bay section of the status block does (R74, R174). -/
def BayShown (s : State) (b : Bay) (sec : Bytes) : Prop :=
  ∃ (cav ltu : Nat) (steady : Bool),
    (s.cavityShown b →
      cav = (s.bay b).ltu.cavityIndex.getD 0 ∧ ltu = ltuPhaseCode (s.bay b).ltu.phase)
    ∧ (¬ s.cavityShown b → cav = 0 ∧ ltu = 0)
    ∧ (steady = true ↔ ∃ q : SpuParams, (s.bay b).spu.params = some q ∧ q.settleFrames ≤ (s.bay b).spu.steadyCount)
    ∧ sec =
      [BitVec.ofNat 8 (bayStateCode (s.bay b).ctl.state + 8 * subPhaseCode (s.bay b).ctl.subPhase
          + (if (s.bay b).ctl.lockPending then 32 else 0) + (if (s.bay b).spu.standstill then 64 else 0)
          + if (s.bay b).spu.reverse then 128 else 0)]
      ++ leBytes 2 ((s.bay b).ctl.alarms.toNat + (if (s.bay b).ctl.alarms = 0 then 0 else 2 ^ 11)
          + if steady then 2 ^ 12 else 0)
      ++ leBytes 2 (s.bay b).spu.speed
      ++ leBytes 2 (if (s.bay b).ctl.state = .running ∨ (s.bay b).ctl.state = .stopping then (s.bay b).ris.cmdSpeed
          else 0)
      ++ [BitVec.ofNat 8
            ((if (s.bay b).ris.phase = .idle then 0 else (s.bay b).ris.stepIndex.getD 0) + 32 * cav),
          BitVec.ofNat 8 (risPhaseCode (s.bay b).ris.phase + 16 * ltu),
          BitVec.ofNat 8
            ((match (s.bay b).ctl.bound, (s.bay b).ctl.last with
              | some i, _ => i.val
              | none, some i => i.val
              | none, none => 15) + 16 * (s.bay b).ctl.failCount)]
      ++ signedBytes 2 (s.roleReading b .oilTemp)

/-- 8 bytes show the cell as the cell section of the status block does (R74, R174). -/
def CellShown (s : State) (sec : Bytes) : Prop :=
  sec =
    [BitVec.ofNat 8 (linkStateCode s.lfe.link + 4 * s.mga.alarms.toNat
        + if ∃ i : Fin 8, (s.stc.counters.get i).alarm = true then 64 else 0),
     BitVec.ofNat 8 (s.rsp.spool.length + 16 * (List.finRange 8).countP fun l => (s.oae.lanes.get l).isNone),
     BitVec.ofNat 8 (s.oae.queue.length + 8 * (List.finRange 12).countP fun i => (s.art.get i).isNone),
     BitVec.ofNat 8 (((List.finRange 6).map fun k => if (s.slot k).state = .valid then 2 ^ k.val else 0).sum)]
    ++ leBytes 2 s.tbs.cellTime.toNat ++ [0, 0]

/-- 56 bytes show the state as a status block does: four bay sections and the cell section (R74, R174). -/
def StatusShown (s : State) (blk : Bytes) : Prop :=
  blk.length = 56 ∧ (∀ b : Bay, BayShown s b ((blk.drop (12 * b.val)).take 12)) ∧ CellShown s (blk.drop 48)

/-- The bytes of a noise entry: 12, and 12 for each of its line results (R179). -/
def NoiseEntry.laidOut (n : NoiseEntry) : Bytes :=
  [BitVec.ofNat 8 n.stepIndex, BitVec.ofNat 8 n.measureIndex, BitVec.ofNat 8 (loadModeCode n.loadMode),
   BitVec.ofNat 8 n.attempts] ++ leBytes 2 n.target
    ++ [BitVec.ofNat 8 (noiseResultCode n.result), BitVec.ofNat 8 (nomeasCode n.reason),
        match n.ambient with | none => 0 | some false => 1 | some true => 2, BitVec.ofNat 8 n.lines.length, 0, 0]
    ++ n.lines.flatMap fun l =>
      [BitVec.ofNat 8 (lineStateCode l.state), if l.lane = .a then 1 else 2] ++ leBytes 2 l.limit ++ leBytes 4 l.peak
        ++ leBytes 4 (l.ambient.getD 0)

/-- The 20 bytes of a leak entry (R179). -/
def LeakEntry.laidOut (l : LeakEntry) : Bytes :=
  [BitVec.ofNat 8 (cavityIdCode l.id), BitVec.ofNat 8 l.attempts, BitVec.ofNat 8 (leakResultCode l.result),
   BitVec.ofNat 8 ((if l.p0.isSome then 1 else 0) + if l.p1.isSome then 2 else 0)]
    ++ signedBytes 2 (l.p0.getD 0) ++ signedBytes 2 (l.t0.getD 0) ++ signedBytes 2 (l.p1.getD 0)
    ++ signedBytes 2 (l.t1.getD 0) ++ signedBytes 4 (l.decay.getD 0) ++ signedBytes 4 (l.rate.getD 0)

/-- A byte string is a record serialized by the offsets of R179. -/
def RecordLaidOut (i : RecIx) (r : AxleRecord) (bs : Bytes) : Prop :=
  (bs.take 2 = [BitVec.ofNat 8 i.val, match r.state with | .opened => 1 | .queued => 2 | .sent => 3])
    ∧ (bs.drop 2).take 21 = BitVec.ofNat 8 r.serial.length :: (r.serial ++ List.replicate 20 0x20).take 20
    ∧ (bs.drop 23).take 2 = [BitVec.ofNat 8 r.bay.val, BitVec.ofNat 8 r.slot.val]
    ∧ (bs.drop 25).take 16 = (r.name ++ List.replicate 16 0x20).take 16
    ∧ (bs.drop 41).take 2 = leBytes 2 r.version
    ∧ (bs.drop 43).take 4 = leBytes 4 r.startTime.toNat
    ∧ (bs.drop 47).take 4 = leBytes 4 ((r.endTime.getD 0).toNat)
    ∧ (bs.drop 51).take 5 =
      [BitVec.ofNat 8 ((if r.endTime.isSome then 1 else 0) + (if r.summary.maxOil.isSome then 2 else 0)
          + if r.summary.maxTorque.isSome then 4 else 0),
       match r.verdict with | none => 0 | some .pass => 1 | some .fail => 2 | some .incomplete => 3 | some .aborted => 4,
       match r.reasons with
         | none => 0
         | some x => BitVec.ofNat 8 ((if x.noise then 1 else 0) + (if x.leak then 2 else 0) + if x.grossLeak then 4 else 0),
       BitVec.ofNat 8 (causeCode r.cause), BitVec.ofNat 8 r.summary.stepsCompleted]
    ∧ (bs.drop 56).take 4 = leBytes 4 r.summary.driveTime
    ∧ (bs.drop 60).take 4 = leBytes 4 r.summary.holdTime
    ∧ (bs.drop 64).take 2 = signedBytes 2 (r.summary.maxOil.getD 0)
    ∧ (bs.drop 66).take 2 = leBytes 2 (r.summary.maxTorque.getD 0)
    ∧ (bs.drop 68).take 4 = [BitVec.ofNat 8 r.noise.length, BitVec.ofNat 8 r.leaks.length, 0, 0]
    ∧ bs.drop 72 = r.noise.flatMap NoiseEntry.laidOut ++ r.leaks.flatMap LeakEntry.laidOut

/-! ### Maps and recipe images (R45 to R52, R58 to R60, R69, R175, R176) -/

/-- The first of the items 0..n − 1 for which a test does not hold. -/
def FirstFailing (n : Nat) (ok : Nat → Prop) (i : Nat) : Prop := i < n ∧ ¬ ok i ∧ ∀ j : Nat, j < i → ok j

/-- Check 3 of R60 for one item of LOAD_CHANNEL_MAP, by the codes of R171 and R175 and the ranges of R58. -/
def ItemInRange (it : Bytes) : Prop :=
  byteAt it 0 ≤ 63
    ∧ (byteAt it 1 = 0
      ∨ (byteAt it 1 = 1 ∧ byteAt it 2 ≤ 4 ∧ 1 ≤ byteAt it 3 ∧ byteAt it 3 ≤ 13 ∧ natAt it 6 2 ≤ 8191
        ∧ ((byteAt it 4 = 1 ∧ 8 ≤ byteAt it 5 ∧ byteAt it 5 ≤ 16 ∧ byteAt it 5 ≤ natAt it 14 2 ∧ natAt it 14 2 ≤ 1024)
          ∨ (byteAt it 4 = 2 ∧ byteAt it 5 = 28)
          ∨ (byteAt it 4 = 3 ∧ 1 ≤ byteAt it 5 ∧ byteAt it 5 ≤ 32 ∧ byteAt it 8 ≤ 1)
          ∨ (byteAt it 4 = 4 ∧ 1 ≤ byteAt it 5 ∧ byteAt it 5 ≤ 16))))

/-- Checks 4 and 5 of R60 for one item: one that writes fields has kind and owner of its role and fits the stream (R59). -/
def ItemSound (it : Bytes) : Prop :=
  byteAt it 1 = 0
    ∨ (((byteAt it 3 = 2 ∨ byteAt it 3 = 3 ∨ byteAt it 3 = 11) ↔ byteAt it 4 = 1)
      ∧ (byteAt it 3 = 1 ↔ byteAt it 4 = 2)
      ∧ ((byteAt it 3 = 10 ∨ byteAt it 3 = 13) ↔ byteAt it 4 = 4)
      ∧ ((byteAt it 3 = 11 ∨ byteAt it 3 = 12 ∨ byteAt it 3 = 13) ↔ byteAt it 2 = 4)
      ∧ natAt it 6 2 + (if byteAt it 4 = 1 then 7 * natAt it 14 2 else 0) + byteAt it 5 - 1 ≤ 8191)

/-- The 16 bytes of item i of a LOAD_CHANNEL_MAP (R175). -/
def mapItem (args : Bytes) (i : Nat) : Bytes := (args.drop (2 + 16 * i)).take 16

/-- Item i is the first that fails checks 2 to 5 of R60: more than 16 items are position 16; then repeated indices, then
check 3 of every item, then checks 4 and 5 item by item (log entry 14). -/
def MapFails (args : Bytes) (i : Nat) : Prop :=
  (16 < byteAt args 1 ∧ i = 16)
    ∨ (byteAt args 1 ≤ 16
      ∧ (FirstFailing (byteAt args 1)
          (fun k => ∀ j : Nat, j < k → byteAt (mapItem args j) 0 ≠ byteAt (mapItem args k) 0) i
        ∨ ((∀ k : Nat, k < byteAt args 1 → ∀ j : Nat, j < k → byteAt (mapItem args j) 0 ≠ byteAt (mapItem args k) 0)
          ∧ (FirstFailing (byteAt args 1) (fun k => ItemInRange (mapItem args k)) i
            ∨ ((∀ k : Nat, k < byteAt args 1 → ItemInRange (mapItem args k))
              ∧ FirstFailing (byteAt args 1) (fun k => ItemSound (mapItem args k)) i)))))

/-- Channel e is one of the bay's for a role: in use, with the role and its owner (R58, R69). -/
def State.offers (s : State) (b : Bay) (role : Role) (e : EntryIx) : Bool :=
  (s.chx.entries.get e).enabled && s.chx.partitions.getLsbD (e.val / 16) && (s.chx.entries.get e).role == some role
    && (s.chx.entries.get e).owner ==
      (if role = .ambientMic ∨ role = .baro ∨ role = .cellStat then .cell else .bay b)

/-- The roles in the order in which they are tried (R69). -/
def rolesInOrder : List Role :=
  [.stat, .tacho, .oilTemp, .torque, .vibA, .vibB, .press1, .press2, .press3, .housingTemp, .ambientMic, .baro]

/-- The recipe needs a role (R4, R52). -/
def NeedsRole (r : Recipe) (role : Role) : Prop :=
  role = .stat ∨ role = .tacho ∨ role = .oilTemp ∨ role = .torque
    ∨ (role = .vibA ∧ ∃ st ∈ r.steps, st.kind = .measure ∧ (st.vibSet = .a ∨ st.vibSet = .ab))
    ∨ (role = .vibB ∧ ∃ st ∈ r.steps, st.kind = .measure ∧ (st.vibSet = .b ∨ st.vibSet = .ab))
    ∨ ((role = .press1 ∨ role = .press2 ∨ role = .press3) ∧ ∃ c ∈ r.cavities, c.pressRole = role)
    ∨ (role = .housingTemp ∧ ∃ c ∈ r.cavities, c.tempRole = .housingTemp)
    ∨ (role = .ambientMic ∧ r.ambientRatio ≠ 0 ∧ ∃ st ∈ r.steps, st.kind = .measure ∧ st.ambient = true)
    ∨ (role = .baro ∧ r.cavities ≠ [])

/-- Number of channels of a bay for a role. -/
def State.channelCount (s : State) (b : Bay) (role : Role) : Nat := (List.finRange 64).countP (s.offers b role)

/-- Every role the recipe needs resolves: the pairs name the needed roles in order, each with its one channel (R69). -/
def Resolves (s : State) (b : Bay) (r : Recipe) (pairs : List (Role × EntryIx)) : Prop :=
  (pairs.map (·.1)).Sublist rolesInOrder ∧ (∀ role ∈ rolesInOrder, role ∈ pairs.map (·.1) ↔ NeedsRole r role)
    ∧ ∀ p ∈ pairs, s.offers b p.1 p.2 = true ∧ s.channelCount b p.1 = 1

/-- The first needed role with no channel or with several, and their number (R69). -/
def ResolveFails (s : State) (b : Bay) (r : Recipe) (role : Role) (n : Nat) : Prop :=
  ∃ i : Nat, rolesInOrder[i]? = some role ∧ NeedsRole r role ∧ n = s.channelCount b role ∧ n ≠ 1
    ∧ ∀ (j : Nat) (x : Role), j < i → rolesInOrder[j]? = some x → NeedsRole r x → s.channelCount b x = 1

/-- Every header field with reason RANGE lies in its range (R46, R176). -/
def HeaderInRange (img : Bytes) : Prop :=
  (∀ c ∈ img.take 16, 0x20 ≤ c.toNat ∧ c.toNat ≤ 0x7E)
    ∧ 16 ≤ natAt img 18 2
    ∧ (1 ≤ natAt img 20 2 ∧ natAt img 20 2 ≤ 4000)
    ∧ byteAt img 22 ≤ 2 ∧ byteAt img 23 ≤ 1
    ∧ (1 ≤ natAt img 24 2 ∧ natAt img 24 2 ≤ 1024)
    ∧ (4 ≤ byteAt img 26 ∧ byteAt img 26 ≤ 64)
    ∧ (50 ≤ natAt img 28 2 ∧ natAt img 28 2 ≤ 2000)
    ∧ (1 ≤ natAt img 30 2 ∧ natAt img 30 2 ≤ 4095)
    ∧ (4 ≤ natAt img 32 2 ∧ natAt img 32 2 ≤ 400)
    ∧ (100 ≤ natAt img 34 2 ∧ natAt img 34 2 ≤ 60000)
    ∧ intAt img 36 2 < intAt img 38 2
    ∧ natAt img 40 2 ≤ 10000
    ∧ (1000 ≤ natAt img 44 4 ∧ natAt img 44 4 ≤ 600000)
    ∧ byteAt img 48 ≤ 100
    ∧ (1 ≤ natAt img 42 2 ∧ natAt img 42 2 ≤ 400)
    ∧ (10 ≤ byteAt img 27 ∧ byteAt img 27 ≤ 16)
    ∧ (100 ≤ natAt img 50 2 ∧ natAt img 50 2 ≤ 60000)

/-- The three counts lie in their ranges and the leak order agrees with the cavities (R46). -/
def HeaderCounted (img : Bytes) : Prop :=
  (1 ≤ byteAt img 52 ∧ byteAt img 52 ≤ 24) ∧ byteAt img 53 ≤ 16 ∧ byteAt img 54 ≤ 3
    ∧ (byteAt img 22 = 0 ↔ byteAt img 54 = 0)

/-- The size the image needs (R47). -/
def imageNeeds (img : Bytes) : Nat := 64 + 32 * byteAt img 52 + 12 * byteAt img 53 + 16 * byteAt img 53 + 40 * byteAt img 54

/-- The 32 bytes of step i, the 12 of line k and the 40 of cavity c, each part where the one before it ends (R47, R176). -/
def imageStep (img : Bytes) (i : Nat) : Bytes := (img.drop (64 + 32 * i)).take 32
def imageLine (img : Bytes) (k : Nat) : Bytes := (img.drop (64 + 32 * byteAt img 52 + 12 * k)).take 12
def imageCavity (img : Bytes) (c : Nat) : Bytes :=
  (img.drop (64 + 32 * byteAt img 52 + 28 * byteAt img 53 + 40 * c)).take 40

/-- Step i is the kind MEASURE and the recipe has no line, or the steps up to it hold more than 8 of that kind: COUNT
(R49 checks 2 and 3). -/
def StepMiscounted (img : Bytes) (i : Nat) : Prop :=
  byteAt (imageStep img i) 0 = 2
    ∧ (byteAt img 53 = 0 ∨ 8 < (List.range (i + 1)).countP fun j => byteAt (imageStep img j) 0 = 2)

/-- Kind and the fields that the kind uses lie in their ranges (R48, R49 checks 1 and 4). -/
def StepInRange (maxSpeed : Nat) (x : Bytes) : Prop :=
  (1 ≤ byteAt x 0 ∧ byteAt x 0 ≤ 3) ∧ (1 ≤ byteAt x 1 ∧ byteAt x 1 ≤ 4) ∧ natAt x 2 2 ≤ 32767
    ∧ (1 ≤ natAt x 4 2 ∧ natAt x 4 2 ≤ 4000)
    ∧ (byteAt x 0 ≠ 3 → natAt x 6 2 ≤ maxSpeed)
    ∧ (byteAt x 0 = 1 → natAt x 8 4 ≤ 600000)
    ∧ (byteAt x 0 = 2 →
      byteAt x 12 ≤ 7 ∧ (1 ≤ byteAt x 13 ∧ byteAt x 13 ≤ 3) ∧ byteAt x 14 ≤ 1
        ∧ (1 ≤ byteAt x 15 ∧ byteAt x 15 ≤ 16) ∧ (1 ≤ byteAt x 16 ∧ byteAt x 16 ≤ byteAt x 15)
        ∧ (100 ≤ natAt x 18 4 ∧ natAt x 18 4 ≤ 120000) ∧ byteAt x 17 ≤ 3 ∧ byteAt x 22 ≤ 1 ∧ natAt x 24 4 ≤ 600000)

/-- The order and the label of a line (R50). -/
def LineInRange (x : Bytes) : Prop := 1 ≤ natAt x 0 2 ∧ ∀ c ∈ (x.drop 2).take 8, 0x20 ≤ c.toNat ∧ c.toNat ≤ 0x7E

/-- The fields of a cavity (R51). -/
def CavityInRange (x : Bytes) : Prop :=
  (1 ≤ byteAt x 0 ∧ byteAt x 0 ≤ 3) ∧ (7 ≤ byteAt x 1 ∧ byteAt x 1 ≤ 9) ∧ (byteAt x 2 = 4 ∨ byteAt x 2 = 5)
    ∧ (1 ≤ byteAt x 3 ∧ byteAt x 3 ≤ 3) ∧ (100 ≤ natAt x 4 2 ∧ natAt x 4 2 ≤ 10000)
    ∧ (1 ≤ natAt x 6 2 ∧ natAt x 6 2 ≤ 32767) ∧ (1 ≤ natAt x 8 2 ∧ natAt x 8 2 ≤ 32767)
    ∧ (100 ≤ natAt x 10 2 ∧ natAt x 10 2 ≤ 60000) ∧ (1 ≤ natAt x 12 2 ∧ natAt x 12 2 ≤ 32767)
    ∧ (100 ≤ natAt x 14 2 ∧ natAt x 14 2 ≤ 60000) ∧ (1000 ≤ natAt x 16 4 ∧ natAt x 16 4 ≤ 120000)
    ∧ natAt x 20 2 ≤ 32767 ∧ natAt x 22 2 ≤ 32767 ∧ byteAt x 24 ≤ 1
    ∧ (100 ≤ natAt x 26 2 ∧ natAt x 26 2 ≤ 30000) ∧ natAt x 30 4 ≤ 600000

/-- An earlier cavity has the id, the pressure role or the valve pair of cavity c (R51). -/
def CavityTaken (img : Bytes) (c : Nat) : Prop :=
  ∃ d : Nat, d < c ∧ (byteAt (imageCavity img d) 0 = byteAt (imageCavity img c) 0
    ∨ byteAt (imageCavity img d) 1 = byteAt (imageCavity img c) 1
    ∨ byteAt (imageCavity img d) 3 = byteAt (imageCavity img c) 3)

/-- Validation of an image delivered in a number of pages fails with a reason and an item: the first failure in the order of
the stages (R45, R46, R47, R49, R50, R51). -/
def ImageFails (img : Bytes) (pages : Nat) (why : Reason) (item : Nat) : Prop :=
  (¬ HeaderInRange img ∧ why = .range ∧ item = 0)
    ∨ (HeaderInRange img ∧ ¬ HeaderCounted img ∧ why = .count ∧ item = 0)
    ∨ (HeaderInRange img ∧ HeaderCounted img
      ∧ ((256 * pages < imageNeeds img ∧ why = .size ∧ item = (imageNeeds img + 255) / 256)
        ∨ (imageNeeds img ≤ 256 * pages
          ∧ ((∃ i : Nat, FirstFailing (byteAt img 52)
                (fun j => ¬ StepMiscounted img j ∧ StepInRange (natAt img 18 2) (imageStep img j)) i
              ∧ item = 1 + i ∧ (StepMiscounted img i → why = .count) ∧ (¬ StepMiscounted img i → why = .range))
            ∨ ((∀ j : Nat, j < byteAt img 52 →
                  ¬ StepMiscounted img j ∧ StepInRange (natAt img 18 2) (imageStep img j))
              ∧ ((∃ k : Nat, FirstFailing (byteAt img 53) (fun j => LineInRange (imageLine img j)) k
                  ∧ item = 32 + k ∧ why = .range)
                ∨ ((∀ j : Nat, j < byteAt img 53 → LineInRange (imageLine img j))
                  ∧ ∃ c : Nat, FirstFailing (byteAt img 54)
                      (fun j => CavityInRange (imageCavity img j) ∧ ¬ CavityTaken img j) c
                    ∧ item = 64 + c ∧ (CavityInRange (imageCavity img c) → why = .cavityConflict)
                    ∧ (¬ CavityInRange (imageCavity img c) → why = .range))))))))

/-- A recipe step holds the fields of a step of the image, and 0, no or off where its kind uses none (R48, R176). -/
def StepDecoded (x : Bytes) (st : Step) : Prop :=
  (byteAt x 0 = match st.kind with | .run => 1 | .measure => 2 | .stop => 3)
    ∧ byteAt x 1 = loadModeCode st.loadMode ∧ st.torqueLimit = natAt x 2 2 ∧ st.rampRate = natAt x 4 2
    ∧ st.target = (if st.kind = .stop then 0 else natAt x 6 2)
    ∧ st.dwell = (if st.kind = .run then natAt x 8 4 else 0)
    ∧ (st.kind = .measure →
      st.measureIndex = byteAt x 12 ∧ (byteAt x 13 = match st.vibSet with | .off => 0 | .a => 1 | .b => 2 | .ab => 3)
        ∧ st.ambient = decide (byteAt x 14 = 1) ∧ st.blocks = byteAt x 15 ∧ st.minBlocks = byteAt x 16
        ∧ st.windowLimit = natAt x 18 4 ∧ st.retry = byteAt x 17 ∧ st.rerunOnFail = decide (byteAt x 22 = 1)
        ∧ st.rerunDwell = natAt x 24 4)
    ∧ (st.kind ≠ .measure →
      st.measureIndex = 0 ∧ st.vibSet = .off ∧ st.ambient = false ∧ st.blocks = 0 ∧ st.minBlocks = 0
        ∧ st.windowLimit = 0 ∧ st.retry = 0 ∧ st.rerunOnFail = false ∧ st.rerunDwell = 0)

/-- A recipe cavity holds the fields of a cavity of the image (R51, R176). -/
def CavityDecoded (x : Bytes) (c : Cavity) : Prop :=
  byteAt x 0 = cavityIdCode c.id ∧ byteAt x 1 = roleCode c.pressRole ∧ byteAt x 2 = roleCode c.tempRole
    ∧ c.pair = byteAt x 3 ∧ c.fillTarget = natAt x 4 2 ∧ c.fillTolerance = natAt x 6 2
    ∧ c.overfillMargin = natAt x 8 2 ∧ c.fillTimeout = natAt x 10 2 ∧ c.grossMargin = natAt x 12 2
    ∧ c.settleTime = natAt x 14 2 ∧ c.measureTime = natAt x 16 4 ∧ c.decayLimit = natAt x 20 2
    ∧ c.negDecayLimit = natAt x 22 2 ∧ c.retry = byteAt x 24 ∧ c.ventTime = natAt x 26 2
    ∧ c.maxStartTemp = intAt x 28 2 ∧ c.coolWaitLimit = natAt x 30 4

/-- A recipe holds the fields of an image by the offsets of R176. -/
def ImageDecoded (img : Bytes) (r : Recipe) : Prop :=
  r.name = img.take 16 ∧ r.version = natAt img 16 2 ∧ r.maxSpeed = natAt img 18 2 ∧ r.stopRamp = natAt img 20 2
    ∧ (byteAt img 22 = match r.leakOrder with | .none => 0 | .before => 1 | .after => 2)
    ∧ r.stopAtFirstFail = decide (byteAt img 23 = 1) ∧ r.ppr = natAt img 24 2 ∧ r.gate = byteAt img 26
    ∧ r.blockExp = byteAt img 27 ∧ r.standstillTime = natAt img 28 2 ∧ r.tolerance = natAt img 30 2
    ∧ r.settleFrames = natAt img 32 2 ∧ r.settleTimeout = natAt img 34 2 ∧ r.oilWarn = intAt img 36 2
    ∧ r.oilAbort = intAt img 38 2 ∧ r.hysteresis = natAt img 40 2 ∧ r.overloadFrames = natAt img 42 2
    ∧ r.maxHold = natAt img 44 4 ∧ r.overloadMargin = byteAt img 48 ∧ r.ambientRatio = byteAt img 49
    ∧ r.laneWaitLimit = natAt img 50 2
    ∧ r.steps.length = byteAt img 52 ∧ r.lines.length = byteAt img 53 ∧ r.cavities.length = byteAt img 54
    ∧ (∀ (i : Nat) (st : Step), r.steps[i]? = some st → StepDecoded (imageStep img i) st)
    ∧ (∀ (k : Nat) (l : OrderLine), r.lines[k]? = some l →
        l.order = natAt (imageLine img k) 0 2 ∧ l.label = ((imageLine img k).drop 2).take 8)
    ∧ (∀ (c : Nat) (x : Cavity), r.cavities[c]? = some x → CavityDecoded (imageCavity img c) x)
    ∧ ∀ m k : Nat, m < 8 → k < byteAt img 53 →
        r.limit m k = natAt img (64 + 32 * byteAt img 52 + 12 * byteAt img 53 + 2 * (m * byteAt img 53 + k)) 2

/-! ### Counters (R152 to R154) -/

/-- A counter after n is added to it (R154). -/
def Counter.added (n : Nat) (c : Counter) : Counter :=
  { c with
    value := min (c.value + n) (2 ^ 32 - 1)
    saturated := c.saturated || decide (2 ^ 32 - 1 ≤ c.value + n)
    alarm := c.alarm || decide (c.alarmLimit ≠ 0 ∧ c.alarmLimit ≤ min (c.value + n) (2 ^ 32 - 1)) }

/-- The mode and the filters of a counter let an event of a bay, with the bay's recipe slot and a result, pass (R152). -/
def Counter.selects (c : Counter) (b : Bay) (k : Option SlotIx) (x : Option ResultName) : Prop :=
  c.mode = .count ∧ (c.baySet = 0 ∨ c.baySet.getLsbD b.val = true)
    ∧ (∀ y : ResultName, x = some y → c.resultSet = 0 ∨ c.resultSet.getLsbD (resultBit y).val = true)
    ∧ ∀ j : SlotIx, k = some j → c.slotMatch = none ∨ c.slotMatch = some j

/-- One event of a bay has been counted: each counter that selects the event and lets it pass has 1 more, and each other
counter of that event stands (R152, R154). -/
def Counted (ev : CounterEvent) (b : Bay) (k : Option SlotIx) (x : Option ResultName) (s t : State) : Prop :=
  ∀ i : Fin 8, (s.stc.counters.get i).event = ev →
    ((s.stc.counters.get i).selects b k x → t.stc.counters.get i = (s.stc.counters.get i).added 1)
    ∧ (¬ (s.stc.counters.get i).selects b k x → t.stc.counters.get i = s.stc.counters.get i)

/-- What an occupancy of x adds to a counter at a tick (R153). -/
def Counter.sampled (x : Nat) (c : Counter) : Counter :=
  match c.mode with
  | .count => c.added x
  | .threshold => if c.threshold ≤ x then c.added 1 else c
  | .edge => { (if c.threshold ≤ x ∧ c.above = false then c.added 1 else c) with above := decide (c.threshold ≤ x) }

/-! ### Finalization (R16, R17, R34 to R36) -/

/-- A record once it is finalized (R34). -/
def AxleRecord.concluded (now : BitVec 32) (v : Verdict) (r : AxleRecord) : AxleRecord :=
  { r with
    state := .queued
    endTime := some now
    verdict := some v
    reasons := some
      { noise := decide (∃ n ∈ r.noise, n.result = .fail)
        leak := decide (∃ l ∈ r.leaks, l.result = .fail)
        grossLeak := decide (∃ l ∈ r.leaks, l.result = .gross) } }

/-- The verdict of a record under a recipe (R35). -/
def VerdictIs (q : Recipe) (r : AxleRecord) (v : Verdict) : Prop :=
  (r.cause ≠ none → v = .aborted)
    ∧ (r.cause = none →
        ((∃ n ∈ r.noise, n.result = .fail) ∨ ∃ l ∈ r.leaks, l.result = .fail ∨ l.result = .gross) → v = .fail)
    ∧ (r.cause = none → (∀ n ∈ r.noise, n.result ≠ .fail) →
        (∀ l ∈ r.leaks, l.result ≠ .fail ∧ l.result ≠ .gross) →
        v = if (∃ n ∈ r.noise, n.result = .incomplete) ∨ (∃ l ∈ r.leaks, l.result = .incomplete)
            ∨ r.noise.length < (q.steps.filter fun x => x.kind = .measure).length
            ∨ r.leaks.length < q.cavities.length
          then .incomplete else .pass)

/-- Record i, with content r, has been finalized with a verdict: QUEUED at the tail of the spool, its slot unpinned once,
AXLE_DONE counted (R34). -/
def Finalized (i : RecIx) (r : AxleRecord) (v : Verdict) (s t : State) : Prop :=
  t.art.get i = some (r.concluded t.tbs.cellTime v) ∧ t.rsp.spool = s.rsp.spool ++ [i]
    ∧ (t.slot r.slot).pins = (s.slot r.slot).pins - 1
    ∧ Counted .axleDone r.bay (some r.slot) (some (verdictResult v)) s t

/-- Fail count, QSTOP and lock-pending of a bay after a verdict (R17). -/
def QualityJudged (limit : Nat) (v : Verdict) (c d : BayCtl) : Prop :=
  d.failCount = (match v with
    | .pass => 0 | .fail => min 15 (c.failCount + 1) | .incomplete => c.failCount | .aborted => c.failCount)
    ∧ (v = .fail ∧ limit ≠ 0 ∧ limit ≤ min 15 (c.failCount + 1) →
        d.alarms = withAlarm c.alarms .qstop ∧ d.lockPending = true)
    ∧ (¬ (v = .fail ∧ limit ≠ 0 ∧ limit ≤ min 15 (c.failCount + 1)) →
        d.alarms = c.alarms ∧ d.lockPending = c.lockPending)

/-! ### Aborts (R10 to R13, R101, R141) -/

/-- The noise entry that an abort offers for the measurement in progress (R101). -/
def State.abortNoise (s : State) (b : Bay) : Option NoiseEntry :=
  if (s.bay b).ris.phase = .measureWait ∨ (s.bay b).ris.phase = .measure then
    (s.stepOf b).map fun st =>
      { stepIndex := (s.bay b).ris.stepIndex.getD 0, measureIndex := st.measureIndex, loadMode := st.loadMode,
        target := st.target, attempts := (s.bay b).ris.attempts, result := .incomplete, reason := some .aborted,
        ambient := none, lines := [] }
  else none

/-- The leak entry of a cavity with the readings as they stand (R140). -/
def State.leakEntry (s : State) (b : Bay) (c : Cavity) (x : LeakResult) : LeakEntry :=
  { id := c.id, attempts := (s.bay b).ltu.attempts, result := x, p0 := (s.bay b).ltu.p0, t0 := (s.bay b).ltu.t0,
    p1 := (s.bay b).ltu.p1, t1 := (s.bay b).ltu.t1, decay := (s.bay b).ltu.decay, rate := (s.bay b).ltu.rate }

/-- The leak entry that an abort offers for the cavity in progress (R141). -/
def State.abortLeak (s : State) (b : Bay) : Option LeakEntry :=
  match s.cavityOf b with
  | none => none
  | some c =>
    if (s.bay b).ltu.phase = .idle ∨ (s.bay b).ltu.phase = .done
        ∨ ((s.bay b).ltu.phase = .vent ∧ (s.bay b).ltu.offered = true) then none
    else some (s.leakEntry b c .incomplete)

/-- A record with a noise entry offered: it is appended when its step has none yet and fewer than 8 are held (R30). -/
def AxleRecord.withNoise (r : AxleRecord) (e : Option NoiseEntry) : AxleRecord :=
  match e with
  | none => r
  | some x =>
    if (∀ y ∈ r.noise, y.stepIndex ≠ x.stepIndex) ∧ r.noise.length < 8 then { r with noise := r.noise ++ [x] } else r

/-- A record with a leak entry offered: it is appended when its cavity has none yet and fewer than 3 are held (R32). -/
def AxleRecord.withLeak (r : AxleRecord) (e : Option LeakEntry) : AxleRecord :=
  match e with
  | none => r
  | some x => if (∀ y ∈ r.leaks, y.id ≠ x.id) ∧ r.leaks.length < 3 then { r with leaks := r.leaks ++ [x] } else r

/-- The RIS of a bay that is stopped: in IDLE as it was; otherwise in RUNDOWN with HOLD no, and drive enable, load mode and
torque limit kept, unless the shaft stands at commanded speed 0 and the RIS comes to rest at once (R101). -/
def State.stoppedRis (s : State) (b : Bay) : Ris :=
  if (s.bay b).ris.phase = .idle then (s.bay b).ris
  else if (s.bay b).spu.standstill = true ∧ (s.bay b).ris.cmdSpeed = 0 then
    { (s.bay b).ris with
      phase := .idle, stepIndex := none, driveEnable := false, loadMode := none, torqueLimit := none, rampFrac := 0,
      hold := false, holdTimer := 0 }
  else { (s.bay b).ris with phase := .rundown, rampFrac := 0, hold := false, holdTimer := 0 }

/-- The LTU of a bay that is aborted, by its phase: COOL_WAIT ends, FILL, SETTLE and MEASURE close the fill valve and vent, a
vent runs on (R141). -/
def State.abortedLtu (s : State) (b : Bay) : Ltu :=
  match s.cavityOf b with
  | none => (s.bay b).ltu
  | some c =>
    match (s.bay b).ltu.phase with
    | .idle => (s.bay b).ltu
    | .done => (s.bay b).ltu
    | .coolWait => { (s.bay b).ltu with phase := .idle, cavityIndex := none, offered := true }
    | .vent => { (s.bay b).ltu with offered := true }
    | .fill | .settle | .measure =>
      { (s.bay b).ltu with
        phase := .vent, phaseTimer := 0, offered := true
        fill := (s.bay b).ltu.fill &&& ~~~ pairBit c.pair, vent := (s.bay b).ltu.vent ||| pairBit c.pair }

/-- The three conditions of R13 hold as soon as the bay is aborted. -/
def State.restsAtOnce (s : State) (b : Bay) : Prop :=
  (s.bay b).spu.standstill = true ∧ (s.abortedLtu b).fill = 0 ∧ (s.abortedLtu b).vent = 0
    ∧ (s.abortedLtu b).phase ≠ .vent

/-- The abort cause in the bay, the bay without a sub-phase and stopping time 0, and the flag of a fault latched
(R10, R11, R12). -/
def BayCtl.abortedBy (cause : Cause) (c : BayCtl) : BayCtl :=
  { c with
    cause := some cause, subPhase := none, stoppingTime := 0
    alarms := match causeAlarm cause with
      | some a => withAlarm c.alarms a
      | none => c.alarms }

/-- A RUNNING bay has been aborted: it is STOPPING, its RIS running down and its LTU as R141 says, or COMPLETE at once, both at
rest; its Speed Unit runs on; its window, its request and its lanes are gone (R10, R12, R13, R16, R101, R110, R141). Nothing is
said of the RIS's phase timer and of after vent, whose values here are the model's (log entries 35, 36). -/
def Aborted (b : Bay) (cause : Cause) (s t : State) : Prop :=
  (¬ s.restsAtOnce b → t.bay b =
    { ctl := { (s.bay b).ctl.abortedBy cause with state := .stopping }, spu := (s.bay b).spu
      ris := { s.stoppedRis b with phaseTimer := (t.bay b).ris.phaseTimer }
      ltu := { s.abortedLtu b with afterVent := (t.bay b).ltu.afterVent }, window := none })
  ∧ (s.restsAtOnce b → t.bay b =
    { ctl := { (s.bay b).ctl.abortedBy cause with state := .complete, bound := none, last := (s.bay b).ctl.bound }
      spu := (s.bay b).spu, ris := .reset, ltu := .reset, window := none })
  ∧ (∀ x ∈ t.oae.queue, x.bay ≠ b) ∧ ∀ (l : LaneIx) (u : LaneUse), t.oae.lanes.get l = some u → u.bay ≠ b

/-- Record i, with content r, of a bay that has been aborted: it holds the cause and the entries offered, and it is finalized
as ABORTED where the bay is COMPLETE at once (R30, R32, R33, R34, R35). -/
def AbortRecorded (b : Bay) (cause : Cause) (i : RecIx) (r : AxleRecord) (s t : State) : Prop :=
  (¬ s.restsAtOnce b →
    t.art.get i = some (({ r with cause := some cause }.withNoise (s.abortNoise b)).withLeak (s.abortLeak b))
      ∧ t.rsp.spool = s.rsp.spool)
  ∧ (s.restsAtOnce b →
    Finalized i (({ r with cause := some cause }.withNoise (s.abortNoise b)).withLeak (s.abortLeak b)) .aborted s t)

/-! ### Speed Unit (R77 to R83) -/

/-- Place k of a ring holds an entry with an edge. -/
def EdgeAt (ring : List (Option TachoEntry)) (k : Nat) (e : TachoEntry) : Prop := ring[k]? = some (some e) ∧ e.edge = true

/-- A Speed Unit, before and after an accepted frame with a sequence number and a tacho entry: the ring moves on by the
distance from its newest place, an edge resets the quiet time and STANDSTILL, the gate gives the speed and the ring's newest
edge the direction (R77, R79, R80, R82). -/
def SpuTook (q : SpuParams) (seq : BitVec 16) (entry : Option TachoEntry) (p p' : Spu) : Prop :=
  p'.newest = some seq ∧ p'.active = p.active ∧ p'.params = p.params
    ∧ (∀ (d k : Nat), (p.newest = none ∧ d = 1) ∨ (∃ n : BitVec 16, p.newest = some n ∧ d = (seq - n).toNat) → 1 ≤ d → k < 64 →
        p'.ring.getD k none = if k = 0 then entry else if k < d then none else p.ring.getD (k - d) none)
    ∧ ((∃ e : TachoEntry, entry = some e ∧ e.edge = true) → p'.quiet = 0 ∧ p'.standstill = false)
    ∧ ((∀ e : TachoEntry, entry = some e → e.edge = false) → p'.quiet = p.quiet ∧ p'.standstill = p.standstill)
    ∧ (∀ (i j : Nat) (new old : TachoEntry), i < j → j < q.gate → EdgeAt p'.ring i new → EdgeAt p'.ring j old →
        (∀ (k : Nat) (e : TachoEntry), k < i → ¬ EdgeAt p'.ring k e) →
        (∀ (k : Nat) (e : TachoEntry), j < k → k < q.gate → ¬ EdgeAt p'.ring k e) →
        p'.speed = if (new.count - old.count).toNat = 0 then p.speed
          else min 65535 ((new.count - old.count).toNat * 3840000000 / (((j - i) * 1000 + new.time - old.time) * q.ppr)))
    ∧ ((∀ (i j : Nat) (new old : TachoEntry), i < j → j < q.gate → EdgeAt p'.ring i new → ¬ EdgeAt p'.ring j old) →
        p'.speed = p.speed)
    ∧ (∀ (i : Nat) (e : TachoEntry), EdgeAt p'.ring i e → (∀ (k : Nat) (x : TachoEntry), k < i → ¬ EdgeAt p'.ring k x) →
        p'.reverse = e.reverse)
    ∧ ((∀ (i : Nat) (e : TachoEntry), ¬ EdgeAt p'.ring i e) → p'.reverse = p.reverse)

/-- The steady counter after a frame: one more up to 400 while the bay is RUNNING and the speed lies within the tolerance of the
commanded speed, 0 otherwise (R83; a clamped speed alike, log entry 46). -/
def steadyAfter (q : SpuParams) (running : Prop) [Decidable running] (cmd : Nat) (p p' : Spu) : Nat :=
  if running ∧ ((p'.speed : Int) - cmd).natAbs ≤ q.tolerance then min 400 (p.steadyCount + 1) else 0

/-! ### Supervision on a frame (R8, R9) -/

/-- The frame updated the bay's STAT value, and CLAMPED or GUARD_CLOSED is clear (R8). -/
def State.fixtureOpen (s : State) (b : Bay) : Prop :=
  (s.roleLatch b .stat).age = 0
    ∧ ¬ ((s.roleLatch b .stat).flags.getLsbD 0 = true ∧ (s.roleLatch b .stat).flags.getLsbD 1 = true)

/-- A resolved role is older than the stale limit (R9). -/
def State.sensorStale (s : State) (b : Bay) : Prop :=
  ∃ p ∈ (s.bay b).ctl.roles, s.mga.params.staleLimit < (s.latch p.2).age

/-- The frame updated the bay's STAT value, and CLAMPED, GUARD_CLOSED and COUPLED are set (R7). -/
def State.fixtureReady (s : State) (b : Bay) : Prop :=
  (s.roleLatch b .stat).age = 0
    ∧ ∀ i : Nat, i < 3 → (s.roleLatch b .stat).flags.getLsbD i = true

/-- The overload counter after a torque reading, and whether the reading raises the fault (R95; log entry 16). -/
def overloadAfter (r : Recipe) (x : Ris) (v : Int) : Nat :=
  if (x.torqueLimit.getD 0) * (100 + r.overloadMargin) / 100 < v.natAbs then min 400 (x.overload + 1) else 0

def Overloads (r : Recipe) (x : Ris) (v : Int) : Prop :=
  x.overload < r.overloadFrames ∧ r.overloadFrames ≤ overloadAfter r x v

/-- HOLD and hold timer after an oil reading below the abort temperature (R93). -/
def heldRis (r : Recipe) (v : Int) (x : Ris) : Ris :=
  if x.hold = true then if v ≤ r.oilWarn - r.hysteresis then { x with hold := false, holdTimer := 0 } else x
  else if r.oilWarn ≤ v then { x with hold := true, holdTimer := 0 } else x

/-- HOLD begins at an oil reading below the abort temperature (R93). -/
def HoldBegins (r : Recipe) (v : Int) (x : Ris) : Prop := x.hold = false ∧ r.oilWarn ≤ v

/-! ### Run-in steps (R88, R90) -/

/-- The RIS in step i of a recipe, entered with no reverse stop before it: its ramp, or SETTLE at the target speed (R88). -/
def Ris.inStep (st : Step) (i : Nat) (x : Ris) : Ris :=
  { x with
    stepIndex := some i, attempts := 0, phaseTimer := 0, budget := if st.kind = .measure then st.retry else 0
    loadMode := some st.loadMode, torqueLimit := some st.torqueLimit, rampFrac := 0
    phase := if x.cmdSpeed = st.target then .settle else .ramp }

/-- The RIS has left step i of a recipe, finished, from standing RIS x: it is in the next step when that is a RUN or MEASURE step
that needs no reverse stop, and after the last step in RUNDOWN while the shaft turns (R88, R92, R100), with phase timer 0 (log
entry 35). -/
def StepLeft (r : Recipe) (i : Nat) (standstill : Bool) (x y : Ris) : Prop :=
  (∀ nx : Step, r.steps[i + 1]? = some nx → nx.kind ≠ .stop →
      (x.cmdSpeed = 0 ∨ ∀ m : LoadMode, x.loadMode = some m → m.isReverse = nx.loadMode.isReverse) →
      y = x.inStep nx (i + 1))
    ∧ (r.steps.length ≤ i + 1 → standstill = false → y = { x with phase := .rundown, rampFrac := 0, phaseTimer := 0 })

/-- The RIS in step i, of any kind, entered with no reverse stop before it: a STOP step ramps to 0, or waits for STANDSTILL at 0
(R88). -/
def Ris.stepEntered (st : Step) (i : Nat) (x : Ris) : Ris :=
  { x.inStep st i with
    phase := if st.kind = .stop then if x.cmdSpeed = 0 then .stopWait else .ramp
      else if x.cmdSpeed = st.target then .settle else .ramp }

/-- A step needs a reverse stop on entry (R88 item 2). -/
def NeedsReverse (st : Step) (x : Ris) : Prop :=
  x.cmdSpeed ≠ 0 ∧ ∃ m : LoadMode, x.loadMode = some m ∧ m.isReverse ≠ st.loadMode.isReverse

/-- A record with n more steps completed (R92). -/
def AxleRecord.withSteps (n : Nat) (x : AxleRecord) : AxleRecord :=
  { x with summary := { x.summary with stepsCompleted := x.summary.stepsCompleted + n } }

/-- An LTU that enters cavity i: in FILL at once where it may go, else in COOL_WAIT (R132, R133). -/
def Ltu.inCavity (c : Cavity) (i : Nat) (go : Bool) (u : Ltu) : Ltu :=
  { u with
    cavityIndex := some i, phaseTimer := 0, attempts := 1, budget := c.retry, offered := false
    p0 := none, t0 := none, p1 := none, t1 := none, decay := none, rate := none
    phase := if go then .fill else .coolWait
    fill := if go then u.fill ||| pairBit c.pair else u.fill
    vent := if go then u.vent &&& ~~~ pairBit c.pair else u.vent }

/-- RUNIN of a bay has ended at STANDSTILL, with n more steps completed and u its LTU: the RIS is in IDLE, drive enable 0, load mode
and torque limit absent; the bay is in LEAK_POST with the LTU in cavity 0, or, at the end of the plan, with its valves closed,
COMPLETE without a new cause, its record finalized and the quality stop tested (R3, R13, R15, R16, R17, R34, R35, R100). -/
def RunInEnded (b : Bay) (r : Recipe) (plan : List SubPhase) (n : Nat) (u : Ltu) (s t : State) : Prop :=
  (∀ (rest : List SubPhase) (c : Cavity), plan = .leakPost :: rest → r.cavities[0]? = some c → 0 < c.coolWaitLimit →
      (t.bay b).ctl = { (s.bay b).ctl with subPhase := some .leakPost }
      ∧ (t.bay b).ris.phase = .idle ∧ (t.bay b).ris.stepIndex = none ∧ (t.bay b).ris.driveEnable = false
      ∧ (t.bay b).ris.loadMode = none ∧ (t.bay b).ris.torqueLimit = none ∧ (t.bay b).ris.hold = false
      ∧ (t.bay b).ltu =
          { u with startPermitted := true }.inCavity c 0 (decide (s.roleReading b c.tempRole ≤ c.maxStartTemp))
      ∧ ∀ (j : RecIx) (x : AxleRecord), s.bindsOpen b j x → t.art.get j = some (x.withSteps n))
  ∧ (plan = [] → u.fill = 0 → u.vent = 0 → u.phase ≠ .vent →
      (t.bay b).ctl.state = .complete ∧ (t.bay b).ctl.subPhase = none ∧ (t.bay b).ctl.cause = (s.bay b).ctl.cause
      ∧ (t.bay b).ris = .reset ∧ (t.bay b).ltu = .reset
      ∧ ∀ (j : RecIx) (x : AxleRecord), s.bindsOpen b j x →
          ∃ v : Verdict, Finalized j (x.withSteps n) v s t
            ∧ QualityJudged s.mga.params.qualityStopLimit v (s.bay b).ctl (t.bay b).ctl
            ∧ ∀ y : Recipe, (s.slot x.slot).recipe = some y → VerdictIs y (x.withSteps n) v)

/-- The RIS x of a bay at STANDSTILL and commanded speed 0 enters step k, with n steps completed just before: a STOP step is
finished on entry, so the first step of another kind is entered, and without one RUNIN ends (R88, R92, R100). -/
def EntersAtRest (b : Bay) (r : Recipe) (k n : Nat) (plan : List SubPhase) (u : Ltu) (x : Ris) (s t : State) : Prop :=
  ∀ m : Nat, (∀ (j : Nat) (y : Step), k ≤ j → j < k + m → r.steps[j]? = some y → y.kind = .stop) →
    (∀ nx : Step, r.steps[k + m]? = some nx → nx.kind ≠ .stop →
      (t.bay b).ctl = { (s.bay b).ctl with subPhase := some .runin } ∧ (t.bay b).ltu = u
      ∧ (t.bay b).ris = x.inStep nx (k + m)
      ∧ ∀ (j : RecIx) (y : AxleRecord), s.bindsOpen b j y → t.art.get j = some (y.withSteps (n + m)))
    ∧ (r.steps.length = k + m → RunInEnded b r plan (n + m) u s t)

/-! ### Measurement windows (R107 to R129) -/

/-- The line step of an order at a speed: the shaft phase step, rounded, times the order in 1/256 (R119, R120). -/
def lineStepAt (speed order : Nat) : Nat := (speed * 2 ^ 32 + 15360000) / 30720000 * order / 256

/-- A line is excluded from the block in progress after a frame with line step d (R112, R120). -/
def excludedAfter (w : Window) (l : LineAcc) (d : Nat) : Bool := (w.block.isSome && l.excluded) || decide (2 ^ 31 ≤ d)

/-- The sums of a lane and line after the eight samples of a frame; a new block begins at 0 (R112, R122). -/
def sumAfter (w : Window) (table : BitVec 32 → Int) (before : Int) (xs : List Int) (l : LineAcc) (d : Nat) : Int :=
  (if w.block.isSome then before else 0)
    + ((List.range 8).map fun j => xs.getD j 0 * table (l.phase + BitVec.ofNat 32 (j * d))).sum

/-- A window before and after a frame that enters its block: sums, phases and flags of every lane and line, and with the N/8-th
frame the block completed: peaks raised, lines included, one more valid block (R112, R114, R120, R122, R125, R127). -/
def FrameEntered (r : Recipe) (speed : Nat) (samples : LaneRole → List Int) (clipped : Prop) (w w' : Window) : Prop :=
  w'.step = w.step ∧ w'.blockExp = w.blockExp ∧ w'.timer = w.timer
    ∧ (w'.ambClipped = true ↔ w.ambClipped = true ∨ clipped)
    ∧ ∃ done : Prop, (done ↔ w.block.getD 0 + 1 = 2 ^ w.blockExp / 8)
      ∧ (done → w'.block = none ∧ w'.valid = w.valid + 1)
      ∧ (¬ done → w'.block = some (w.block.getD 0 + 1) ∧ w'.valid = w.valid)
      ∧ ∀ (k : Nat) (l : LineAcc) (ln : OrderLine) (d : Nat), w.lines[k]? = some l → r.lines[k]? = some ln →
          d = lineStepAt speed ln.order →
          ∃ l' : LineAcc, w'.lines[k]? = some l' ∧ l'.phase = l.phase + BitVec.ofNat 32 (8 * d)
            ∧ (done → l'.excluded = false ∧ l'.included = (l.included || !excludedAfter w l d))
            ∧ (¬ done → l'.excluded = excludedAfter w l d ∧ l'.included = l.included)
            ∧ ∀ (i : Nat) (a : LaneAcc) (y : LaneSum) (ip qd : Int), w.lanes[i]? = some a → a.sums[k]? = some y →
                ip = sumAfter w cosAt y.inPhase (samples a.role) l d → qd = sumAfter w sinAt y.quad (samples a.role) l d →
                ∃ (a' : LaneAcc) (y' : LaneSum), w'.lanes[i]? = some a' ∧ a'.role = a.role ∧ a'.sums[k]? = some y'
                  ∧ (¬ done → y' = { inPhase := ip, quad := qd, peak := y.peak })
                  ∧ (done → y' =
                      { inPhase := 0, quad := 0
                        peak := if excludedAfter w l d = true then y.peak
                          else max y.peak (8 * Nat.sqrt (ip.natAbs ^ 2 + qd.natAbs ^ 2) / (2 ^ w.blockExp * 32767)) })

/-- A window before and after its block in progress is dropped: sums and excluded flags go, phases, peaks, included flags and
valid blocks stay (R113, R115, R126). -/
def BlockDropped (w w' : Window) : Prop :=
  w' = { w with
    block := none
    lines := w.lines.map fun l => { l with excluded := false }
    lanes := w.lanes.map fun a => { a with sums := a.sums.map fun y => { y with inPhase := 0, quad := 0 } } }

/-- Every bound lane's channel was updated by the frame, Steady is true, and no sample of a VIB lane is clipped (R113). -/
def State.blockValid (s : State) (b : Bay) (w : Window) : Prop :=
  (s.bay b).spu.steady = true
    ∧ ∀ a ∈ w.lanes, (s.roleLatch b (laneChannelRole a.role)).age = 0
        ∧ (a.role ≠ .ambient → ∀ x ∈ (s.roleLatch b (laneChannelRole a.role)).samples, x ≠ -32768 ∧ x ≠ 32767)

/-- A sample of the window's ambient lane is clipped (R64, R114). -/
def State.ambientClips (s : State) (b : Bay) (w : Window) : Prop :=
  ∃ a ∈ w.lanes, a.role = .ambient ∧ ∃ x ∈ (s.roleLatch b .ambientMic).samples, x = -32768 ∨ x = 32767

/-- The window peak of a line in a lane of the window (R125). -/
def Window.peakOf (w : Window) (role : LaneRole) (k : Nat) : Option Nat :=
  (w.lanes.find? fun a => a.role == role).map fun a => ((a.sums[k]?).map (·.peak)).getD 0

/-- The line result of line k at the close of a window: the larger VIB peak, A where the two are equal, its limit, and the line
state (R29, R128, R129). -/
def LineJudged (r : Recipe) (w : Window) (k : Nat) (x : LineResult) : Prop :=
  x.limit = r.limit w.step.measureIndex k ∧ x.ambient = w.peakOf .ambient k
    ∧ (w.step.vibSet = .a → x.lane = .a ∧ x.peak = (w.peakOf .vibA k).getD 0)
    ∧ (w.step.vibSet = .b → x.lane = .b ∧ x.peak = (w.peakOf .vibB k).getD 0)
    ∧ (w.step.vibSet = .ab →
        x.peak = max ((w.peakOf .vibA k).getD 0) ((w.peakOf .vibB k).getD 0)
        ∧ (x.lane = .b ↔ (w.peakOf .vibA k).getD 0 < (w.peakOf .vibB k).getD 0))
    ∧ (x.state = .skipped ↔ x.limit = 0 ∨ ((w.lines[k]?).map (·.included)).getD false = false)
    ∧ (x.state ≠ .skipped →
        (x.state = .pass ↔ x.peak ≤ x.limit)
        ∧ (x.state = .masked ↔ x.limit < x.peak
            ∧ ∃ p : Nat, x.ambient = some p ∧ (x.limit * r.ambientRatio ≤ p * 256 ∨ w.ambClipped = true)))

/-- The line results of a closing window, one for each line of the recipe. -/
def LinesJudged (r : Recipe) (w : Window) (ls : List LineResult) : Prop :=
  ls.length = r.lines.length ∧ ∀ (k : Nat) (x : LineResult), ls[k]? = some x → LineJudged r w k x

/-- The noise entry of the step in progress with its final result (R28, R98). -/
def State.noiseEntry (s : State) (b : Bay) (i : Nat) (st : Step) (x : NoiseResult) (why : Option NomeasReason)
    (ambient : Option Bool) (ls : List LineResult) : NoiseEntry :=
  { stepIndex := i, measureIndex := st.measureIndex, loadMode := st.loadMode, target := st.target,
    attempts := (s.bay b).ris.attempts, result := x, reason := why, ambient := ambient, lines := ls }

/-- The roles of the lanes a MEASURE step needs, in their order (R108). -/
def lanesFor (r : Recipe) (st : Step) : List LaneRole :=
  (if st.vibSet = .a ∨ st.vibSet = .ab then [.vibA] else []) ++ (if st.vibSet = .b ∨ st.vibSet = .ab then [.vibB] else [])
    ++ if st.ambient = true ∧ r.ambientRatio ≠ 0 then [.ambient] else []

/-- The lanes that are FREE once a bay's lanes are freed, in their order. -/
def State.lanesWithout (s : State) (b : Bay) : List LaneIx :=
  (List.finRange 8).filter fun l => match s.oae.lanes.get l with
    | none => true
    | some u => u.bay == b

/-- The FREE lanes, in their order. -/
def State.lanesFree (s : State) : List LaneIx := (List.finRange 8).filter fun l => (s.oae.lanes.get l).isNone

/-- A queued request does not reach the lane wait limit of its bay's recipe at the next tick (R109). -/
def State.staysQueued (s : State) (q : LaneRequest) : Bool :=
  match s.recipeOf q.bay with
  | some r => decide (q.wait + 1 < r.laneWaitLimit)
  | none => true

/-- A grant of n lanes out of a list of FREE ones is the only one: the request that becomes the head does not fit what is left
(R107). -/
def OnlyGrant (n : Nat) (free : List LaneIx) (rest : List LaneRequest) : Prop :=
  ∀ (h : LaneRequest) (more : List LaneRequest), rest = h :: more → free.length < n + h.need

/-- A request has been granted over a list of FREE lanes: the lowest of them are bound to its bay, one for each role, its window
is open and its RIS in MEASURE (R107, R108, R111). -/
def Granted (q : LaneRequest) (r : Recipe) (st : Step) (free : List LaneIx) (s t : State) : Prop :=
  (free.take (lanesFor r st).length).map (fun l => t.oae.lanes.get l)
      = (lanesFor r st).map (fun x => some { bay := q.bay, role := x })
    ∧ (t.bay q.bay).window = some
        { step := st, blockExp := r.blockExp, timer := 0, valid := 0, block := none, ambClipped := false
          lines := List.replicate r.lines.length { phase := 0, excluded := false, included := false }
          lanes := (lanesFor r st).map fun x =>
            { role := x, sums := List.replicate r.lines.length { inPhase := 0, quad := 0, peak := 0 } } }
    ∧ (t.bay q.bay).ris = { (s.bay q.bay).ris with phase := .measure }
    ∧ ∀ x ∈ t.oae.queue, x.bay ≠ q.bay

/-! ### A tick on which nothing expires -/

/-- The RIS ramps: target and rate in force (R89, R90, R100, R101). -/
def Ramps (r : Recipe) (st : Step) (x : Ris) (target rate : Nat) : Prop :=
  (x.phase = .ramp ∧ target = (if st.kind = .stop then 0 else st.target) ∧ rate = st.rampRate)
    ∨ ((x.phase = .reverseStop ∨ x.phase = .rundown) ∧ x.cmdSpeed ≠ 0 ∧ target = 0 ∧ rate = r.stopRamp)

/-- The commanded speed after a ramp tick (R89). -/
def rampedSpeed (r : Recipe) (target rate : Nat) (x : Ris) : Nat :=
  min r.maxSpeed (if x.cmdSpeed ≤ target then min target (x.cmdSpeed + (x.rampFrac + 16 * rate) / 1000)
    else max target (x.cmdSpeed - (x.rampFrac + 16 * rate) / 1000))

/-- The limit toward which the RIS's phase timer runs: the settle timeout in SETTLE and in the waits for STANDSTILL of a RUNNING
bay, also in HOLD; the dwells not in HOLD (R91, R92, R94, R99). -/
def RisTimed (running : Prop) (r : Recipe) (st : Step) (x : Ris) (limit : Nat) : Prop :=
  (running ∧ (x.phase = .settle ∨ (x.cmdSpeed = 0 ∧ (x.phase = .reverseStop ∨ x.phase = .stopWait ∨ x.phase = .rundown)))
      ∧ limit = r.settleTimeout)
    ∨ (x.phase = .dwell ∧ x.hold = false ∧ limit = st.dwell)
    ∨ (x.phase = .rerun ∧ x.hold = false ∧ limit = st.rerunDwell)

/-- The time limit of the LTU's phase (R132 to R138). -/
def LtuTimed (c : Cavity) (u : Ltu) (limit : Nat) : Prop :=
  (u.phase = .coolWait ∧ limit = c.coolWaitLimit) ∨ (u.phase = .fill ∧ limit = c.fillTimeout)
    ∨ (u.phase = .settle ∧ limit = c.settleTime) ∨ (u.phase = .measure ∧ limit = c.measureTime)
    ∨ (u.phase = .vent ∧ limit = c.ventTime)

/-- No timer of the bay reaches its limit at the next tick, and no sub-phase or stop has ended; a ramp may reach its target, where
no wait for STANDSTILL that it begins is over at once. -/
def QuietBay (s : State) (b : Bay) : Prop :=
  (∀ q : SpuParams, (s.bay b).spu.active = true → (s.bay b).spu.params = some q → (s.bay b).spu.standstill = false →
      min 65535 ((s.bay b).spu.quiet + 1) < q.standstillTime)
    ∧ (∀ r : Recipe, s.recipeOf b = some r → (s.bay b).ris.hold = true → (s.bay b).ris.holdTimer + 1 < r.maxHold)
    ∧ (∀ (r : Recipe) (st : Step) (n rate : Nat), s.recipeOf b = some r → s.stepOf b = some st →
        (Ramps r st (s.bay b).ris n rate → (s.bay b).ris.hold = false → rampedSpeed r n rate (s.bay b).ris = n →
          ((s.bay b).ris.phase = .ramp ∧ st.kind ≠ .stop) ∨ (s.bay b).spu.standstill = false)
        ∧ (RisTimed ((s.bay b).ctl.state = .running) r st (s.bay b).ris n → (s.bay b).ris.phaseTimer + 1 < n))
    ∧ (∀ w : Window, (s.bay b).window = some w → w.timer + 1 < w.step.windowLimit)
    ∧ (∀ (c : Cavity) (n : Nat), s.cavityOf b = some c → LtuTimed c (s.bay b).ltu n → (s.bay b).ltu.phaseTimer + 1 < n)
    ∧ (s.inRunin b = true → (s.bay b).ris.phase ≠ .idle) ∧ (s.inLeak b = true → (s.bay b).ltu.phase ≠ .done)
    ∧ ((s.bay b).ctl.state = .stopping → (s.bay b).ctl.stoppingTime + 1 < s.mga.params.stopTimeout
        ∧ ¬ ((s.bay b).spu.standstill = true ∧ (s.bay b).ltu.fill = 0 ∧ (s.bay b).ltu.vent = 0
          ∧ (s.bay b).ltu.phase ≠ .vent))

/-- Nothing expires at the next tick. -/
def QuietTick (s : State) : Prop :=
  (s.lfe.link = .up → s.lfe.sampleQuiet + 1 < s.mga.params.linkLossTimeout
      ∧ s.lfe.outputQuiet + 1 < s.mga.params.linkLossTimeout)
    ∧ (∀ q ∈ s.oae.queue, ∀ r : Recipe, s.recipeOf q.bay = some r → q.wait + 1 < r.laneWaitLimit)
    ∧ ∀ b : Bay, QuietBay s b

/-- What such a tick makes of a bay: the ramp or the phase timer, hold timer, window timer, LTU timer, stopping time and quiet
time go on; a ramp that reaches its target ends, in SETTLE, in STOP_WAIT, or in the wait for STANDSTILL of its own phase, with
ramp fraction and phase timer 0; a changed commanded speed sets the steady counter to 0 (R14, R81, R84, R89, R91, R94, R111, R132). -/
def BayTicked (s t : State) (b : Bay) : Prop :=
  (t.bay b).ctl = { (s.bay b).ctl with
      stoppingTime := (s.bay b).ctl.stoppingTime + if (s.bay b).ctl.state = .stopping then 1 else 0 }
    ∧ (t.bay b).spu = { (s.bay b).spu with
        quiet := if (s.bay b).spu.active = true then min 65535 ((s.bay b).spu.quiet + 1) else (s.bay b).spu.quiet
        steadyCount :=
          if (t.bay b).ris.cmdSpeed ≠ (s.bay b).ris.cmdSpeed then 0 else (s.bay b).spu.steadyCount }
    ∧ (t.bay b).window = (s.bay b).window.map (fun w => { w with timer := w.timer + 1 })
    ∧ (t.bay b).ris = { (s.bay b).ris with
        holdTimer := (s.bay b).ris.holdTimer + if (s.bay b).ris.hold = true then 1 else 0
        cmdSpeed := (t.bay b).ris.cmdSpeed, rampFrac := (t.bay b).ris.rampFrac, phaseTimer := (t.bay b).ris.phaseTimer
        phase := (t.bay b).ris.phase }
    ∧ (∀ (r : Recipe) (st : Step), s.recipeOf b = some r → s.stepOf b = some st →
        (∀ target rate : Nat, Ramps r st (s.bay b).ris target rate → (s.bay b).ris.hold = false →
          (t.bay b).ris.cmdSpeed = rampedSpeed r target rate (s.bay b).ris
          ∧ (rampedSpeed r target rate (s.bay b).ris ≠ target →
            (t.bay b).ris.phase = (s.bay b).ris.phase
            ∧ (t.bay b).ris.rampFrac = ((s.bay b).ris.rampFrac + 16 * rate) % 1000
            ∧ (t.bay b).ris.phaseTimer = (s.bay b).ris.phaseTimer)
          ∧ (rampedSpeed r target rate (s.bay b).ris = target →
            (t.bay b).ris.phase = (if (s.bay b).ris.phase ≠ .ramp then (s.bay b).ris.phase
              else if st.kind = .stop then .stopWait else .settle)
            ∧ (t.bay b).ris.rampFrac = 0 ∧ (t.bay b).ris.phaseTimer = 0))
        ∧ (((∀ target rate : Nat, ¬ Ramps r st (s.bay b).ris target rate) ∨ (s.bay b).ris.hold = true) →
          (t.bay b).ris.phase = (s.bay b).ris.phase
          ∧ (t.bay b).ris.cmdSpeed = (s.bay b).ris.cmdSpeed ∧ (t.bay b).ris.rampFrac = (s.bay b).ris.rampFrac)
        ∧ (∀ n : Nat, RisTimed ((s.bay b).ctl.state = .running) r st (s.bay b).ris n →
          (t.bay b).ris.phaseTimer = (s.bay b).ris.phaseTimer + 1))
    ∧ (t.bay b).ltu = { (s.bay b).ltu with phaseTimer := (t.bay b).ltu.phaseTimer }
    ∧ (∀ (c : Cavity) (n : Nat), s.cavityOf b = some c → LtuTimed c (s.bay b).ltu n →
        (t.bay b).ltu.phaseTimer = (s.bay b).ltu.phaseTimer + 1)

/-- The run-in summary of a bay's record after such a tick: drive time with drive enable 1, hold time in HOLD
(R94, R102; drive time runs on a LOST link too, log entry 33). -/
def RecordTicked (s t : State) (b : Bay) : Prop :=
  ∀ (i : RecIx) (x : AxleRecord), s.bindsOpen b i x → (∀ c : Bay, c ≠ b → (s.bay c).ctl.bound ≠ some i) →
    t.art.get i = some
      { x with
        summary :=
          { x.summary with
            driveTime := if (s.bay b).ris.driveEnable = true then min (x.summary.driveTime + 1) (2 ^ 32 - 1)
              else x.summary.driveTime
            holdTime := if (s.bay b).ris.hold = true then min (x.summary.holdTime + 1) (2 ^ 32 - 1)
              else x.summary.holdTime } }

/-! ### Expiry -/

/-- The block has not yet taken the tick in progress. -/
def State.awaits (s : State) (u : TickUnit) : Prop := u ∉ s.tbs.served

/-- The state in which a block takes its share of a tick ahead of the rest: the cell time raised if it is the first, and the
block noted as served (log entry 3). -/
def State.serving (s : State) (u : TickUnit) : State :=
  { s with
    tbs :=
      { cellTime := if s.tbs.served = [] then s.tbs.cellTime + 1 else s.tbs.cellTime
        served := s.tbs.served ++ [u] } }

/-- The bay is STOPPING, or COMPLETE because R13 held at once. -/
def State.stopped (s : State) (b : Bay) : Prop :=
  (s.bay b).ctl.state = .stopping ∨ (s.bay b).ctl.state = .complete

/-- The bay's open test has been aborted: the flag and the cause of a fault are set and the bay has left RUNNING. -/
def State.abortedBy (s : State) (b : Bay) (cause : Cause) (flag : BayAlarm) : Prop :=
  hasAlarm (s.bay b).ctl.alarms flag = true ∧ (s.bay b).ctl.cause = some cause ∧ s.stopped b
    ∧ (s.bay b).ctl.subPhase = none

/-- What the work of one bay's units leaves as it was: the link, the ports, the channel extractor, the agent, the spooler's
emission, the snapshot, the recipe slots but for their pin counts, and controller, Speed Unit and Leak Test Unit of the
other bays. -/
def KeptBut (b : Bay) (s t : State) : Prop :=
  t.pending = s.pending ∧ t.lfe = s.lfe ∧ t.ports = s.ports ∧ t.chx = s.chx ∧ t.mga = s.mga
    ∧ t.rsp.emission = s.rsp.emission ∧ t.rsp.reportSeq = s.rsp.reportSeq ∧ t.stc.snapshot = s.stc.snapshot
    ∧ (∀ k : SlotIx, { t.rbk.get k with pins := 0 } = { s.rbk.get k with pins := 0 })
    ∧ ∀ c : Bay, c ≠ b →
        (t.bay c).ctl = (s.bay c).ctl ∧ (t.bay c).spu = (s.bay c).spu ∧ (t.bay c).ltu = (s.bay c).ltu

/-- The alarm flags of a word are all in another. -/
def alarmsWithin (v w : BitVec 11) : Prop := v &&& w = v

/-- The commands that may clear a bay alarm flag: ACK_ALARMS, and the resets (R2, R21). -/
def ClearsAlarms (c : Instr) : Prop := c = .ackAlarms ∨ c = .resetApply ∨ ∃ strap, c = .powerOn strap

/-- The commands that may lower a counter (R154). -/
def LowersCounters (c : Instr) : Prop :=
  c = .counterSnapshot ∨ c = .counterSetup ∨ c = .resetApply ∨ ∃ strap, c = .powerOn strap

/-- The commands that may free a record that is not OPEN (R24). -/
def FreesRecords (c : Instr) : Prop := c = .releaseRecord ∨ c = .resetApply ∨ ∃ strap, c = .powerOn strap

end Sys2Proof.Machine
end

