-- ==== Sys2Proof/Certificates/Slice0/Obligations.lean ====
section
/-! DEFINITION. The statements about the part. A statement that rests on a choice of the model names the log entry; the
others follow the rules they name. -/

open Sys2Proof Sys2Proof.Machine

/-! ### The machine -/

/-- A step takes the command at the front of the queue and executes it on the state with the rest of the queue; on an
empty queue nothing happens (the queue is the model's, log entry 5). -/
def Obligations.StepRunsFrontCommand : Prop :=
  (∀ (c : Instr) (rest : List Instr) (s : State), s.pending = c :: rest →
      step s = exec c { s with pending := rest })
    ∧ ∀ s : State, s.pending = [] → step s = .next s

/-- Every command in every state has a next state, and no command touches the queue of commands: faults and refusals of
the spec are flags, causes and status codes of the state (R10, R164). -/
def Obligations.EveryCommandCompletes : Prop :=
  ∀ (c : Instr) (s : State), ∃ t : State, exec c s = .next t ∧ t.pending = s.pending

/-- The state after power-on has every invariant stated below. -/
def Obligations.ResetMeetsInvariants : Prop :=
  ValvesExclusive State.reset ∧ RangesHold State.reset ∧ SpoolMatches State.reset
    ∧ PinsMatch State.reset ∧ BindingsMatch State.reset ∧ RunInAgrees State.reset ∧ LanesAgree State.reset
    ∧ RecipesChecked State.reset ∧ PinnedValid State.reset ∧ BoundToSlot State.reset ∧ EmissionMatches State.reset
    ∧ FillsSafely State.reset

/-! ### Invariants that every step keeps -/

/-- Fill and vent bit of a valve pair are never 1 together; and a fill bit is 1 only in FILL of a leak sub-phase, with drive
enable 0, a leak test unit working on a cavity of its recipe only there or venting in STOPPING (R139, R141). -/
def Obligations.StepKeepsValvesExclusive : Prop :=
  (∀ s t : State, ValvesExclusive s → step s = .next t → ValvesExclusive t)
    ∧ ∀ s t : State, SpoolMatches s → PinsMatch s → PinnedValid s → BindingsMatch s → BoundToSlot s → RunInAgrees s →
        LanesAgree s → FillsSafely s → step s = .next t → FillsSafely t

/-- The fail counts, latch ages, speed-unit values, counters, output places and the agent's two queues stay in their ranges
(R17, R67, R71, R75, R154, R163). -/
def Obligations.StepKeepsRanges : Prop :=
  ∀ s t : State, RangesHold s → step s = .next t → RangesHold t

/-- The spool queue holds exactly the QUEUED records, each once, and a slot's pin count is the number of OPEN records naming
it; a pinned slot is VALID; an emission in progress is of the record at the head of the spool, in the part count of that record,
with a part sent and a part to be sent (R24, R56, R145, R148). -/
def Obligations.StepKeepsRecordTable : Prop :=
  ∀ s t : State, step s = .next t →
    (SpoolMatches s → PinsMatch s → SpoolMatches t ∧ PinsMatch t)
    ∧ (PinnedValid s → PinnedValid t)
    ∧ (SpoolMatches s → EmissionMatches s → EmissionMatches t)

/-- Each bay in READY, RUNNING or STOPPING is bound to one OPEN record, and no other bay and no other OPEN record is; the bound
record names the bay and its recipe slot (R5, R6). -/
def Obligations.StepKeepsBindings : Prop :=
  ∀ s t : State, SpoolMatches s → BindingsMatch s → step s = .next t →
    BindingsMatch t ∧ (BoundToSlot s → BoundToSlot t)

/-- Requests are only of bays in MEASURE_WAIT, one each; lanes and windows only of bays in MEASURE; and a RIS is at work
only in RUNIN and in the run-down of STOPPING (R87, R106, R108). -/
def Obligations.StepKeepsLanes : Prop :=
  ∀ s t : State, RunInAgrees s → LanesAgree s → step s = .next t → RunInAgrees t ∧ LanesAgree t

/-- A VALID slot holds a recipe with every field in its range, steps, lines and cavities in number and in agreement as the five
stages of validation require, and no other slot holds one (R41, R45, R46, R48, R49, R50, R51). -/
def Obligations.StepKeepsRecipes : Prop :=
  ∀ s t : State, RecipesChecked s → step s = .next t → RecipesChecked t

/-! ### Rules over all commands -/

/-- An alarm flag, once latched, stays latched until ACK_ALARMS, a reset or power-on (R2, R20, R21). -/
def Obligations.AlarmsStayLatched : Prop :=
  ∀ (c : Instr) (s t : State), exec c s = .next t → ¬ ClearsAlarms c →
    ∀ b : Bay, alarmsWithin (s.bay b).ctl.alarms (t.bay b).ctl.alarms

/-- A counter in its range never falls but by COUNTER_SNAPSHOT, COUNTER_SETUP, a reset or power-on (R154). -/
def Obligations.CountersNeverFall : Prop :=
  ∀ (c : Instr) (s t : State), CountersBounded s → exec c s = .next t → ¬ LowersCounters c →
    ∀ i : Fin 8, (s.stc.counters.get i).value ≤ (t.stc.counters.get i).value

/-- "From finalization on, the content of a record is frozen": a record that is not OPEN keeps its content, and its state
goes from QUEUED to SENT at most, until it is released or the part is reset (R24, R26). -/
def Obligations.RecordsFrozen : Prop :=
  ∀ (c : Instr) (s t : State), exec c s = .next t → ¬ FreesRecords c →
    ∀ (i : RecIx) (r : AxleRecord), s.art.get i = some r → r.state ≠ .opened →
      t.art.get i = some r ∨ (r.state = .queued ∧ t.art.get i = some { r with state := .sent })

/-- A pinned VALID slot is never loaded, committed or erased: but for its pin count it stays as it is under every command
but power-on (R56). -/
def Obligations.PinnedSlotKept : Prop :=
  ∀ (c : Instr) (s t : State), exec c s = .next t → (∀ strap, c ≠ .powerOn strap) →
    ∀ k : SlotIx, 0 < (s.rbk.get k).pins → (s.rbk.get k).state = .valid →
      { t.rbk.get k with pins := 0 } = { s.rbk.get k with pins := 0 }

/-- Only the first cause of an abort is kept: a bay that is STOPPING or COMPLETE, and stays so, keeps its abort cause
(R10). -/
def Obligations.FirstCauseKept : Prop :=
  ∀ (c : Instr) (s t : State), exec c s = .next t →
    ∀ b : Bay, s.stopped b → t.stopped b → (t.bay b).ctl.cause = (s.bay b).ctl.cause

/-! ### Power-on, reset, tick -/

/-- Power-on: every element takes its power-on value, the node address comes from the straps (R169 and the tables it
names). What the ports have sent and the queue of commands are the model's own and stay (log entries 5 and 8). -/
def Obligations.PowerOnValues : Prop :=
  ∀ (strap : BitVec 6) (s : State), ∃ t : State, exec (.powerOn strap) s = .next t
    ∧ t.tbs.cellTime = 0
    ∧ t.lfe = { link := .down, lastSeq := none, refusedRun := 0, sampleSeen := false, outputSeen := false,
                sampleQuiet := 0, outputQuiet := 0, nodeAddr := strap, opportunity := none }
    ∧ t.mga = { requests := [], responses := [], rspSeq := 0,
                params := { linkLossTimeout := 10, staleLimit := 8, qualityStopLimit := 0, demandThreshold := 4,
                            stopTimeout := 30000, statusOffset := 0 },
                alarms := 0, resetTaken := false, resetDue := false }
    ∧ (∀ b : Bay, t.bay b = .reset ∧ t.chx.outputMap.get b = { enabled := false, offset := 0 })
    ∧ t.chx.partitions = 0
    ∧ (∀ e : EntryIx, t.chx.entries.get e = .cleared ∧ t.latch e = { value := .zero, age := 255 })
    ∧ (∀ k : SlotIx, t.slot k = .reset) ∧ (∀ i : RecIx, t.art.get i = none)
    ∧ t.rsp = { spool := [], emission := none, reportSeq := 0 }
    ∧ t.oae.queue = [] ∧ (∀ l : LaneIx, t.oae.lanes.get l = none)
    ∧ (∀ i : Fin 8, t.stc.counters.get i = .reset) ∧ t.stc.snapshot = { values := List.replicate 8 0, time := 0 }
    ∧ t.pending = s.pending ∧ t.ports = s.ports

/-- The reset of RESET_PART, once its response has been inserted (R170 and the tables it names); until then RESET_APPLY
does nothing (log entry 7). -/
def Obligations.ResetPartValues : Prop :=
  ∀ s : State,
    (s.mga.resetDue = false → exec .resetApply s = .next s)
    ∧ (s.mga.resetDue = true → ∃ t : State, exec .resetApply s = .next t
        ∧ t.tbs.cellTime = 0
        ∧ t.lfe = { link := .down, lastSeq := none, refusedRun := 0, sampleSeen := false, outputSeen := false,
                    sampleQuiet := 0, outputQuiet := 0, nodeAddr := s.lfe.nodeAddr, opportunity := none }
        ∧ t.mga = { requests := [], responses := [], rspSeq := 0, params := s.mga.params, alarms := 0,
                    resetTaken := false, resetDue := false }
        ∧ (∀ b : Bay, t.bay b = .reset)
        ∧ t.chx.entries = s.chx.entries ∧ t.chx.partitions = s.chx.partitions
        ∧ t.chx.outputMap = s.chx.outputMap
        ∧ (∀ e : EntryIx, t.latch e = { s.latch e with age := 255 })
        ∧ (∀ k : SlotIx, (s.slot k).state = .loading → t.slot k = .reset)
        ∧ (∀ k : SlotIx, (s.slot k).state = .valid ∨ (s.slot k).state = .invalid →
            t.slot k = { s.slot k with pins := 0 })
        ∧ (∀ i : RecIx, t.art.get i = none)
        ∧ t.rsp = { spool := [], emission := none, reportSeq := 0 }
        ∧ t.oae.queue = [] ∧ (∀ l : LaneIx, t.oae.lanes.get l = none)
        ∧ (∀ i : Fin 8, t.stc.counters.get i =
            { s.stc.counters.get i with value := 0, saturated := false, alarm := false, above := false })
        ∧ t.stc.snapshot = { values := List.replicate 8 0, time := 0 }
        ∧ t.pending = s.pending ∧ t.ports = s.ports)

/-- A tick of which no block has taken its share yet raises the cell time by 1, wrapping, and both quiet times of an UP link that
does not time out; it leaves channels, ports, agent, emission, snapshot and, but for pins, recipe slots as they are (R161, R169;
the one command for the rest of a tick is the model's, log entry 3). When nothing expires at it, in whatever order the blocks take
it: ramps go on by R89, and one that reaches its target ends in SETTLE or STOP_WAIT, or begins the wait for STANDSTILL of
REVERSE_STOP or RUNDOWN, with ramp fraction and phase timer 0 (R89, R90, R91, R100); the phase, hold, window, leak and stop timers
and the quiet times rise by 1, and so do drive time and hold time of the records and the waits of the lane requests; HOLD_MS is
counted once for each bay in HOLD, and the occupancies are sampled (R14, R81, R94, R102, R109, R111, R153). A changed commanded
speed resets the steady counter (R84, R89). Two clauses rest on the model's readings: a counter in mode COUNT on an occupancy of 0
takes an addition of 0, so that its alarm test is made again (log entry 27), and drive time counts on a LOST link too (log entry
33). -/
def Obligations.TickRaisesCellTime : Prop :=
  ∀ (units : List TickUnit) (bays : List Bay) (s : State), s.tbs.served = [] →
    ∃ t : State, exec (.msTick units bays) s = .next t
      ∧ t.tbs = { cellTime := s.tbs.cellTime + 1, served := [] }
      ∧ (s.lfe.link ≠ .up → t.lfe = s.lfe)
      ∧ (s.lfe.link = .up →
          s.lfe.sampleQuiet + 1 < s.mga.params.linkLossTimeout →
          s.lfe.outputQuiet + 1 < s.mga.params.linkLossTimeout →
          t.lfe = { s.lfe with sampleQuiet := min 100 (s.lfe.sampleQuiet + 1),
                               outputQuiet := min 100 (s.lfe.outputQuiet + 1) })
      ∧ t.chx = s.chx ∧ t.ports = s.ports ∧ t.mga = s.mga ∧ t.rsp.emission = s.rsp.emission
      ∧ t.rsp.reportSeq = s.rsp.reportSeq ∧ t.stc.snapshot = s.stc.snapshot
      ∧ (∀ k : SlotIx, { t.slot k with pins := 0 } = { s.slot k with pins := 0 })
      ∧ (QuietTick s →
          (∀ b : Bay, BayTicked s t b ∧ RecordTicked s t b)
          ∧ t.oae = { s.oae with queue := s.oae.queue.map fun q => { q with wait := q.wait + 1 } }
          ∧ t.rbk = s.rbk ∧ t.rsp = s.rsp
          ∧ ∀ (i : Fin 8) (c : Counter), c = s.stc.counters.get i →
              (c.event = .laneWaiting →
                t.stc.counters.get i = c.sampled ((s.oae.queue.map (·.need)).sum))
              ∧ (c.event = .spoolDepth → t.stc.counters.get i = c.sampled s.rsp.spool.length)
              ∧ (c.event = .holdMs → c.mode = .count → ∀ n : Nat,
                  n = (List.finRange 4).countP (fun b => (s.bay b).ris.hold
                    && (c.baySet == 0 || c.baySet.getLsbD b.val)
                    && ((s.bay b).ctl.slot.isNone || c.slotMatch.isNone || c.slotMatch == (s.bay b).ctl.slot)) →
                  t.stc.counters.get i = if n = 0 then c else c.added n)
              ∧ (c.event ≠ .laneWaiting → c.event ≠ .spoolDepth → c.event ≠ .holdMs → t.stc.counters.get i = c))

/-! ### Frames -/

/-- A good SAMPLE frame that finds no last accepted one, or lies 1 to 16 beyond it, is accepted (R160): the frames between are
counted missing, its channels are extracted from the payload as received, and it leaves port C with the status block of the
state after the blocks have taken it, or, where the payload is too short for it, as received with STATUS_SHORT (R62, R67, R73).
The link takes the frame first (log entry 18): in UP its quiet time is 0, and after an OUTPUT frame in DOWN or LOST it comes UP;
on the return from LOST the rings of the active Speed Units are cleared before the frame (R78, R161; log entry 19). On a link
that stays LOST the frame is only forwarded. The arbiter's choice for the opportunity is made at the forwarding (R147; log
entry 6). The status block shows the state as R74 and R174 lay down. -/
def Obligations.SampleAccepted : Prop :=
  (∀ s : State, StatusShown s (statusBlock s))
    ∧ ∀ (f : Bytes) (tasks : List FrameTask) (s : State), frameKind f = some 1 → frameGood f = true →
      (∀ d : Nat, s.testsSample →
        ((s.lfe.lastSeq = none ∧ d = 1) ∨ ∃ l : BitVec 16, s.lfe.lastSeq = some l ∧ d = (frameSeq f - l).toNat) →
        1 ≤ d → d ≤ 16 →
        ∃ t : State, exec (.sampleFrame f tasks) s = .next t
          ∧ t.lfe = { s.lfe.afterGood true with
                        lastSeq := some (frameSeq f), refusedRun := 0, opportunity := t.arbiterServes }
          ∧ t.chx = (if d = 1 then s.chx else s.chx.missing (d - 1)).extract (framePayload f)
          ∧ (s.mga.params.statusOffset + 56 ≤ frameLen f →
              t.mga = s.mga
              ∧ t.ports = { s.ports with sentC := s.ports.sentC ++
                  [frameWithPayload f (overwrite (framePayload f) s.mga.params.statusOffset (statusBlock t))] })
          ∧ (frameLen f < s.mga.params.statusOffset + 56 →
              t.mga = { s.mga with alarms := s.mga.alarms ||| 0b0100 }
              ∧ t.ports = { s.ports with sentC := s.ports.sentC ++ [f] })
          ∧ t.tbs = s.tbs ∧ t.rsp.emission = s.rsp.emission ∧ t.stc.snapshot = s.stc.snapshot
          ∧ (s.lfe.link = .lost → ∀ b : Bay, (s.bay b).spu.active = true → (s.bay b).spu.params ≠ none →
              (t.bay b).spu.ring = t.tachoEntry b :: List.replicate 63 none
              ∧ (t.bay b).spu.newest = some (frameSeq f)))
      ∧ (¬ s.testsSample → exec (.sampleFrame f tasks) s = .next
          { s with
            lfe := { s.lfe with sampleSeen := true, opportunity := none }
            mga := if frameLen f < s.mga.params.statusOffset + 56 then { s.mga with alarms := s.mga.alarms ||| 0b0100 }
              else s.mga
            ports := { s.ports with sentC := s.ports.sentC ++
              [if frameLen f < s.mga.params.statusOffset + 56 then f
                else frameWithPayload f (overwrite (framePayload f) s.mga.params.statusOffset (statusBlock s))] } })

/-- A good SAMPLE frame whose sequence number is neither the next nor within 16 of the last accepted one latches SEQ_ERROR and
counts one FRAME_ERROR (R160). While fewer than two have been refused in a row it is refused: one frame missing, and it is
forwarded with the status block, or with STATUS_SHORT where the payload is too short (R67, R73; the block shows the flag and the
missing count, log entry 39). After two refused in a row it resynchronizes: the rings of the active Speed Units are cleared and
the frame is accepted (R78). The opportunity is the model's reading of R146 and R147 (log entry 6). -/
def Obligations.SampleRefused : Prop :=
  ∀ (f : Bytes) (tasks : List FrameTask) (l : BitVec 16) (s : State),
    frameKind f = some 1 → frameGood f = true → s.testsSample → s.lfe.lastSeq = some l →
    ((frameSeq f - l).toNat = 0 ∨ 17 ≤ (frameSeq f - l).toNat) →
    ∃ t : State, exec (.sampleFrame f tasks) s = .next t
      ∧ (s.mga.params.statusOffset + 56 ≤ frameLen f →
          t.mga = { s.mga with alarms := s.mga.alarms ||| 0b0010 }
          ∧ t.ports = { s.ports with sentC := s.ports.sentC ++
              [frameWithPayload f (overwrite (framePayload f) s.mga.params.statusOffset (statusBlock t))] })
      ∧ (frameLen f < s.mga.params.statusOffset + 56 →
          t.mga = { s.mga with alarms := s.mga.alarms ||| 0b0110 }
          ∧ t.ports = { s.ports with sentC := s.ports.sentC ++ [f] })
      ∧ (∀ i : Fin 8, (s.stc.counters.get i).event = .frameError → (s.stc.counters.get i).mode = .count →
          (t.stc.counters.get i).value = min ((s.stc.counters.get i).value + 1) (2 ^ 32 - 1))
      ∧ t.tbs = s.tbs
      ∧ (s.lfe.refusedRun < 2 →
          t.lfe = { s.lfe.afterGood true with
                      refusedRun := s.lfe.refusedRun + 1, opportunity := t.arbiterServes }
          ∧ t.chx.entries = s.chx.entries ∧ t.chx.partitions = s.chx.partitions
          ∧ ∀ e : EntryIx, t.latch e = { s.latch e with age := min 255 ((s.latch e).age + 1) })
      ∧ (2 ≤ s.lfe.refusedRun →
          t.lfe = { s.lfe.afterGood true with
                      lastSeq := some (frameSeq f), refusedRun := 0, opportunity := t.arbiterServes }
          ∧ t.chx = s.chx.extract (framePayload f)
          ∧ ∀ b : Bay, (s.bay b).spu.active = true → (s.bay b).spu.params ≠ none →
              (t.bay b).spu.ring = t.tachoEntry b :: List.replicate 63 none
              ∧ (t.bay b).spu.newest = some (frameSeq f))

/-- A whole SAMPLE frame that is bad is forwarded with the complement of its check, is counted missing unless the link is
LOST, and is otherwise not used; it opens an opportunity as a good one does (R146, R147, R159; log entry 6). -/
def Obligations.BadSampleForwarded : Prop :=
  ∀ (f : Bytes) (tasks : List FrameTask) (s : State),
    frameKind f = some 1 → frameGood f = false → frameWhole f = true →
    ∃ t : State, exec (.sampleFrame f tasks) s = .next t
      ∧ t.ports = { s.ports with sentC := s.ports.sentC ++
          [f.take (8 + frameLen f) ++ leBytes 4 (~~~ frameCheck (f.take (8 + frameLen f))).toNat] }
      ∧ (∀ i : Fin 8, (s.stc.counters.get i).event = .frameError → (s.stc.counters.get i).mode = .count →
          (t.stc.counters.get i).value = min ((s.stc.counters.get i).value + 1) (2 ^ 32 - 1))
      ∧ t.mga = s.mga ∧ t.tbs = s.tbs ∧ t.chx.entries = s.chx.entries
      ∧ (s.lfe.link = .lost → t.lfe = { s.lfe with opportunity := none } ∧ t.chx = s.chx ∧ t.bays = s.bays)
      ∧ (s.lfe.link ≠ .lost →
          t.lfe = { s.lfe with lastSeq := s.lfe.lastSeq.map (· + 1),
                               opportunity := t.arbiterServes }
          ∧ ∀ e : EntryIx, t.latch e = { s.latch e with age := min 255 ((s.latch e).age + 1) })

/-- A good OUTPUT frame leaves port F with the command record of every enabled bay whose place fits the payload, drive enable
and fill bits 0 on a LOST link and every field but the state code 0 outside RUNNING and STOPPING; every other byte is as
received, and where no record is written the frame leaves as received (R23, R72, R103, R174). A place that does not fit is
skipped, with OUTPUT_SHORT and one FRAME_ERROR (R72). In UP its quiet time is 0; in DOWN or LOST after a SAMPLE frame the link
comes UP, and on the return from LOST the rings of the active Speed Units are cleared (R78, R161; log entry 19); the frame that
completes that return is itself written without the override, since the link takes it first (log entry 18). A whole OUTPUT
frame that is bad leaves with the complement of its check, with one FRAME_ERROR and nothing else (R159). -/
def Obligations.OutputFrameWritten : Prop :=
  ∀ (f : Bytes) (s : State), frameKind f = some 2 →
    (frameGood f = false → frameWhole f = true → exec (.outputFrame f) s = .next
      { s with
        stc := (s.emit { event := .frameError, bay := none, result := none, slot := none }).stc
        ports := { s.ports with sentF := s.ports.sentF ++
          [f.take (8 + frameLen f) ++ leBytes 4 (~~~ frameCheck (f.take (8 + frameLen f))).toNat] } })
    ∧ (frameGood f = true → PlacesApart s → ∀ short : Bool,
      (short = true ↔ ∃ b : Bay, (s.chx.outputMap.get b).enabled = true
        ∧ frameLen f < (s.chx.outputMap.get b).offset + 12) →
      ∃ p : Bytes,
        exec (.outputFrame f) s = .next
          { s with
            lfe := s.lfe.afterGood false
            bays := if s.lfe.link = .lost ∧ s.lfe.sampleSeen = true then
                s.bays.map fun u =>
                  if u.spu.active = true then
                    { u with spu := { u.spu with ring := List.replicate 64 none, newest := none } }
                  else u
              else s.bays
            mga := if short then { s.mga with alarms := s.mga.alarms ||| 0b1000 } else s.mga
            stc := if short then (s.emit { event := .frameError, bay := none, result := none, slot := none }).stc
              else s.stc
            ports := { s.ports with sentF := s.ports.sentF ++
              [if ∃ b : Bay, (s.chx.outputMap.get b).enabled = true
                  ∧ (s.chx.outputMap.get b).offset + 12 ≤ frameLen f
                then sealFrame (f.take 8 ++ p) else f] } }
        ∧ p.length = frameLen f
        ∧ (∀ b : Bay, (s.chx.outputMap.get b).enabled = true →
            (s.chx.outputMap.get b).offset + 12 ≤ frameLen f →
            (p.drop (s.chx.outputMap.get b).offset).take 12 =
              (if (s.bay b).ctl.state ≠ .running ∧ (s.bay b).ctl.state ≠ .stopping then
                [0, 0, 0, 0, 0, 0, 0, BitVec.ofNat 8 (bayStateCode (s.bay b).ctl.state), 0, 0, 0, 0]
              else (s.bay b).commandBytes (decide ((s.lfe.afterGood false).link = .lost))))
        ∧ ∀ j : Nat, j < frameLen f →
            (∀ b : Bay, (s.chx.outputMap.get b).enabled = true →
              (s.chx.outputMap.get b).offset + 12 ≤ frameLen f →
              j < (s.chx.outputMap.get b).offset ∨ (s.chx.outputMap.get b).offset + 12 ≤ j) →
            p[j]? = (framePayload f)[j]?)

/-- A request to the node joins the tail of the request queue, is dropped with MGMT_DROP when four wait, and is dropped
with one FRAME_ERROR when it is bad; a broadcast IDENTIFY is forwarded as well, another broadcast request only passes, and a bad
one is dropped with one FRAME_ERROR (R159, R162, R163). A good one too short for a command code only passes (log entry 38). -/
def Obligations.RequestReceived : Prop :=
  ∀ (f : Bytes) (s : State), frameKind f = some 3 →
    (s.lfe.nodeAddr ≠ 0 → frameDest f = s.lfe.nodeAddr.toNat → exec (.mgmtReqReceive f) s = .next
      (if frameGood f then
        if s.mga.requests.length < 4 then
          { s with mga := { s.mga with requests :=
              s.mga.requests ++ [{ source := frameSource f, payload := framePayload f }] } }
        else { s with mga := { s.mga with alarms := s.mga.alarms ||| 0b0001 } }
      else s.emit { event := .frameError, bay := none, result := none, slot := none }))
    ∧ (frameDest f = 255 →
      (frameGood f = true → 2 ≤ frameLen f → natAt (framePayload f) 0 2 = 1 → exec (.mgmtReqReceive f) s = .next
        { s with
          ports := { s.ports with sentF := s.ports.sentF ++ [f] }
          mga := if s.mga.requests.length < 4 then
              { s.mga with requests := s.mga.requests ++ [{ source := frameSource f, payload := framePayload f }] }
            else { s.mga with alarms := s.mga.alarms ||| 0b0001 } })
      ∧ (frameGood f = true → (frameLen f < 2 ∨ natAt (framePayload f) 0 2 ≠ 1) →
        exec (.framePassThrough .c f) s = .next { s with ports := { s.ports with sentF := s.ports.sentF ++ [f] } }
        ∧ exec (.mgmtReqReceive f) s = .next s)
      ∧ (frameGood f = false →
        exec (.mgmtReqReceive f) s = .next
          (s.emit { event := .frameError, bay := none, result := none, slot := none })
        ∧ exec (.framePassThrough .c f) s = .next s))

/-- Frames that are not for the part leave by the other port as received, and nothing else changes: on port F all but
SAMPLE; on port C unknown and other kinds, and requests to other nodes (R158, R173; also a bad one of another port's kind, log
entry 37). No opportunity stays open behind a frame that leaves port C (R146; log entry 6). -/
def Obligations.FramesPass : Prop :=
  ∀ (f : Bytes) (s : State),
    (frameKind f ≠ some 1 →
      exec (.framePassThrough .f f) s = .next
        { s with
          ports := { s.ports with sentC := s.ports.sentC ++ [f] }
          lfe := { s.lfe with opportunity := none } })
    ∧ ((frameKind f ≠ some 2 ∧ frameKind f ≠ some 3)
        ∨ (frameKind f = some 3 ∧ frameDest f ≠ 255
            ∧ (s.lfe.nodeAddr = 0 ∨ frameDest f ≠ s.lfe.nodeAddr.toNat)) →
      exec (.framePassThrough .c f) s = .next { s with ports := { s.ports with sentF := s.ports.sentF ++ [f] } })

/-! ### The egress arbiter -/

/-- At an opportunity for which the arbiter has chosen a response, the head response is inserted on port C and leaves its queue,
and the opportunity is over; without one nothing happens, and a report's turn leaves the responses waiting (R147, R163, R172,
R177; the choice made at the forwarding is the model's reading of R146, log entry 6). With the response of a RESET_PART that was
taken the reset is due (R170; log entry 7). -/
def Obligations.ResponseInserted : Prop :=
  ∀ s : State,
    (s.lfe.opportunity ≠ some .response ∨ s.lfe.link = .lost ∨ s.mga.responses = [] →
      exec .responseInsert s = .next s)
    ∧ ∀ (r : MgmtResponse) (rest : List MgmtResponse),
      s.lfe.opportunity = some .response → s.lfe.link ≠ .lost → s.mga.responses = r :: rest →
      exec .responseInsert s = .next
        { s with
          lfe := { s.lfe with opportunity := none }
          ports := { s.ports with sentC := s.ports.sentC ++
            [sealFrame ([4, r.dest, s.lfe.nodeAddr.zeroExtend 8, 0] ++ leBytes 2 s.mga.rspSeq.toNat
              ++ leBytes 2 (8 + r.results.length)
              ++ (leBytes 2 r.code ++ leBytes 2 r.tag ++ [BitVec.ofNat 8 (statusCode r.status), 0]
                ++ leBytes 2 r.results.length ++ r.results))] }
          mga := { s.mga with
            responses := rest
            rspSeq := s.mga.rspSeq + 1
            resetDue := s.mga.resetDue || (r.code == 22 && r.status == .ok) } }

/-- At an opportunity for which the arbiter has chosen a report, the next part of the head report is inserted on port C, and the
opportunity is over; with the last part the record becomes SENT and leaves the spool queue; without one nothing happens (R147,
R148, R172, R180; the choice made at the forwarding is the model's reading of R146, log entry 6). The serialized record, of which
the parts are shares, is laid out by the offsets of R179. -/
def Obligations.ReportPartInserted : Prop :=
  (∀ (i : RecIx) (r : AxleRecord), RecordLaidOut i r (recordBytes i r))
    ∧ ∀ s : State,
      (s.lfe.opportunity ≠ some .report ∨ s.lfe.link = .lost ∨ s.rsp.spool = [] →
        exec .reportPartInsert s = .next s)
      ∧ ∀ (i : RecIx) (rest : List RecIx) (r : AxleRecord) (e : Emission) (bs share : Bytes),
        s.lfe.opportunity = some .report → s.lfe.link ≠ .lost → s.rsp.spool = i :: rest → s.art.get i = some r →
        bs = recordBytes i { r with state := .sent } →
        e = s.rsp.emission.getD { partCount := (bs.length + 511) / 512, nextPart := 0 } →
        share = (bs.drop (512 * e.nextPart)).take 512 →
        exec .reportPartInsert s = .next
          { s with
            lfe := { s.lfe with opportunity := none }
            ports := { s.ports with sentC := s.ports.sentC ++
              [sealFrame ([5, 255, s.lfe.nodeAddr.zeroExtend 8, 0] ++ leBytes 2 s.rsp.reportSeq.toNat
                ++ leBytes 2 (5 + (serialBytes r.serial).length + share.length)
                ++ ([BitVec.ofNat 8 i.val] ++ serialBytes r.serial
                  ++ [BitVec.ofNat 8 e.nextPart, BitVec.ofNat 8 e.partCount]
                  ++ leBytes 2 (alarmWord (s.bay r.bay).ctl.alarms) ++ share))] }
            art := if e.partCount ≤ e.nextPart + 1 then s.art.set i (some { r with state := .sent }) else s.art
            rsp :=
              { spool := if e.partCount ≤ e.nextPart + 1 then rest else s.rsp.spool
                emission := if e.partCount ≤ e.nextPart + 1 then none else some { e with nextPart := e.nextPart + 1 }
                reportSeq := s.rsp.reportSeq + 1 } }

/-! ### Management: the part and its maps -/

/-- IDENTIFY, READ_CELL_PARAMS and RECIPE_STATUS answer OK with the part's identification; with parameters, link state, node
address, cell alarm flags and cell time; and with a slot's state, pin count, pages, failure and recipe summary. They change
nothing; a slot outside 0..5 is BAD_ARG (R55, R165, R167, R178; the unit number and the link codes of slot state and reason
are free values, log entries 9 and 11; the order and widths of the results are the model's reading, log entries 13 and 41). -/
def Obligations.PartAndSlotReadOut : Prop :=
  ∀ (q : MgmtRequest) (s : State),
    (TakenAs .identify q s → exec .identify s = .next (s.answered q .ok
      ([0x31, 0x05, 0x04, 0x0A, 1, s.lfe.nodeAddr.zeroExtend 8] ++ leBytes 8 Config.unitNumber.toNat
        ++ [4, 64, 8, 6, 12, 8])))
    ∧ (TakenAs .readCellParams q s → exec .readCellParams s = .next (s.answered q .ok
      ([BitVec.ofNat 8 s.mga.params.linkLossTimeout, BitVec.ofNat 8 s.mga.params.staleLimit,
        BitVec.ofNat 8 s.mga.params.qualityStopLimit, BitVec.ofNat 8 s.mga.params.demandThreshold]
        ++ leBytes 4 s.mga.params.stopTimeout ++ leBytes 2 s.mga.params.statusOffset
        ++ [BitVec.ofNat 8 (linkStateCode s.lfe.link), s.lfe.nodeAddr.zeroExtend 8]
        ++ leBytes 2 (s.mga.alarms.toNat + if counterAlarm s then 16 else 0)
        ++ leBytes 4 s.tbs.cellTime.toNat)))
    ∧ (TakenAs .recipeStatus q s → 6 ≤ byteAt (reqArgs q.payload) 0 →
      exec .recipeStatus s = .next (s.answered q .badArg []))
    ∧ ∀ k : SlotIx, TakenAt .recipeStatus q k s → exec .recipeStatus s = .next (s.answered q .ok
      ([Config.slotStateCode (s.slot k).state, BitVec.ofNat 8 (s.slot k).pins]
        ++ optBytes 1 ((s.slot k).expected.map (leBytes 1)) ++ [(s.slot k).presence]
        ++ failureBytes (s.slot k).failure
        ++ optBytes 18 ((s.slot k).recipe.map fun r => padText 16 r.name ++ leBytes 2 r.version)
        ++ optBytes 4 ((s.slot k).recipe.map fun r =>
            [BitVec.ofNat 8 r.steps.length, BitVec.ofNat 8 r.lines.length, BitVec.ofNat 8 r.cavities.length,
             BitVec.ofNat 8 r.measureCount])))

/-- SET_CELL_PARAMS replaces all six parameters, or is refused with BAD_ARG for a value out of its range and with BUSY for a
new status offset while a bay is READY, RUNNING or STOPPING (R166). -/
def Obligations.CellParamsSet : Prop :=
  ∀ (q : MgmtRequest) (p : CellParams) (s : State), TakenAs .setCellParams q s →
    p = { linkLossTimeout := byteAt (reqArgs q.payload) 0, staleLimit := byteAt (reqArgs q.payload) 1,
          qualityStopLimit := byteAt (reqArgs q.payload) 2, demandThreshold := byteAt (reqArgs q.payload) 3,
          stopTimeout := natAt (reqArgs q.payload) 4 4, statusOffset := natAt (reqArgs q.payload) 8 2 } →
    exec .setCellParams s = .next
      (if ¬ (2 ≤ p.linkLossTimeout ∧ p.linkLossTimeout ≤ 100 ∧ 1 ≤ p.staleLimit ∧ p.staleLimit ≤ 64
          ∧ p.qualityStopLimit ≤ 15 ∧ 1 ≤ p.demandThreshold ∧ p.demandThreshold ≤ 12
          ∧ 1000 ≤ p.stopTimeout ∧ p.stopTimeout ≤ 120000 ∧ p.statusOffset ≤ 968) then s.answered q .badArg []
      else if p.statusOffset ≠ s.mga.params.statusOffset
          ∧ ∃ b : Bay, (s.bay b).ctl.state = .ready ∨ (s.bay b).ctl.state = .running
            ∨ (s.bay b).ctl.state = .stopping then s.answered q .busy []
      else State.answered { s with mga := { s.mga with params := p } } q .ok [])

/-- LOAD_CHANNEL_MAP: BUSY while a bay holds roles; BAD_ARG with the position 0..16 of the first item that fails checks 2 to 5
(R59, R60: more than 16 items, an index named twice, a field out of its range, kind or owner not those of the role, a field that
ends beyond the stream); otherwise
each named entry is written or cleared with its latch at value 0 and age 255, the other entries and latches stay, and the
partition set is replaced (R60, R61, R175; the order of checks 4 and 5 is the model's reading, log entry 14, and bits 4 to 7 of
the partition byte are ignored, log entry 42). -/
def Obligations.ChannelMapLoaded : Prop :=
  ∀ (q : MgmtRequest) (args : Bytes) (s : State), TakenAs .loadChannelMap q s → args = reqArgs q.payload →
    ((∃ b : Bay, (s.bay b).ctl.roles ≠ []) → exec .loadChannelMap s = .next (s.answered q .busy []))
    ∧ (∀ i : Nat, (∀ b : Bay, (s.bay b).ctl.roles = []) → MapFails args i →
        i ≤ 16 ∧ exec .loadChannelMap s = .next (s.answered q .badArg [BitVec.ofNat 8 i]))
    ∧ ((∀ b : Bay, (s.bay b).ctl.roles = []) → (∀ i : Nat, ¬ MapFails args i) →
        ∃ c : Chx, exec .loadChannelMap s = .next (State.answered { s with chx := c } q .ok [])
          ∧ c.partitions = BitVec.ofNat 4 (byteAt args 0) ∧ c.outputMap = s.chx.outputMap
          ∧ (∀ e : EntryIx, (∀ i : Nat, i < byteAt args 1 → byteAt (mapItem args i) 0 ≠ e.val) →
              c.entries.get e = s.chx.entries.get e ∧ c.latches.get e = s.chx.latches.get e)
          ∧ ∀ (e : EntryIx) (i : Nat), i < byteAt args 1 → byteAt (mapItem args i) 0 = e.val →
              c.latches.get e = { value := .zero, age := 255 }
              ∧ (byteAt (mapItem args i) 1 = 0 → c.entries.get e = .cleared)
              ∧ (byteAt (mapItem args i) 1 ≠ 0 →
                  (c.entries.get e).enabled = true
                  ∧ ownerOf (byteAt (mapItem args i) 2) = some (c.entries.get e).owner
                  ∧ (c.entries.get e).role = roleOf (byteAt (mapItem args i) 3)
                  ∧ (c.entries.get e).kind = kindOf (byteAt (mapItem args i) 4)
                  ∧ (c.entries.get e).len = byteAt (mapItem args i) 5
                  ∧ (c.entries.get e).bitPos = natAt (mapItem args i) 6 2
                  ∧ ((c.entries.get e).kind = some .analog →
                      (c.entries.get e).signed = decide (byteAt (mapItem args i) 8 = 1)
                      ∧ (c.entries.get e).gain = intAt (mapItem args i) 10 2
                      ∧ (c.entries.get e).offset = intAt (mapItem args i) 12 2)
                  ∧ ((c.entries.get e).kind = some .vib →
                      (c.entries.get e).stride = natAt (mapItem args i) 14 2)))

/-- LOAD_OUTPUT_MAP: BUSY while a bay holds roles; BAD_ARG for an enable other than 0 or 1, an offset above 500, or two
enabled places less than 12 apart; otherwise all four places are replaced (R71, R175). -/
def Obligations.OutputMapLoaded : Prop :=
  ∀ (q : MgmtRequest) (en off : Bay → Nat) (s : State), TakenAs .loadOutputMap q s →
    (∀ b : Bay, en b = byteAt (reqArgs q.payload) (4 * b.val)) →
    (∀ b : Bay, off b = natAt (reqArgs q.payload) (4 * b.val + 2) 2) →
    exec .loadOutputMap s = .next
      (if ∃ b : Bay, (s.bay b).ctl.roles ≠ [] then s.answered q .busy []
      else if (∀ b : Bay, en b ≤ 1 ∧ off b ≤ 500)
          ∧ ∀ a b : Bay, a ≠ b → en a = 1 → en b = 1 → off a + 12 ≤ off b ∨ off b + 12 ≤ off a then
        State.answered
          { s with chx := { s.chx with
              outputMap := Vector.ofFn fun b => { enabled := decide (en b = 1), offset := off b } } } q .ok []
      else s.answered q .badArg [])

/-- READ_CHANNEL answers OK with the entry's fields, whether it is in use, its latch and the age, and changes nothing; an
index outside 0..63 is BAD_ARG (R70, R178; the layout, that of a STAT flag set among it, is the model's reading, log entries 13
and 23). -/
def Obligations.ChannelRead : Prop :=
  ∀ (q : MgmtRequest) (s : State), TakenAs .readChannel q s →
    (64 ≤ byteAt (reqArgs q.payload) 0 → exec .readChannel s = .next (s.answered q .badArg []))
    ∧ ∀ i : EntryIx, byteAt (reqArgs q.payload) 0 = i.val →
        exec .readChannel s = .next (s.answered q .ok
          ([flagByte (s.chx.entries.get i).enabled, BitVec.ofNat 8 (ownerCode (s.chx.entries.get i).owner),
            BitVec.ofNat 8 (codeOr0 roleCode (s.chx.entries.get i).role),
            BitVec.ofNat 8 (codeOr0 kindCode (s.chx.entries.get i).kind)]
            ++ leBytes 2 (s.chx.entries.get i).bitPos ++ [BitVec.ofNat 8 (s.chx.entries.get i).len]
            ++ [flagByte (s.chx.entries.get i).signed] ++ signedBytes 2 (s.chx.entries.get i).gain
            ++ signedBytes 2 (s.chx.entries.get i).offset ++ leBytes 2 (s.chx.entries.get i).stride
            ++ [flagByte (s.chx.inUse i)] ++ latchBytes (s.chx.entries.get i).kind (s.latch i)
            ++ [BitVec.ofNat 8 (s.latch i).age]))

/-! ### Management: recipe slots -/

/-- RECIPE_PAGE i of n for an unpinned slot: outside LOADING it opens a load of n pages, which discards recipe and failure;
then the page takes its place in the store and its index joins the presence set (R42, R43). A pinned slot answers PINNED,
and a load in progress of another count BAD_ARG (the code of a slot state is a free value, log entry 9). -/
def Obligations.RecipePageStored : Prop :=
  ∀ (q : MgmtRequest) (k : SlotIx) (i n : Nat) (s : State), TakenAt .recipePage q k s →
    i = byteAt (reqArgs q.payload) 1 → n = byteAt (reqArgs q.payload) 2 → 1 ≤ n → n ≤ 8 → i < n →
    (0 < (s.slot k).pins → exec .recipePage s = .next (s.answered q .pinned []))
    ∧ ((s.slot k).pins = 0 → (s.slot k).state = .loading → (s.slot k).expected ≠ some n →
        exec .recipePage s = .next (s.answered q .badArg []))
    ∧ ((s.slot k).pins = 0 → ((s.slot k).state = .loading → (s.slot k).expected = some n) →
        ∃ x : Slot,
          exec .recipePage s = .next (State.answered { s with rbk := s.rbk.set k x } q .ok
            [Config.slotStateCode .loading, BitVec.ofNat 8 n, x.presence])
          ∧ x.state = .loading ∧ x.expected = some n ∧ x.pins = 0
          ∧ x.presence = (if (s.slot k).state = .loading then (s.slot k).presence else 0) ||| 1 <<< i
          ∧ x.page i = (reqArgs q.payload).drop 4
          ∧ ((s.slot k).state = .loading → ∀ j : Nat, j ≠ i → x.page j = (s.slot k).page j)
          ∧ ((s.slot k).state ≠ .loading → x.recipe = none ∧ x.failure = none))

/-- RECIPE_COMMIT: WRONG_STATE outside LOADING; PAGES_MISSING with the presence set while an index below the expected count
is missing; otherwise the image, the stored pages in index order, is validated by its stages in order (R45 to R51), and the slot
is VALID with the recipe that the image spells by R176, or INVALID with reason and item, its page store released (R44, R45, R53;
the link codes of slot state and reason are free values, log entry 9; the layout is the model's reading, log entry 13). -/
def Obligations.RecipeCommitted : Prop :=
  ∀ (q : MgmtRequest) (k : SlotIx) (img : Bytes) (s : State), TakenAt .recipeCommit q k s →
    img = (List.range ((s.slot k).expected.getD 0)).flatMap (s.slot k).page →
    ((s.slot k).state ≠ .loading → exec .recipeCommit s = .next (s.answered q .wrongState []))
    ∧ ((s.slot k).state = .loading → (∃ i : Nat, i < (s.slot k).expected.getD 0 ∧ (s.slot k).presence.getLsbD i = false) →
        exec .recipeCommit s = .next (s.answered q .pagesMissing [(s.slot k).presence]))
    ∧ ((s.slot k).state = .loading → (∀ i : Nat, i < (s.slot k).expected.getD 0 → (s.slot k).presence.getLsbD i = true) →
        ((∀ (why : Reason) (item : Nat), ¬ ImageFails img ((s.slot k).expected.getD 0) why item) →
          ∃ r : Recipe, ImageDecoded img r ∧ exec .recipeCommit s = .next (State.answered
            { s with rbk := s.rbk.set k { s.slot k with
                state := .valid, recipe := some r, failure := none, pages := [] } }
            q .ok [Config.slotStateCode .valid, 0, 0, 0]))
        ∧ ∀ (why : Reason) (item : Nat), ImageFails img ((s.slot k).expected.getD 0) why item →
            exec .recipeCommit s = .next (State.answered
              { s with rbk := s.rbk.set k { s.slot k with
                  state := .invalid, recipe := none, failure := some (why, item), pages := [] } }
              q .ok [Config.slotStateCode .invalid, 1, Config.reasonCode why, BitVec.ofNat 8 item]))

/-- RECIPE_ERASE empties an unpinned slot, in whatever state it is, and touches nothing else; a pinned slot is answered
PINNED and a slot outside 0..5 BAD_ARG, and neither changes anything (R54). -/
def Obligations.RecipeErased : Prop :=
  ∀ (q : MgmtRequest) (s : State),
    (TakenAs .recipeErase q s → 6 ≤ byteAt (reqArgs q.payload) 0 →
      exec .recipeErase s = .next (s.answered q .badArg []))
    ∧ ∀ k : SlotIx, TakenAt .recipeErase q k s → exec .recipeErase s = .next
        (if 0 < (s.slot k).pins then s.answered q .pinned []
        else State.answered
          { s with
            rbk := s.rbk.set k
              { state := .empty, expected := none, presence := 0, pages := [], recipe := none, failure := none,
                pins := 0 } } q .ok [])

/-! ### Management: bays -/

/-- A BAY_START that passes every check, each role the recipe needs found at exactly one channel (R69), opens the test: the
lowest FREE record is OPEN, the slot is pinned once more, the bay is READY with slot, the plan of the recipe's leak order (R3),
roles and bound record and no cause, its Speed Unit starts afresh, and the response carries
the record index; nothing else changes (R5, R76; the serial as read, log entry 22). -/
def Obligations.BayStarted : Prop :=
  ∀ (q : MgmtRequest) (b : Bay) (k : SlotIx) (serial : Bytes) (r : Recipe) (i : RecIx)
    (roles : List (Role × EntryIx)) (s : State),
    StartFor q b k serial s → (s.bay b).ctl.state = .vacant → s.lfe.link = .up → (s.slot k).state = .valid →
    (s.slot k).recipe = some r → ¬ s.holdsSerial serial → s.lowestFreeRecord i →
    Resolves s b r roles →
    exec .bayStart s = .next (State.answered
      { s with
        art := s.art.set i (some
          { state := .opened, serial := serial, bay := b, slot := k, name := r.name, version := r.version,
            startTime := s.tbs.cellTime, endTime := none, verdict := none, reasons := none, cause := none,
            summary := { driveTime := 0, maxOil := none, maxTorque := none, holdTime := 0, stepsCompleted := 0 },
            noise := [], leaks := [] })
        rbk := s.rbk.set k { s.slot k with pins := (s.slot k).pins + 1 }
        bays := s.bays.set b
          { s.bay b with
            ctl := { (s.bay b).ctl with state := .ready, slot := some k, roles := roles, bound := some i, cause := none
                                        plan := match r.leakOrder with
                                          | .none => [.runin]
                                          | .before => [.leakPre, .runin]
                                          | .after => [.runin, .leakPost] }
            spu :=
              { active := true
                params := some { ppr := r.ppr, gate := r.gate, standstillTime := r.standstillTime,
                                 tolerance := r.tolerance, settleFrames := r.settleFrames }
                ring := List.replicate 64 none, newest := none, speed := 0, reverse := false, standstill := true,
                quiet := 0, steadyCount := 0 } } } q .ok [BitVec.ofNat 8 i.val])

/-- A BAY_START is answered with the code of the first check that fails, in the order of R4, and changes nothing; a MAP_MISMATCH
names the first needed role that is not found at exactly one channel and the number of channels found (R4, R69, R178; the serial
as read, log entry 22). -/
def Obligations.BayStartRefused : Prop :=
  ∀ (q : MgmtRequest) (b : Bay) (k : SlotIx) (serial : Bytes) (s : State), StartFor q b k serial s →
    ((s.bay b).ctl.state = .locked → exec .bayStart s = .next (s.answered q .locked []))
    ∧ ((s.bay b).ctl.state ≠ .locked → (s.bay b).ctl.state ≠ .vacant →
        exec .bayStart s = .next (s.answered q .wrongState []))
    ∧ ((s.bay b).ctl.state = .vacant → s.lfe.link ≠ .up → exec .bayStart s = .next (s.answered q .linkDown []))
    ∧ ((s.bay b).ctl.state = .vacant → s.lfe.link = .up → (s.slot k).state ≠ .valid →
        exec .bayStart s = .next (s.answered q .noRecipe []))
    ∧ ∀ r : Recipe, (s.bay b).ctl.state = .vacant → s.lfe.link = .up → (s.slot k).state = .valid →
        (s.slot k).recipe = some r →
        (s.holdsSerial serial → exec .bayStart s = .next (s.answered q .duplicate []))
        ∧ (¬ s.holdsSerial serial → (∀ i : RecIx, s.art.get i ≠ none) →
            exec .bayStart s = .next (s.answered q .tableFull []))
        ∧ ∀ (i : RecIx) (role : Role) (n : Nat), ¬ s.holdsSerial serial → s.art.get i = none →
            ResolveFails s b r role n →
            exec .bayStart s = .next
              (s.answered q .mapMismatch [BitVec.ofNat 8 (roleCode role), BitVec.ofNat 8 n])

/-- BAY_ABORT: a bay outside 0..3 is BAD_ARG. READY: the bay is COMPLETE at once and its record QUEUED as ABORTED with cause
OPERATOR, AXLE_DONE counted. RUNNING: cause OPERATOR in bay and record, and the stop of R12: the bay is STOPPING with no
sub-phase and stopping time 0, its RIS in RUNDOWN with drive enable, load mode and torque limit kept and HOLD no, and a
measurement's noise entry offered as ABORTED (R101); its LTU with the fill bit 0 and FILL, SETTLE or MEASURE turned to VENT with
an INCOMPLETE leak entry, a vent that runs kept (R141); its window, request and lanes gone; where the three conditions of R13
already hold it is COMPLETE at once, whatever its commanded speed (log entry 25), and its record is finalized (R16, R34).
STOPPING answers OK and keeps its cause, and every other state answers WRONG_STATE. No alarm flag is latched (R11). -/
def Obligations.BayAborted : Prop :=
  ∀ (q : MgmtRequest) (s : State), TakenAs .bayAbort q s →
    (4 ≤ byteAt (reqArgs q.payload) 0 → exec .bayAbort s = .next (s.answered q .badArg []))
    ∧ ∀ b : Bay, byteAt (reqArgs q.payload) 0 = b.val →
      (∀ (i : RecIx) (r : AxleRecord), (s.bay b).ctl.state = .ready → s.bindsOpen b i r →
        ∃ t : State, exec .bayAbort s = .next t ∧ KeptBut b (s.answered q .ok []) t ∧ t.tbs = s.tbs
          ∧ (t.bay b).ctl = { (s.bay b).ctl with state := .complete, subPhase := none, bound := none, last := some i,
                                                 cause := some .operator }
          ∧ (t.bay b).ris = .reset ∧ (t.bay b).ltu = .reset
          ∧ Finalized i { r with cause := some .operator } .aborted s t)
      ∧ ((s.bay b).ctl.state = .running →
        ∃ t : State, exec .bayAbort s = .next t ∧ KeptBut b (s.answered q .ok []) t ∧ t.tbs = s.tbs
          ∧ (t.bay b).ctl.cause = some .operator ∧ (t.bay b).ctl.alarms = (s.bay b).ctl.alarms
          ∧ t.stopped b ∧ Aborted b .operator s t
          ∧ ∀ (i : RecIx) (r : AxleRecord), s.bindsOpen b i r → AbortRecorded b .operator i r s t)
      ∧ ((s.bay b).ctl.state = .stopping → exec .bayAbort s = .next (s.answered q .ok []))
      ∧ ((s.bay b).ctl.state = .vacant ∨ (s.bay b).ctl.state = .complete ∨ (s.bay b).ctl.state = .locked →
        exec .bayAbort s = .next (s.answered q .wrongState []))

/-- BAY_UNLOAD, BAY_LOCK and BAY_UNLOCK by bay state; a bay outside 0..3 is BAD_ARG for each (R18; R19 and R76 for the
locks and the Speed Unit). -/
def Obligations.BayServiced : Prop :=
  ∀ (q : MgmtRequest) (s : State),
    (4 ≤ byteAt (reqArgs q.payload) 0 →
      (TakenAs .bayUnload q s → exec .bayUnload s = .next (s.answered q .badArg []))
      ∧ (TakenAs .bayLock q s → exec .bayLock s = .next (s.answered q .badArg []))
      ∧ (TakenAs .bayUnlock q s → exec .bayUnlock s = .next (s.answered q .badArg [])))
    ∧ ∀ b : Bay,
    (TakenFor .bayUnload q b s → exec .bayUnload s = .next
      (if (s.bay b).ctl.state = .complete then
        State.answered ((s.updCtl b fun c =>
          { c with state := if c.lockPending then .locked else .vacant, lockPending := false, roles := [],
                   slot := none, plan := [], last := none, cause := none }).updSpu b fun _ =>
          { active := false, params := none, ring := List.replicate 64 none, newest := none, speed := 0,
            reverse := false, standstill := true, quiet := 0, steadyCount := 0 }) q .ok []
      else s.answered q .wrongState []))
    ∧ (TakenFor .bayLock q b s → exec .bayLock s = .next
      (State.answered (s.updCtl b fun c =>
        if c.state = .vacant then { c with state := .locked }
        else if c.state = .locked then c else { c with lockPending := true }) q .ok []))
    ∧ (TakenFor .bayUnlock q b s → exec .bayUnlock s = .next
      (if (s.bay b).ctl.state = .locked then
        State.answered (s.updCtl b fun c => { c with state := .vacant, failCount := 0 }) q .ok []
      else s.answered q .wrongState []))

/-- ACK_ALARMS clears the named flags of a bay, or of the cell and its counters, and nothing else; a mask that names a flag
that does not exist, or COUNTER_ALARM, is BAD_ARG (R21, R168, R177). -/
def Obligations.AlarmsAcknowledged : Prop :=
  ∀ (q : MgmtRequest) (mask : Nat) (s : State), TakenAs .ackAlarms q s → mask = natAt (reqArgs q.payload) 1 2 →
    (∀ b : Bay, bayArg (reqArgs q.payload) 0 = some b → exec .ackAlarms s = .next
      (if mask < 2 ^ 11 then
        State.answered (s.updCtl b fun c => { c with alarms := c.alarms &&& ~~~ BitVec.ofNat 11 mask }) q .ok []
      else s.answered q .badArg []))
    ∧ (byteAt (reqArgs q.payload) 0 = 255 → exec .ackAlarms s = .next
      (if mask < 2 ^ 13 ∧ mask.testBit 4 = false then
        State.answered
          { s with
            mga := { s.mga with alarms := s.mga.alarms &&& ~~~ BitVec.ofNat 4 mask }
            stc :=
              { s.stc with
                counters := Vector.ofFn fun i =>
                  { s.stc.counters.get i with
                    alarm := (s.stc.counters.get i).alarm && !mask.testBit (5 + i.val) } } } q .ok []
      else s.answered q .badArg []))
    ∧ (4 ≤ byteAt (reqArgs q.payload) 0 → byteAt (reqArgs q.payload) 0 ≠ 255 →
      exec .ackAlarms s = .next (s.answered q .badArg []))

/-- READ_BAY is taken in every state, answers OK with the fields of R22 in their order, an absent one as a presence byte 0 and
zeros, and changes nothing; in a retry vent the readings of the judged attempt follow them (R22, R23, R137, R174, R178; which
fields share a presence byte, and the plan as a list, is the model's reading, log entry 13; the command record is the one that
stands, log entry 31; place and form of the readings are the model's, log entry 32). -/
def Obligations.BayRead : Prop :=
  ∀ (q : MgmtRequest) (s : State), TakenAs .readBay q s →
    (4 ≤ byteAt (reqArgs q.payload) 0 → exec .readBay s = .next (s.answered q .badArg []))
    ∧ ∀ (b : Bay) (u : BayUnit), byteAt (reqArgs q.payload) 0 = b.val → u = s.bay b →
        exec .readBay s = .next (s.answered q .ok
          ([BitVec.ofNat 8 (bayStateCode u.ctl.state)]
            ++ optBytes 1 (u.ctl.subPhase.map fun p => [BitVec.ofNat 8 (subPhaseCode (some p))])
            ++ (BitVec.ofNat 8 u.ctl.plan.length
              :: u.ctl.plan.map fun p => BitVec.ofNat 8 (subPhaseCode (some p)))
            ++ optBytes 1 (u.ctl.bound.map fun i => [BitVec.ofNat 8 i.val])
            ++ optBytes 1 (u.ctl.last.map fun i => [BitVec.ofNat 8 i.val])
            ++ optBytes 1 (u.ctl.slot.map fun k => [BitVec.ofNat 8 k.val])
            ++ optBytes 1 (u.ctl.cause.map fun x => [BitVec.ofNat 8 (causeCode (some x))])
            ++ leBytes 2 (u.ctl.alarms.toNat + if u.ctl.alarms = 0 then 0 else 2 ^ 11)
            ++ [if u.ctl.lockPending then 1 else 0, BitVec.ofNat 8 u.ctl.failCount]
            ++ (BitVec.ofNat 8 u.ctl.roles.length
              :: u.ctl.roles.flatMap fun p => [BitVec.ofNat 8 (roleCode p.1), BitVec.ofNat 8 p.2.val])
            ++ (if u.ris.phase = .idle then [0, 0, 0]
              else [1, BitVec.ofNat 8 (u.ris.stepIndex.getD 0), BitVec.ofNat 8 (risPhaseCode u.ris.phase)])
            ++ (if s.inLeak b = true ∨ (u.ctl.state = .stopping ∧ u.ltu.phase = .vent) then
                [1, BitVec.ofNat 8 (u.ltu.cavityIndex.getD 0), BitVec.ofNat 8 (ltuPhaseCode u.ltu.phase)]
              else [0, 0, 0])
            ++ optBytes 4 (if u.spu.active then
                some (leBytes 2 u.spu.speed ++ [if u.spu.reverse then 1 else 0, if u.spu.standstill then 1 else 0])
              else none)
            ++ optBytes 4 (if u.ctl.state = .stopping then some (leBytes 4 u.ctl.stoppingTime) else none)
            ++ (if u.ctl.state ≠ .running ∧ u.ctl.state ≠ .stopping then
                [0, 0, 0, 0, 0, 0, 0, BitVec.ofNat 8 (bayStateCode u.ctl.state), 0, 0, 0, 0]
              else u.commandBytes false)
            ++ (if u.ltu.phase = .vent ∧ u.ltu.afterVent = some .refill then
                optBytes 2 (u.ltu.p0.map (signedBytes 2)) ++ optBytes 2 (u.ltu.t0.map (signedBytes 2))
                  ++ optBytes 2 (u.ltu.p1.map (signedBytes 2)) ++ optBytes 2 (u.ltu.t1.map (signedBytes 2))
                  ++ optBytes 4 (u.ltu.decay.map (signedBytes 4)) ++ optBytes 4 (u.ltu.rate.map (signedBytes 4))
              else [])))

/-! ### Management: records and counters -/

/-- READ_RECORD by the table of R38, with the part header and the share of R180; it changes nothing. -/
def Obligations.RecordPartRead : Prop :=
  ∀ (q : MgmtRequest) (s : State), TakenAs .readRecord q s →
    (12 ≤ byteAt (reqArgs q.payload) 0 → exec .readRecord s = .next (s.answered q .badArg []))
    ∧ ∀ i : RecIx, byteAt (reqArgs q.payload) 0 = i.val →
      (s.art.get i = none → exec .readRecord s = .next (s.answered q .notFound []))
      ∧ ∀ (r : AxleRecord) (part count : Nat), s.art.get i = some r → part = byteAt (reqArgs q.payload) 1 →
          count = ((recordBytes i r).length + 511) / 512 →
          exec .readRecord s = .next
            (if count ≤ part then s.answered q .badArg []
            else s.answered q .ok
              ([BitVec.ofNat 8 i.val] ++ serialBytes r.serial ++ [BitVec.ofNat 8 part, BitVec.ofNat 8 count]
                ++ leBytes 2 (alarmWord (s.bay r.bay).ctl.alarms)
                ++ ((recordBytes i r).drop (512 * part)).take 512))

/-- RELEASE_RECORD by the checks of R39: a SENT record whose serial matches becomes FREE; a refused release changes
nothing (which characters of a serial are examined is the model's reading, log entry 22). -/
def Obligations.RecordReleased : Prop :=
  ∀ (q : MgmtRequest) (s : State), TakenAs .releaseRecord q s →
    ((12 ≤ byteAt (reqArgs q.payload) 0 ∨ readSerial ((reqArgs q.payload).drop 1) = none) →
      exec .releaseRecord s = .next (s.answered q .badArg []))
    ∧ ∀ (i : RecIx) (serial : Bytes), byteAt (reqArgs q.payload) 0 = i.val →
      readSerial ((reqArgs q.payload).drop 1) = some serial →
      (s.art.get i = none → exec .releaseRecord s = .next (s.answered q .notFound []))
      ∧ ∀ r : AxleRecord, s.art.get i = some r → exec .releaseRecord s = .next
          (if r.serial ≠ serial then s.answered q .serialMismatch []
          else if r.state ≠ .sent then s.answered q .wrongState []
          else State.answered { s with art := s.art.set i none } q .ok [])

/-- A COUNTER_SETUP whose elements are in their ranges and agree replaces the counter's configuration and sets its value to
0, SATURATED and alarm flag to no and its last level to BELOW; the other counters and the snapshot stay. Any other is
answered BAD_ARG (R151). -/
def Obligations.CounterSetUp : Prop :=
  ∀ (q : MgmtRequest) (args : Bytes) (s : State), TakenAs .counterSetup q s → args = reqArgs q.payload →
    (∀ (i : Fin 8) (ev : CounterEvent) (mode : CounterMode) (slot : Option SlotIx),
      byteAt args 0 = i.val → counterEventOf (byteAt args 1) = some ev → counterModeOf (byteAt args 2) = some mode →
      byteAt args 3 ≤ 12 → byteAt args 4 < 16 →
      ((byteAt args 6 = 255 ∧ slot = none) ∨ ∃ k : SlotIx, byteAt args 6 = k.val ∧ slot = some k) →
      (ev = .laneWaiting ∨ ev = .spoolDepth → i.val ≤ 1) →
      (mode ≠ .count → ev = .laneWaiting ∨ ev = .spoolDepth) →
      exec .counterSetup s = .next (State.answered
        { s with
          stc :=
            { s.stc with
              counters := s.stc.counters.set i
                { value := 0, saturated := false, event := ev, mode := mode, threshold := byteAt args 3,
                  baySet := BitVec.ofNat 4 (byteAt args 4), resultSet := BitVec.ofNat 8 (byteAt args 5),
                  slotMatch := slot, alarmLimit := natAt args 8 4, alarm := false, above := false } } } q .ok []))
    ∧ ((8 ≤ byteAt args 0 ∨ counterEventOf (byteAt args 1) = none ∨ counterModeOf (byteAt args 2) = none
          ∨ 12 < byteAt args 3 ∨ 16 ≤ byteAt args 4 ∨ (6 ≤ byteAt args 6 ∧ byteAt args 6 ≠ 255)
          ∨ (2 ≤ byteAt args 0 ∧ (counterEventOf (byteAt args 1) = some .laneWaiting
              ∨ counterEventOf (byteAt args 1) = some .spoolDepth))
          ∨ (counterModeOf (byteAt args 2) ≠ some .count ∧ counterEventOf (byteAt args 1) ≠ some .laneWaiting
              ∧ counterEventOf (byteAt args 1) ≠ some .spoolDepth)) →
        exec .counterSetup s = .next (s.answered q .badArg []))

/-- COUNTER_SNAPSHOT copies the eight values with the cell time into the snapshot set and, with clear yes, sets every value
to 0 and SATURATED to no; configuration, alarm flags and last levels stay, and the response carries the set and the flags as
they stood before. A clear choice that is neither no nor yes is BAD_ARG (R155, R178; log entry 13). -/
def Obligations.SnapshotTaken : Prop :=
  ∀ (q : MgmtRequest) (s : State), TakenAs .counterSnapshot q s →
    (∀ clear : Bool, byteAt (reqArgs q.payload) 0 = (if clear then 1 else 0) →
      exec .counterSnapshot s = .next (State.answered
        { s with
          stc :=
            { counters := if clear then s.stc.counters.map fun c => { c with value := 0, saturated := false }
                else s.stc.counters
              snapshot := { values := s.stc.counters.toList.map (·.value), time := s.tbs.cellTime } } } q .ok
        (s.stc.counters.toList.flatMap (fun c => leBytes 4 c.value) ++ leBytes 4 s.tbs.cellTime.toNat
          ++ [BitVec.ofNat 8 (flagsNat (s.stc.counters.toList.map (·.saturated))),
              BitVec.ofNat 8 (flagsNat (s.stc.counters.toList.map (·.alarm)))])))
    ∧ (1 < byteAt (reqArgs q.payload) 0 → exec .counterSnapshot s = .next (s.answered q .badArg []))

/-- RESET_PART is answered OK in every state, and once it is taken the agent takes no further request (R170). -/
def Obligations.ResetPartTaken : Prop :=
  ∀ (q : MgmtRequest) (s : State), TakenAs .resetPart q s →
    ∃ t : State, exec .resetPart s = .next t
      ∧ t = State.answered { s with mga := { s.mga with resetTaken := true } } q .ok []
      ∧ t.headRequest = none

/-- A malformed request and one of the wrong length are answered BAD_ARG and an unknown command UNKNOWN_COMMAND; a bay, slot,
page index, page count or serial outside its range is BAD_ARG; none of these changes anything (R4, R42, R164, R178;
which characters of a serial are examined is the model's reading, log entry 22, and so are that a LOAD_CHANNEL_MAP of the wrong
length is answered without a position byte, log entry 14, that a request both malformed and of an unknown command is answered
BAD_ARG, and that a wrong length is answered BAD_ARG also where the command's own rule would answer BUSY, log entry 44). -/
def Obligations.RequestRefused : Prop :=
  ∀ (q : MgmtRequest) (s : State), s.headRequest = some q →
    ((q.payload.length < 6 ∨ natAt q.payload 4 2 ≠ q.payload.length - 6) →
      exec .unknownCommand s = .next (s.answered q .badArg []))
    ∧ (6 ≤ q.payload.length → natAt q.payload 4 2 = q.payload.length - 6 →
      (natAt q.payload 0 2 = 0 ∨ 22 < natAt q.payload 0 2 →
        exec .unknownCommand s = .next (s.answered q .unknownCommand []))
      ∧ ∀ c : Command, commandOf (natAt q.payload 0 2) = some c → argsFit c (q.payload.drop 6) = false →
        exec .unknownCommand s = .next (s.answered q .badArg []))
    ∧ (TakenAs .bayStart q s →
      (4 ≤ byteAt (reqArgs q.payload) 0 ∨ 6 ≤ byteAt (reqArgs q.payload) 1 ∨ readSerial ((reqArgs q.payload).drop 2) = none) →
      exec .bayStart s = .next (s.answered q .badArg []))
    ∧ (TakenAs .recipeCommit q s → 6 ≤ byteAt (reqArgs q.payload) 0 →
      exec .recipeCommit s = .next (s.answered q .badArg []))
    ∧ (TakenAs .recipePage q s →
      (6 ≤ byteAt (reqArgs q.payload) 0 ∨ byteAt (reqArgs q.payload) 2 = 0 ∨ 8 < byteAt (reqArgs q.payload) 2
        ∨ byteAt (reqArgs q.payload) 2 ≤ byteAt (reqArgs q.payload) 1) →
      exec .recipePage s = .next (s.answered q .badArg []))

/-! ### Sample frames at the blocks -/

/-- An accepted frame (the next in sequence, or one with 1 to 15 missing before it) extracts its channels: a channel in use whose
field lies within the payload takes the converted value and age 0; every other latch keeps its value and grows older (R62 to R67;
a tacho field with an edge time of 1000 or more, or a VIB channel whose eighth sample lies beyond the payload, is no update). Then
the Speed Unit of every active bay takes the frame, whatever the blocks do after it: ring, STANDSTILL and quiet time, speed over
the gate, direction (R77, R79, R80, R82; that only an entry with an edge counts for the direction is the model's choice, log entry
43), and, where no frame was missing, the steady counter (R83; of a clamped speed alike, log entry 46). -/
def Obligations.ChannelsExtracted : Prop :=
  ∀ (f : Bytes) (tasks : List FrameTask) (d : Nat) (s t : State),
    frameKind f = some 1 → frameGood f = true → s.testsSample →
    ((s.lfe.lastSeq = none ∧ d = 1) ∨ ∃ l : BitVec 16, s.lfe.lastSeq = some l ∧ d = (frameSeq f - l).toNat) →
    1 ≤ d → d ≤ 16 → exec (.sampleFrame f tasks) s = .next t →
    t.chx.entries = s.chx.entries ∧ t.chx.partitions = s.chx.partitions ∧ t.chx.outputMap = s.chx.outputMap
      ∧ (∀ (b : Bay) (q : SpuParams) (entry : Option TachoEntry), s.lfe.link ≠ .lost → (s.bay b).spu.active = true →
          (s.bay b).spu.params = some q →
          (∀ e : TachoEntry, entry = some e ↔
            ∃ i : EntryIx, t.roleEntry b .tacho = some i ∧ t.latch i = { value := .tacho e, age := 0 }) →
          SpuTook q (frameSeq f) entry (s.bay b).spu (t.bay b).spu
          ∧ (d = 1 → (t.bay b).ris.cmdSpeed = (s.bay b).ris.cmdSpeed →
              (t.bay b).spu.steadyCount =
                steadyAfter q ((s.bay b).ctl.state = .running) (s.bay b).ris.cmdSpeed (s.bay b).spu (t.bay b).spu))
      ∧ ∀ (i : EntryIx) (e : ChannelEntry) (n : Nat), e = s.chx.entries.get i → n = leNat (framePayload f) →
        ((e.enabled = false ∨ s.chx.partitions.getLsbD (i.val / 16) = false) →
          t.latch i = { s.latch i with age := min 255 ((s.latch i).age + d) })
        ∧ (e.enabled = true → s.chx.partitions.getLsbD (i.val / 16) = true → e.kind ≠ some .vib →
            8 * frameLen f ≤ e.bitPos + e.len - 1 →
            t.latch i = { s.latch i with age := min 255 ((s.latch i).age + d) })
        ∧ (e.kind = some .vib → 8 * frameLen f ≤ e.bitPos + 7 * e.stride + e.len - 1 →
            t.latch i = { s.latch i with age := min 255 ((s.latch i).age + d) })
        ∧ (e.enabled = true → s.chx.partitions.getLsbD (i.val / 16) = true → e.bitPos + e.len - 1 < 8 * frameLen f →
            (e.kind = some .analog → ∃ raw : Int,
              raw = (if e.signed = true ∧ 2 ^ (e.len - 1) ≤ n / 2 ^ e.bitPos % 2 ^ e.len
                then (n / 2 ^ e.bitPos % 2 ^ e.len : Nat) - 2 ^ e.len else (n / 2 ^ e.bitPos % 2 ^ e.len : Nat))
              ∧ t.latch i =
                { value := .analog (max (-32768) (min 32767 (⌊((raw * e.gain : Int) : ℚ) / 256⌋ + e.offset)))
                  age := 0 })
            ∧ (e.kind = some .stat → t.latch i =
                { value := .stat (BitVec.ofNat 16 (n / 2 ^ e.bitPos % 2 ^ e.len)), age := 0 })
            ∧ (e.kind = some .tacho → e.len = 28 → t.latch i =
                if 1000 ≤ n / 2 ^ (e.bitPos + 16) % 2 ^ 10 then
                  { s.latch i with age := min 255 ((s.latch i).age + d) }
                else
                  { value := .tacho
                      { count := BitVec.ofNat 16 (n / 2 ^ e.bitPos), time := n / 2 ^ (e.bitPos + 16) % 2 ^ 10,
                        reverse := n.testBit (e.bitPos + 26), edge := n.testBit (e.bitPos + 27) }
                    age := 0 }))
        ∧ (e.enabled = true → s.chx.partitions.getLsbD (i.val / 16) = true → e.kind = some .vib →
            e.bitPos + 7 * e.stride + e.len - 1 < 8 * frameLen f → 1 ≤ e.len → e.len ≤ 16 →
            ∃ xs : List Int, t.latch i = { value := .vib xs, age := 0 } ∧ xs.length = 8
              ∧ ∀ j : Nat, j < 8 → ∃ x : BitVec 16, xs[j]? = some x.toInt
                  ∧ x = BitVec.ofNat 16 (n / 2 ^ (e.bitPos + j * e.stride)) <<< (16 - e.len))

/-- In whatever order the blocks take an accepted frame (log entry 4), a bay that is RUNNING after it has no resolved role older
than the stale limit, and a STAT value that the frame brought it has CLAMPED and GUARD_CLOSED set; a bay that was RUNNING and is
not any more has been stopped; and a FIXTURE or SENSOR fault that another one of the frame forestalls leaves its flag (R8, R9, R10;
log entry 40).
For a frame with none missing before it: a READY bay enters RUNNING when the link is UP and the fixture is ready (R7); an open
fixture aborts with FIXTURE, and a stale role with SENSOR (in the default order). Without these faults, in RUNIN an oil reading
at the abort temperature aborts, and one below it begins or ends HOLD (R93; R27 for the summary); the overload counter follows
the torque reading and aborts at the overload frames (R95; log entry 16); SETTLE with Steady ends in DWELL or with a posted
attempt (R91, R96); a window takes the frame into its block or drops the block (R112 to R114, R122, R125, R127), and a clipped
ambient sample of a frame that drops it does not set the window's flag (log entry 15). In a leak sub-phase the pressure and
temperature tests of COOL_WAIT, FILL, SETTLE and MEASURE are made (R131 to R135), each by the phase in which the frame finds the
cavity: a phase entered inside the frame does not read it again (log entry 21). Not stated here: the oil and torque faults of a
bay in MEASURE, and a bay whose step 0 is a STOP step. -/
def Obligations.FrameSupervises : Prop :=
  ∀ (f : Bytes) (tasks : List FrameTask) (d : Nat) (s t : State),
    frameKind f = some 1 → frameGood f = true → s.testsSample →
    ((s.lfe.lastSeq = none ∧ d = 1) ∨ ∃ l : BitVec 16, s.lfe.lastSeq = some l ∧ d = (frameSeq f - l).toNat) →
    1 ≤ d → d ≤ 16 → exec (.sampleFrame f tasks) s = .next t →
    ∀ b : Bay,
      ((t.bay b).ctl.state = .running →
        (∀ p ∈ (t.bay b).ctl.roles, (t.latch p.2).age ≤ s.mga.params.staleLimit)
        ∧ ∀ (e : EntryIx) (w : BitVec 16), t.roleEntry b .stat = some e → t.latch e = { value := .stat w, age := 0 } →
            w.getLsbD 0 = true ∧ w.getLsbD 1 = true)
      ∧ ((s.bay b).ctl.state = .running → (t.bay b).ctl.state ≠ .running → t.stopped b)
      ∧ (d = 1 →
        ((s.bay b).ctl.state = .running → (s.bay b).ctl.cause = none → (t.bay b).ctl.cause ≠ none →
          (t.fixtureOpen b → hasAlarm (t.bay b).ctl.alarms .fixture = true)
          ∧ (t.sensorStale b → hasAlarm (t.bay b).ctl.alarms .sensor = true))
        ∧ ((s.bay b).ctl.state = .ready → (t.lfe.link ≠ .up ∨ ¬ t.fixtureReady b) → (t.bay b).ctl = (s.bay b).ctl)
        ∧ ((s.bay b).ctl.state = .ready → t.lfe.link = .up → t.fixtureReady b → ¬ t.sensorStale b →
            (s.bay b).ris = .reset → (s.bay b).ltu = .reset → ∀ (r : Recipe) (rest : List SubPhase), s.recipeOf b = some r →
            (∀ st : Step, (s.bay b).ctl.plan = .runin :: rest → r.steps[0]? = some st → st.kind ≠ .stop →
              (t.bay b).ctl = { (s.bay b).ctl with state := .running, subPhase := some .runin }
              ∧ (t.bay b).ris = { Ris.inStep st 0 .reset with driveEnable := true })
            ∧ (∀ c : Cavity, (s.bay b).ctl.plan = .leakPre :: rest → r.cavities[0]? = some c → 0 < c.coolWaitLimit →
              (t.bay b).ctl = { (s.bay b).ctl with state := .running, subPhase := some .leakPre }
              ∧ (t.bay b).ltu.cavityIndex = some 0 ∧ (t.bay b).ltu.attempts = 1 ∧ (t.bay b).ltu.budget = c.retry
              ∧ (t.bay b).ltu.phase =
                  (if t.roleReading b c.tempRole ≤ c.maxStartTemp ∧ (t.bay b).spu.standstill = true then .fill
                  else .coolWait)))
        ∧ ((s.bay b).ctl.state = .running → tasks = [] →
            (t.fixtureOpen b → t.abortedBy b .fixture .fixture)
            ∧ (¬ t.fixtureOpen b → t.sensorStale b → t.abortedBy b .sensor .sensor))
        ∧ (∀ (r : Recipe) (oil torque : Int), s.inRunin b = true → (s.bay b).ris.phase ≠ .idle →
            s.recipeOf b = some r → ¬ t.fixtureOpen b → ¬ t.sensorStale b →
            oil = t.roleReading b .oilTemp → torque = t.roleReading b .torque →
            ((s.bay b).ris.phase ≠ .measure → r.oilAbort ≤ oil → t.abortedBy b .overtemp .overtemp)
            ∧ (oil < r.oilAbort →
              ((s.bay b).ris.phase ≠ .measure → Overloads r (s.bay b).ris torque →
                t.abortedBy b .overload .overload)
              ∧ (¬ Overloads r (s.bay b).ris torque →
                ((s.bay b).ris.phase ≠ .measure → (s.bay b).ris.phase ≠ .measureWait →
                  ((s.bay b).ris.phase = .settle → (t.bay b).spu.steady = false) →
                  (t.bay b).ris =
                    { heldRis r oil (s.bay b).ris with overload := overloadAfter r (s.bay b).ris torque })
                ∧ ((s.bay b).ris.phase = .measureWait →
                  (t.bay b).ris.hold = (heldRis r oil (s.bay b).ris).hold
                  ∧ (t.bay b).ris.overload = overloadAfter r (s.bay b).ris torque)
                ∧ ((s.bay b).ris.phase ≠ .measure →
                  ((s.bay b).ris.phase = .settle → (t.bay b).spu.steady = false) →
                  (HoldBegins r oil (s.bay b).ris → (t.bay b).ctl =
                    { (s.bay b).ctl with alarms := withAlarm (s.bay b).ctl.alarms .overtempWarn })
                  ∧ (¬ HoldBegins r oil (s.bay b).ris → (t.bay b).ctl = (s.bay b).ctl)
                  ∧ ∀ (i : RecIx) (x : AxleRecord), s.bindsOpen b i x → BindingsMatch s →
                      t.art.get i = some { x with summary := { x.summary with
                        maxOil := some (max oil (x.summary.maxOil.getD oil))
                        maxTorque := some (max torque.natAbs (x.summary.maxTorque.getD torque.natAbs)) } })
                ∧ (∀ st : Step, (s.bay b).ris.phase = .settle → (t.bay b).spu.steady = true → s.stepOf b = some st →
                  LanesAgree s →
                  (st.kind ≠ .measure → 0 < st.dwell →
                    (t.bay b).ris =
                      { heldRis r oil (s.bay b).ris with
                        overload := overloadAfter r (s.bay b).ris torque, phase := .dwell, phaseTimer := 0 })
                  ∧ (st.kind = .measure → (heldRis r oil (s.bay b).ris).hold = true →
                    (t.bay b).ris.phase = .measureWait ∧ (t.bay b).ris.attempts = (s.bay b).ris.attempts)
                  ∧ (st.kind = .measure → (heldRis r oil (s.bay b).ris).hold = false →
                    ((t.bay b).ris.phase = .measureWait ∨ (t.bay b).ris.phase = .measure)
                    ∧ (t.bay b).ris.attempts = (s.bay b).ris.attempts + 1)))
              ∧ (∀ w : Window, LanesAgree s → ¬ Overloads r (s.bay b).ris torque → (s.bay b).window = some w →
                w.valid < w.step.blocks →
                (t.blockValid b w → ∃ w' : Window,
                  FrameEntered r (t.bay b).spu.speed (fun x => (t.roleLatch b (laneChannelRole x)).samples)
                    (t.ambientClips b w) w w'
                  ∧ (t.bay b).window = if w'.valid = w.step.blocks then none else some w')
                ∧ (¬ t.blockValid b w →
                  (∃ w' : Window, BlockDropped w w' ∧ (t.bay b).window = some w')
                  ∧ ((∃ n : Nat, w.block = some n ∧ 0 < n) → (∀ c : Bay, c ≠ b → (s.bay c).window = none) →
                      Counted .blockDiscard b (s.bay b).ctl.slot none s t)))))
        ∧ (∀ (c : Cavity) (p temp : Int) (permitted : Bool), s.inLeak b = true → (s.bay b).ris.phase = .idle →
            s.cavityOf b = some c → ¬ t.fixtureOpen b → ¬ t.sensorStale b →
            p = t.roleReading b c.pressRole → temp = t.roleReading b c.tempRole →
            (permitted = true ↔ (s.bay b).ltu.startPermitted = true
              ∨ ((t.bay b).spu.standstill = true ∧ (s.bay b).ris.driveEnable = false)) →
            ((s.bay b).ltu.phase = .coolWait → (t.bay b).ctl = (s.bay b).ctl ∧ (t.bay b).ltu =
              if temp ≤ c.maxStartTemp ∧ permitted = true then
                { (s.bay b).ltu with
                  startPermitted := permitted, phase := .fill, phaseTimer := 0
                  fill := (s.bay b).ltu.fill ||| pairBit c.pair, vent := (s.bay b).ltu.vent &&& ~~~ pairBit c.pair }
              else { (s.bay b).ltu with startPermitted := permitted })
            ∧ ((s.bay b).ltu.phase = .fill →
              ((c.fillTarget : Int) + c.overfillMargin < p → t.abortedBy b .overpressure .overpressure
                ∧ (t.bay b).ltu.phase = .vent ∧ (t.bay b).ltu.fill = (s.bay b).ltu.fill &&& ~~~ pairBit c.pair
                ∧ (t.bay b).ltu.vent = (s.bay b).ltu.vent ||| pairBit c.pair)
              ∧ (p ≤ (c.fillTarget : Int) + c.overfillMargin →
                (t.bay b).ctl = (s.bay b).ctl ∧ (t.bay b).ltu =
                  if (c.fillTarget : Int) - c.fillTolerance ≤ p then
                    { (s.bay b).ltu with
                      startPermitted := permitted, phase := .settle, phaseTimer := 0
                      fill := (s.bay b).ltu.fill &&& ~~~ pairBit c.pair }
                  else { (s.bay b).ltu with startPermitted := permitted }))
            ∧ (∀ low : Int, ((s.bay b).ltu.phase = .settle ∧ low = (c.fillTarget : Int) - c.grossMargin)
                ∨ (∃ p0 : Int, (s.bay b).ltu.phase = .measure ∧ (s.bay b).ltu.p0 = some p0
                  ∧ low = p0 - c.grossMargin) →
              (t.bay b).ctl = (s.bay b).ctl
              ∧ (t.bay b).ltu = (if p < low then
                  { (s.bay b).ltu with
                    startPermitted := permitted, phase := .vent, phaseTimer := 0, afterVent := some .next
                    offered := true, fill := (s.bay b).ltu.fill &&& ~~~ pairBit c.pair
                    vent := (s.bay b).ltu.vent ||| pairBit c.pair }
                else { (s.bay b).ltu with startPermitted := permitted })
              ∧ ∀ (i : RecIx) (x : AxleRecord), s.bindsOpen b i x → BindingsMatch s →
                  t.art.get i = some (if p < low then x.withLeak (some (s.leakEntry b c .gross)) else x))
            ∧ ((s.bay b).ltu.phase = .vent → (t.bay b).ctl = (s.bay b).ctl
              ∧ (t.bay b).ltu = { (s.bay b).ltu with startPermitted := permitted })))

/-- The ramp tick, the shaft phase step and the block amplitude as arithmetic: a ramp tick moves the commanded speed toward the
target, never beyond it nor above the maximum speed, and by at most floor(rate × 16 / 1000) + 1; the shaft phase step is the
nearest integer to speed × 2^32 / 30720000; the amplitude takes the exact integer root (R89, R119, R125). -/
def Obligations.ArithmeticExact : Prop :=
  (∀ rate target maxSpeed cmd frac : Nat, cmd ≤ maxSpeed → target ≤ maxSpeed → frac < 1000 →
      (rampStep rate target maxSpeed cmd frac).1 =
        (if cmd ≤ target then min target (cmd + (frac + 16 * rate) / 1000)
        else max target (cmd - (frac + 16 * rate) / 1000))
      ∧ (rampStep rate target maxSpeed cmd frac).2 = (frac + 16 * rate) % 1000
      ∧ (rampStep rate target maxSpeed cmd frac).1 ≤ maxSpeed
      ∧ (((rampStep rate target maxSpeed cmd frac).1 : Int) - cmd).natAbs ≤ rate * 16 / 1000 + 1)
    ∧ (∀ v : Nat, (phaseStep v : Int) = ⌊((v * 2 ^ 32 : Nat) : ℚ) / 30720000 + 1 / 2⌋)
    ∧ ∀ (n : Nat) (a : LaneSum),
        blockAmplitude n a = 8 * Nat.sqrt (a.inPhase.natAbs ^ 2 + a.quad.natAbs ^ 2) / (n * 32767)

/-! ### Limits and timeouts

Each of these commands is one block's share of a tick, taken ahead of the rest of the tick; `State.serving` is what that
does to the timebase (log entry 3). -/

/-- With a quiet time that reaches the standstill time STANDSTILL becomes true, speed 0 and the ring absent; a leak sub-phase
then has its start permitted, and a STOPPING bay with closed valves and no vent is COMPLETE (R13, R81, R131). In RUNIN with the
commanded speed 0, REVERSE_STOP ends: the step's load mode and torque limit are written and its ramp starts (R90); a STOP step in
STOP_WAIT, or reached by that reverse stop, is finished, with steps completed + 1, and the next step is entered, further STOP steps
being finished on entry (R88, R92); RUNDOWN ends, with drive enable 0, load mode and torque limit absent and the RIS in IDLE, and
the bay goes on to LEAK_POST, or through STOPPING to COMPLETE (R3, R13, R15, R100). RUNDOWN in STOPPING ends in IDLE too (R101). -/
def Obligations.StandstillJudged : Prop :=
  ∀ (b : Bay) (q : SpuParams) (s : State), s.awaits (.spu b) →
    (s.bay b).spu.active = true → (s.bay b).spu.params = some q → (s.bay b).spu.standstill = false →
    q.standstillTime ≤ min 65535 ((s.bay b).spu.quiet + 1) →
    ∃ t : State, exec (.standstillJudged b) s = .next t ∧ KeptBut b s t ∧ t.tbs = (s.serving (.spu b)).tbs
      ∧ (t.bay b).spu =
          { (s.bay b).spu with
            quiet := min 65535 ((s.bay b).spu.quiet + 1)
            standstill := true
            speed := 0
            ring := List.replicate 64 none
            steadyCount := (t.bay b).spu.steadyCount }
      ∧ (s.inLeak b = true → (s.bay b).ris.phase = .idle → (s.bay b).ris.driveEnable = false →
          (s.bay b).ltu.phase ≠ .done → (t.bay b).ltu.startPermitted = true)
      ∧ ((s.bay b).ctl.state = .stopping → (s.bay b).ltu.fill = 0 → (s.bay b).ltu.vent = 0 →
          (s.bay b).ltu.phase ≠ .coolWait → (s.bay b).ltu.phase ≠ .vent → (t.bay b).ctl.state = .complete)
      ∧ ((s.bay b).ctl.state = .stopping → (s.bay b).ris.phase = .rundown → (s.bay b).ris.cmdSpeed = 0 →
          (t.bay b).ris.phase = .idle ∧ (t.bay b).ris.driveEnable = false ∧ (t.bay b).ris.loadMode = none
          ∧ (t.bay b).ris.torqueLimit = none)
      ∧ ∀ (r : Recipe) (i : Nat) (st : Step), s.inRunin b = true → (s.bay b).ris.cmdSpeed = 0 → s.recipeOf b = some r →
          (s.bay b).ris.stepIndex = some i → r.steps[i]? = some st →
          ((s.bay b).ris.phase = .reverseStop → st.kind ≠ .stop →
            (t.bay b).ctl = (s.bay b).ctl ∧ t.art = s.art
            ∧ (t.bay b).ris = { (s.bay b).ris with
                loadMode := some st.loadMode, torqueLimit := some st.torqueLimit, rampFrac := 0, phaseTimer := 0
                phase := if st.target = 0 then .settle else .ramp })
          ∧ ((s.bay b).ris.phase = .stopWait ∨ ((s.bay b).ris.phase = .reverseStop ∧ st.kind = .stop) →
            EntersAtRest b r (i + 1) 1 (s.bay b).ctl.planAfter (s.bay b).ltu (s.bay b).ris s t)
          ∧ ((s.bay b).ris.phase = .rundown → RunInEnded b r (s.bay b).ctl.planAfter 0 (s.bay b).ltu s t)

/-- A STOPPING bay whose stopping time reaches the stop timeout is COMPLETE with STOP_TIMEOUT latched, lock-pending yes and its
abort cause kept; its run-in sequencer and leak test unit are at rest (R14, R16). -/
def Obligations.StopTimedOut : Prop :=
  ∀ (b : Bay) (s : State), s.awaits (.byc b) → (s.bay b).ctl.state = .stopping →
    s.mga.params.stopTimeout ≤ (s.bay b).ctl.stoppingTime + 1 →
    ∃ t : State, exec (.stopTimeout b) s = .next t ∧ KeptBut b s t ∧ t.tbs = (s.serving (.byc b)).tbs
      ∧ (t.bay b).ctl.state = .complete ∧ (t.bay b).ctl.subPhase = none
      ∧ (t.bay b).ctl.bound = none ∧ (t.bay b).ctl.last = (s.bay b).ctl.bound
      ∧ (t.bay b).ctl.cause = (s.bay b).ctl.cause ∧ (t.bay b).ctl.slot = (s.bay b).ctl.slot
      ∧ (t.bay b).ctl.lockPending = true ∧ hasAlarm (t.bay b).ctl.alarms .stopTimeout = true
      ∧ alarmsWithin (s.bay b).ctl.alarms (t.bay b).ctl.alarms
      ∧ (t.bay b).spu = (s.bay b).spu ∧ (t.bay b).ris = .reset ∧ (t.bay b).ltu = .reset
      ∧ ∀ x ∈ t.oae.queue, x.bay ≠ b

/-- The record of a bay that becomes COMPLETE, shown for a stop that times out: it is QUEUED at the tail of the spool with its
end time, the verdict of R35 and the fail reasons of R36, its content otherwise kept, its slot's pin count lowered and AXLE_DONE
counted; then the quality stop is tested: FAIL raises the consecutive-fail count up to 15 and PASS sets it to 0, and a FAIL that
brings it to a quality stop limit other than 0 latches QSTOP and sets lock-pending, which the stop has set already
(R14, R16, R17, R34, R35, R36). -/
def Obligations.RecordFinalized : Prop :=
  ∀ (b : Bay) (i : RecIx) (r : AxleRecord) (q : Recipe) (s : State), s.awaits (.byc b) →
    (s.bay b).ctl.state = .stopping → s.mga.params.stopTimeout ≤ (s.bay b).ctl.stoppingTime + 1 →
    s.bindsOpen b i r → (s.slot r.slot).recipe = some q →
    ∃ (t : State) (v : Verdict), exec (.stopTimeout b) s = .next t
      ∧ Finalized i r v s t ∧ VerdictIs q r v
      ∧ (∀ j : RecIx, j ≠ i → t.art.get j = s.art.get j)
      ∧ QualityJudged s.mga.params.qualityStopLimit v
          { (s.bay b).ctl with alarms := withAlarm (s.bay b).ctl.alarms .stopTimeout, lockPending := true } (t.bay b).ctl

/-- With a quiet time that reaches the link loss timeout the link is LOST; every RUNNING bay is aborted with cause LINK and
stopped as R12 lays down, its record with it, and a STOPPING bay has the flag and keeps its cause (R10, R12, R101, R141, R161;
in whatever order the bays take it, log entry 4). An aborted bay for which the three conditions of R13 hold is COMPLETE at once,
whatever its commanded speed (log entry 25). -/
def Obligations.LinkLost : Prop :=
  ∀ (bays : List Bay) (s : State), s.awaits .lfe → s.lfe.link = .up →
    (s.mga.params.linkLossTimeout ≤ s.lfe.sampleQuiet + 1 ∨ s.mga.params.linkLossTimeout ≤ s.lfe.outputQuiet + 1) →
    ∃ t : State, exec (.linkLoss bays) s = .next t ∧ t.tbs = (s.serving .lfe).tbs
      ∧ t.lfe =
          { s.lfe with
            link := .lost
            lastSeq := none
            refusedRun := 0
            sampleSeen := false
            outputSeen := false
            sampleQuiet := min 100 (s.lfe.sampleQuiet + 1)
            outputQuiet := min 100 (s.lfe.outputQuiet + 1) }
      ∧ t.chx = s.chx ∧ t.mga = s.mga ∧ t.ports = s.ports
      ∧ ∀ b : Bay,
          ((s.bay b).ctl.state = .running → t.abortedBy b .link .link ∧ Aborted b .link s t
            ∧ ∀ (i : RecIx) (r : AxleRecord), s.bindsOpen b i r → (∀ c : Bay, c ≠ b → (s.bay c).ctl.bound ≠ some i) →
                (s.restsAtOnce b → t.art.get i = some
                  ((({ r with cause := some .link }.withNoise (s.abortNoise b)).withLeak (s.abortLeak b)).concluded
                    t.tbs.cellTime .aborted))
                ∧ (¬ s.restsAtOnce b → t.art.get i = some
                  (({ r with cause := some .link }.withNoise (s.abortNoise b)).withLeak (s.abortLeak b))))
          ∧ ((s.bay b).ctl.state = .stopping → hasAlarm (t.bay b).ctl.alarms .link = true ∧ t.stopped b
              ∧ (t.bay b).ctl.cause = (s.bay b).ctl.cause)
          ∧ ((s.bay b).ctl.state ≠ .running → (s.bay b).ctl.state ≠ .stopping → (t.bay b).ctl = (s.bay b).ctl)

/-- A settle, or a wait for STANDSTILL, of a RUNNING bay that reaches the settle timeout aborts it with SETTLE; a HOLD that
reaches its maximum aborts it with OVERTEMP, drive time and hold time counted for that tick (R10, R91, R94, R102; log entry 17).
The bay stops as R12 lays down, its record with it (R12, R33, R101), and is COMPLETE at once where the three conditions of R13
hold, whatever its commanded speed (log entry 25). -/
def Obligations.RunInTimeoutsAbort : Prop :=
  ∀ (b : Bay) (r : Recipe) (s : State), (s.bay b).ctl.state = .running → s.recipeOf b = some r →
    (∀ st : Step, s.stepOf b = some st → s.awaits (.risPhase b) →
      ((s.bay b).ris.phase = .settle ∨ ((s.bay b).ris.cmdSpeed = 0 ∧ ((s.bay b).ris.phase = .reverseStop
        ∨ (s.bay b).ris.phase = .stopWait ∨ (s.bay b).ris.phase = .rundown))) →
      r.settleTimeout ≤ (s.bay b).ris.phaseTimer + 1 →
      ∃ t : State, exec (.settleTimeout b) s = .next t ∧ KeptBut b s t ∧ t.tbs = (s.serving (.risPhase b)).tbs
        ∧ t.abortedBy b .settle .settle ∧ Aborted b .settle s t
        ∧ ∀ (i : RecIx) (x : AxleRecord), s.bindsOpen b i x → AbortRecorded b .settle i x s t)
    ∧ (s.awaits (.risCount b) → (s.bay b).ris.hold = true → r.maxHold ≤ (s.bay b).ris.holdTimer + 1 →
      ∃ t : State, exec (.maxHoldTime b) s = .next t ∧ KeptBut b s t ∧ t.tbs = (s.serving (.risCount b)).tbs
        ∧ t.abortedBy b .overtemp .overtemp
        ∧ ((s.bay b).ris.phase ≠ .idle → Aborted b .overtemp s t)
        ∧ ∀ (i : RecIx) (x : AxleRecord), s.bindsOpen b i x → AbortRecorded b .overtemp i
            { x with
              summary :=
                { x.summary with
                  driveTime := if (s.bay b).ris.driveEnable = true then min (x.summary.driveTime + 1) (2 ^ 32 - 1)
                    else x.summary.driveTime
                  holdTime := min (x.summary.holdTime + 1) (2 ^ 32 - 1) } } s t)

/-- A dwell that has lasted its time finishes its step: steps completed + 1, and the next RUN or MEASURE step is entered, in
SETTLE when the commanded speed is already its target and in RAMP otherwise (R88, R92). In general: a next step that runs the
other way, with the shaft commanded to turn, is entered in REVERSE_STOP with load mode and torque limit kept (R88); a next STOP
step ramps to 0 or waits for STANDSTILL; after the last step the RIS is in RUNDOWN (R100), with phase timer 0 (log entry 35). At
STANDSTILL and commanded speed 0 STOP steps are finished on entry and RUNDOWN ends at once, with what follows run-in (R3, R15,
R92, R100). -/
def Obligations.DwellEnded : Prop :=
  (∀ (b : Bay) (r : Recipe) (i : Nat) (st nx : Step) (s : State), s.awaits (.risPhase b) → s.inRunin b = true →
    s.recipeOf b = some r → (s.bay b).ris.stepIndex = some i → r.steps[i]? = some st → r.steps[i + 1]? = some nx →
    (s.bay b).ris.phase = .dwell → (s.bay b).ris.hold = false → st.dwell ≤ (s.bay b).ris.phaseTimer + 1 →
    nx.kind ≠ .stop →
    ((s.bay b).ris.cmdSpeed = 0 ∨ ∀ m : LoadMode, (s.bay b).ris.loadMode = some m →
      m.isReverse = nx.loadMode.isReverse) →
    ∃ t : State, exec (.dwellEnd b) s = .next t ∧ KeptBut b s t ∧ t.tbs = (s.serving (.risPhase b)).tbs
      ∧ t.bay b =
          { s.bay b with
            ris :=
              { (s.bay b).ris with
                stepIndex := some (i + 1)
                attempts := 0
                phaseTimer := 0
                budget := if nx.kind = .measure then nx.retry else 0
                loadMode := some nx.loadMode
                torqueLimit := some nx.torqueLimit
                rampFrac := 0
                phase := if (s.bay b).ris.cmdSpeed = nx.target then .settle else .ramp } }
      ∧ t.oae = s.oae ∧ t.rsp = s.rsp ∧ t.stc = s.stc ∧ t.rbk = s.rbk
      ∧ ∀ (j : RecIx) (x : AxleRecord), s.bindsOpen b j x → t.art.get j =
          some { x with summary := { x.summary with stepsCompleted := x.summary.stepsCompleted + 1 } })
    ∧ ∀ (b : Bay) (r : Recipe) (i : Nat) (st : Step) (s : State), s.awaits (.risPhase b) → s.inRunin b = true →
        s.recipeOf b = some r → (s.bay b).ris.stepIndex = some i → r.steps[i]? = some st →
        (s.bay b).ris.phase = .dwell → (s.bay b).ris.hold = false → st.dwell ≤ (s.bay b).ris.phaseTimer + 1 →
        ∃ t : State, exec (.dwellEnd b) s = .next t ∧ KeptBut b s t ∧ t.tbs = (s.serving (.risPhase b)).tbs
          ∧ ((s.bay b).ris.cmdSpeed = 0 → (s.bay b).spu.standstill = true →
              EntersAtRest b r (i + 1) 1 (s.bay b).ctl.planAfter (s.bay b).ltu (s.bay b).ris s t)
          ∧ (((s.bay b).ris.cmdSpeed ≠ 0 ∨ (s.bay b).spu.standstill = false) →
              (t.bay b).ctl = (s.bay b).ctl ∧ (t.bay b).ltu = (s.bay b).ltu ∧ (t.bay b).spu = (s.bay b).spu
              ∧ (∀ (j : RecIx) (x : AxleRecord), s.bindsOpen b j x → t.art.get j = some (x.withSteps 1))
              ∧ (∀ nx : Step, r.steps[i + 1]? = some nx →
                  (NeedsReverse nx (s.bay b).ris → (t.bay b).ris =
                    { (s.bay b).ris with
                      stepIndex := some (i + 1), attempts := 0, phaseTimer := 0
                      budget := if nx.kind = .measure then nx.retry else 0
                      phase := .reverseStop, rampFrac := 0 })
                  ∧ (¬ NeedsReverse nx (s.bay b).ris → (t.bay b).ris = (s.bay b).ris.stepEntered nx (i + 1)))
              ∧ (r.steps.length = i + 1 → (t.bay b).ris =
                  { (s.bay b).ris with phase := .rundown, rampFrac := 0, phaseTimer := 0 }))

/-- A rerun dwell that has lasted its time is followed by SETTLE of the same step, and a leak settle time by MEASURE with P0 and
T0 latched from the cavity's channels; nothing else changes (R99, R134). -/
def Obligations.RerunAndLeakSettleEnd : Prop :=
  ∀ (b : Bay) (s : State),
    (∀ (r : Recipe) (st : Step), s.awaits (.risPhase b) → s.recipeOf b = some r → s.stepOf b = some st →
      (s.bay b).ris.phase = .rerun → (s.bay b).ris.hold = false → st.rerunDwell ≤ (s.bay b).ris.phaseTimer + 1 →
      exec (.rerunEnd b) s = .next
        ((s.serving (.risPhase b)).updRis b fun x => { x with phase := .settle, phaseTimer := 0 }))
    ∧ ∀ c : Cavity, s.awaits (.ltu b) → s.inLeak b = true → s.cavityOf b = some c → (s.bay b).ltu.phase = .settle →
      c.settleTime ≤ (s.bay b).ltu.phaseTimer + 1 →
      exec (.leakSettleEnd b) s = .next
        ((s.serving (.ltu b)).updLtu b fun x =>
          { x with
            phase := .measure
            phaseTimer := 0
            p0 := some (s.roleReading b c.pressRole)
            t0 := some (s.roleReading b c.tempRole) })

/-- A request that has waited its limit is withdrawn with LANE_WAIT latched, and NOISE_ATTEMPT with NOMEAS is counted, shown where
it is the only one. A measurement with budget left settles anew for another attempt and offers nothing; one without offers an
INCOMPLETE entry with reason LANE_WAIT, and its step is finished (R92, R97, R98, R109; phase timer 0 in RUNDOWN: log entry 35).
The requests that stay keep their order and have waited one tick more. When the head was withdrawn, the new head is granted where
the FREE lanes meet its need, with LANE_GRANT counted where the request behind it does not fit; when the head stays, no lane
changes (R107, R108, R109). -/
def Obligations.LaneWaitWithdrawn : Prop :=
  ∀ (bays : List Bay) (q : LaneRequest) (r : Recipe) (s : State), LanesAgree s → s.awaits .alloc →
    q ∈ s.oae.queue → s.recipeOf q.bay = some r → r.laneWaitLimit ≤ q.wait + 1 →
    ∃ t : State, exec (.laneWaitLimit bays) s = .next t ∧ t.tbs = (s.serving .alloc).tbs
      ∧ t.lfe = s.lfe ∧ t.chx = s.chx ∧ t.mga = s.mga ∧ t.ports = s.ports
      ∧ hasAlarm (t.bay q.bay).ctl.alarms .laneWait = true
      ∧ (∀ x ∈ t.oae.queue, x.bay ≠ q.bay ∧ ∃ y ∈ s.oae.queue, x = { y with wait := y.wait + 1 })
      ∧ ((∀ x ∈ s.oae.queue, x.bay ≠ q.bay → s.staysQueued x = true) →
          Counted .noiseAttempt q.bay (s.bay q.bay).ctl.slot (some .nomeas) s t)
      ∧ (∀ (i : Nat) (st : Step), (s.bay q.bay).ris.stepIndex = some i → r.steps[i]? = some st →
          s.inRunin q.bay = true →
          (0 < (s.bay q.bay).ris.budget →
            (t.bay q.bay).ris =
              { (s.bay q.bay).ris with
                phase := .settle, phaseTimer := 0, budget := (s.bay q.bay).ris.budget - 1 }
            ∧ ∀ (j : RecIx) (x : AxleRecord), s.bindsOpen q.bay j x →
                (∀ c : Bay, c ≠ q.bay → (s.bay c).ctl.bound ≠ some j) → t.art.get j = some x)
          ∧ ((s.bay q.bay).ris.budget = 0 →
            StepLeft r i (s.bay q.bay).spu.standstill (s.bay q.bay).ris (t.bay q.bay).ris
            ∧ ∀ (j : RecIx) (x : AxleRecord), s.bindsOpen q.bay j x →
                (∀ c : Bay, c ≠ q.bay → (s.bay c).ctl.bound ≠ some j) → x.noise.length < 8 →
                (∀ n ∈ x.noise, n.stepIndex ≠ i) →
                ∃ y : AxleRecord, t.art.get j = some y
                  ∧ ((∀ nx : Step, r.steps[i + 1]? = some nx → nx.kind ≠ .stop) →
                    y.summary.stepsCompleted = x.summary.stepsCompleted + 1)
                  ∧ y.noise = x.noise ++ [s.noiseEntry q.bay i st .incomplete (some .laneWait) none []]))
      ∧ ∀ (head : LaneRequest) (behind stay : List LaneRequest), s.oae.queue = head :: behind →
          stay = (s.oae.queue.filter s.staysQueued).map (fun x => { x with wait := x.wait + 1 }) →
          (s.staysQueued head = true → t.oae.queue = stay ∧ t.oae.lanes = s.oae.lanes)
          ∧ (s.staysQueued head = false →
            (stay = [] → t.oae.queue = [] ∧ t.oae.lanes = s.oae.lanes)
            ∧ ∀ (h : LaneRequest) (rest : List LaneRequest), stay = h :: rest →
              (s.lanesFree.length < h.need → t.oae.queue = stay ∧ t.oae.lanes = s.oae.lanes)
              ∧ ∀ (r' : Recipe) (st' : Step), h.need ≤ s.lanesFree.length →
                  (lanesFor r' st').length ≤ s.lanesFree.length → s.recipeOf h.bay = some r' →
                  s.stepOf h.bay = some st' →
                  Granted h r' st' s.lanesFree s t
                  ∧ (OnlyGrant (lanesFor r' st').length s.lanesFree rest → t.oae.queue = rest
                    ∧ Counted .laneGrant h.bay (s.bay h.bay).ctl.slot none s t))

/-- A window that reaches its limit is closed, its block in progress dropped without an event, its lanes freed and NOISE_ATTEMPT
counted (R111, R115, R116). With fewer valid blocks than Wmin a measurement with budget left settles anew, and one without offers
an INCOMPLETE entry with reason FEW_BLOCKS. Otherwise every line is judged (R128, R129): FAIL with a failed line, else RETRY with
a masked one, else PASS. A PASS, a FAIL that is not rerun and a RETRY without budget offer their entry with the line results and
finish the step, except that a FAIL of a recipe that stops at the first one ends run-in early; a FAIL rerun and a RETRY with
budget take one from it and offer nothing (R97, R98, R99; phase timer 0 in RUNDOWN: log entry 35). The head request is granted
where the FREE lanes meet its need, and only then are the requests behind it tested; LANE_GRANT is counted, shown where the
request behind it does not fit (R107, R108). -/
def Obligations.WindowLimitCloses : Prop :=
  ∀ (b : Bay) (w : Window) (r : Recipe) (s : State), LanesAgree s → s.awaits (.window b) →
    (s.bay b).window = some w → s.recipeOf b = some r → w.step.windowLimit ≤ w.timer + 1 →
    ∃ t : State, exec (.windowLimit b) s = .next t ∧ KeptBut b s t ∧ t.tbs = (s.serving (.window b)).tbs
      ∧ (t.bay b).window = none
      ∧ (∀ (l : LaneIx) (u : LaneUse), t.oae.lanes.get l = some u → u.bay ≠ b)
      ∧ (s.oae.queue = [] → t.oae.queue = [])
      ∧ (∀ (q : LaneRequest) (rest : List LaneRequest), s.oae.queue = q :: rest →
          ((s.lanesWithout b).length < q.need → t.oae.queue = s.oae.queue)
          ∧ ∀ (r' : Recipe) (st' : Step), q.need ≤ (s.lanesWithout b).length →
              (lanesFor r' st').length ≤ (s.lanesWithout b).length → s.recipeOf q.bay = some r' →
              s.stepOf q.bay = some st' →
              Granted q r' st' (s.lanesWithout b) s t
              ∧ (OnlyGrant (lanesFor r' st').length (s.lanesWithout b) rest → t.oae.queue = rest
                ∧ Counted .laneGrant q.bay (s.bay q.bay).ctl.slot none s t))
      ∧ ∀ (i : Nat) (st : Step), s.inRunin b = true → (s.bay b).ris.stepIndex = some i → r.steps[i]? = some st →
          (w.valid < w.step.minBlocks →
            Counted .noiseAttempt b (s.bay b).ctl.slot (some .nomeas) s t
            ∧ (0 < (s.bay b).ris.budget →
              (t.bay b).ctl = (s.bay b).ctl ∧ t.art = s.art
              ∧ (t.bay b).ris = { (s.bay b).ris with
                  phase := .settle, phaseTimer := 0, budget := (s.bay b).ris.budget - 1 })
            ∧ ((s.bay b).ris.budget = 0 → StepLeft r i (s.bay b).spu.standstill (s.bay b).ris (t.bay b).ris
              ∧ ∀ (j : RecIx) (x : AxleRecord), s.bindsOpen b j x → x.noise.length < 8 →
                (∀ n ∈ x.noise, n.stepIndex ≠ i) →
                ∃ y : AxleRecord, t.art.get j = some y
                  ∧ ((∀ nx : Step, r.steps[i + 1]? = some nx → nx.kind ≠ .stop) →
                    y.summary.stepsCompleted = x.summary.stepsCompleted + 1)
                  ∧ y.noise = x.noise ++ [s.noiseEntry b i st .incomplete (some .fewBlocks) none []]))
          ∧ (w.step.minBlocks ≤ w.valid → ∃ (ls : List LineResult) (amb : Option Bool) (x : ResultName),
            LinesJudged r w ls
            ∧ (amb = if ∃ a ∈ w.lanes, a.role = .ambient then some w.ambClipped else none)
            ∧ (x = .fail ↔ ∃ l ∈ ls, l.state = .fail)
            ∧ (x = .retry ↔ (∀ l ∈ ls, l.state ≠ .fail) ∧ ∃ l ∈ ls, l.state = .masked)
            ∧ (x = .pass ↔ ∀ l ∈ ls, l.state = .pass ∨ l.state = .skipped)
            ∧ Counted .noiseAttempt b (s.bay b).ctl.slot (some x) s t
            ∧ ((x = .fail ∧ st.rerunOnFail = true ∨ x = .retry) ∧ 0 < (s.bay b).ris.budget →
              (t.bay b).ctl = (s.bay b).ctl ∧ t.art = s.art
              ∧ (t.bay b).ris = { (s.bay b).ris with
                  phase := if x = .fail ∧ st.rerunDwell ≠ 0 then .rerun else .settle
                  phaseTimer := 0
                  budget := (s.bay b).ris.budget - 1 })
            ∧ (¬ ((x = .fail ∧ st.rerunOnFail = true ∨ x = .retry) ∧ 0 < (s.bay b).ris.budget) →
              (¬ (x = .fail ∧ r.stopAtFirstFail = true) →
                StepLeft r i (s.bay b).spu.standstill (s.bay b).ris (t.bay b).ris)
              ∧ (x = .fail → r.stopAtFirstFail = true → (s.bay b).spu.standstill = false →
                (t.bay b).ctl = { (s.bay b).ctl with state := .stopping, subPhase := none, stoppingTime := 0 }
                ∧ (t.bay b).ris =
                  { (s.bay b).ris with
                    phase := .rundown, rampFrac := 0, hold := false, holdTimer := 0
                    phaseTimer := (t.bay b).ris.phaseTimer })
              ∧ ∀ (j : RecIx) (y : AxleRecord), s.bindsOpen b j y → y.noise.length < 8 →
                  (∀ n ∈ y.noise, n.stepIndex ≠ i) →
                  ∃ z : AxleRecord, t.art.get j = some z
                    ∧ ((∀ nx : Step, r.steps[i + 1]? = some nx → nx.kind ≠ .stop) →
                      z.summary.stepsCompleted = y.summary.stepsCompleted + 1)
                    ∧ ∃ result : NoiseResult, z.noise = y.noise ++ [s.noiseEntry b i st result none amb ls]
                      ∧ (x = .pass → result = .pass) ∧ (x = .fail → result = .fail)
                      ∧ (x = .retry → result = .incomplete)))

/-- A cool wait that reaches its limit ends the cavity INCOMPLETE and the next one is entered; a fill that reaches its timeout
ends it GROSS and vents; each counts one LEAK_ATTEMPT with that outcome (R132, R133, R138, R140, R143). -/
def Obligations.LeakPhasesTimeOut : Prop :=
  ∀ (b : Bay) (c : Cavity) (s : State), s.awaits (.ltu b) → s.inLeak b = true → s.cavityOf b = some c →
    (∀ (r : Recipe) (i : Nat) (nx : Cavity), (s.bay b).ltu.phase = .coolWait →
      c.coolWaitLimit ≤ (s.bay b).ltu.phaseTimer + 1 → s.recipeOf b = some r →
      (s.bay b).ltu.cavityIndex = some i → r.cavities[i + 1]? = some nx → 0 < nx.coolWaitLimit →
      ∃ t : State, exec (.coolWaitLimit b) s = .next t ∧ KeptBut b s t ∧ t.tbs = (s.serving (.ltu b)).tbs
        ∧ Counted .leakAttempt b (s.bay b).ctl.slot (some .incomplete) s t
        ∧ (t.bay b).ctl = (s.bay b).ctl ∧ (t.bay b).ris = (s.bay b).ris
        ∧ (t.bay b).ltu.cavityIndex = some (i + 1) ∧ (t.bay b).ltu.attempts = 1
        ∧ (t.bay b).ltu.budget = nx.retry ∧ (t.bay b).ltu.phaseTimer = 0 ∧ (t.bay b).ltu.offered = false
        ∧ (t.bay b).ltu.p0 = none ∧ (t.bay b).ltu.rate = none
        ∧ (t.bay b).ltu.phase =
            (if s.roleReading b nx.tempRole ≤ nx.maxStartTemp ∧ (s.bay b).ltu.startPermitted = true then .fill
            else .coolWait)
        ∧ ∀ (j : RecIx) (x : AxleRecord), s.bindsOpen b j x → x.leaks.length < 3 → (∀ l ∈ x.leaks, l.id ≠ c.id) →
            t.art.get j = some { x with leaks := x.leaks ++
              [{ id := c.id, attempts := (s.bay b).ltu.attempts, result := .incomplete, p0 := (s.bay b).ltu.p0,
                 t0 := (s.bay b).ltu.t0, p1 := (s.bay b).ltu.p1, t1 := (s.bay b).ltu.t1,
                 decay := (s.bay b).ltu.decay, rate := (s.bay b).ltu.rate }] })
    ∧ ((s.bay b).ltu.phase = .fill → c.fillTimeout ≤ (s.bay b).ltu.phaseTimer + 1 →
      ∃ t : State, exec (.fillTimeout b) s = .next t ∧ KeptBut b s t ∧ t.tbs = (s.serving (.ltu b)).tbs
        ∧ Counted .leakAttempt b (s.bay b).ctl.slot (some .gross) s t
        ∧ t.bay b =
            { s.bay b with
              ltu :=
                { (s.bay b).ltu with
                  phase := .vent
                  phaseTimer := 0
                  afterVent := some .next
                  offered := true
                  fill := (s.bay b).ltu.fill &&& ~~~ pairBit c.pair
                  vent := (s.bay b).ltu.vent ||| pairBit c.pair } }
        ∧ ∀ (j : RecIx) (x : AxleRecord), s.bindsOpen b j x → x.leaks.length < 3 → (∀ l ∈ x.leaks, l.id ≠ c.id) →
            t.art.get j = some { x with leaks := x.leaks ++
              [{ id := c.id, attempts := (s.bay b).ltu.attempts, result := .gross, p0 := (s.bay b).ltu.p0,
                 t0 := (s.bay b).ltu.t0, p1 := (s.bay b).ltu.p1, t1 := (s.bay b).ltu.t1,
                 decay := (s.bay b).ltu.decay, rate := (s.bay b).ltu.rate }] })

/-- At the end of the measure time the compensated decay and its rate are formed and judged. A decay above its limit, or below
the negative of the negative limit, with budget left is vented for a refill and offers nothing; any other attempt is final
with PASS, FAIL or INCOMPLETE. LEAK_ATTEMPT is counted with outcome PASS, FAIL or INVALID (R135, R136, R137, R140, R143). -/
def Obligations.LeakMeasureJudged : Prop :=
  ∀ (b : Bay) (c : Cavity) (p0 t0 p1 t1 pa d rate : Int) (s : State), s.awaits (.ltu b) → s.inLeak b = true →
    s.cavityOf b = some c → (s.bay b).ltu.phase = .measure → c.measureTime ≤ (s.bay b).ltu.phaseTimer + 1 →
    (s.bay b).ltu.p0 = some p0 → (s.bay b).ltu.t0 = some t0 →
    p1 = s.roleReading b c.pressRole → t1 = s.roleReading b c.tempRole → pa = s.roleReading b .baro →
    d = max (-(2 ^ 31)) (min (2 ^ 31 - 1)
      ((p0 - p1) + if t0 + 27315 ≤ 0 then 0 else ((p0 + pa) * (t1 - t0)).tdiv (t0 + 27315))) →
    rate = max (-(2 ^ 31)) (min (2 ^ 31 - 1) ((d * 60000).tdiv c.measureTime)) →
    ∃ t : State, exec (.leakMeasureEnd b) s = .next t ∧ KeptBut b s t ∧ t.tbs = (s.serving (.ltu b)).tbs
      ∧ Counted .leakAttempt b (s.bay b).ctl.slot
          (some (if c.decayLimit < d then .fail else if d < -c.negDecayLimit then .invalid else .pass)) s t
      ∧ (t.bay b).ctl = (s.bay b).ctl ∧ (t.bay b).ris = (s.bay b).ris
      ∧ ((c.decayLimit < d ∨ d < -c.negDecayLimit) → 0 < (s.bay b).ltu.budget →
          t.art = s.art
          ∧ (t.bay b).ltu =
            { (s.bay b).ltu with
              phase := .vent
              phaseTimer := 0
              afterVent := some .refill
              budget := 0
              p1 := some p1
              t1 := some t1
              decay := some d
              rate := some rate
              fill := (s.bay b).ltu.fill &&& ~~~ pairBit c.pair
              vent := (s.bay b).ltu.vent ||| pairBit c.pair })
      ∧ (((d ≤ c.decayLimit ∧ -c.negDecayLimit ≤ d) ∨ (s.bay b).ltu.budget = 0) →
          (t.bay b).ltu =
            { (s.bay b).ltu with
              phase := .vent
              phaseTimer := 0
              afterVent := some .next
              offered := true
              p1 := some p1
              t1 := some t1
              decay := some d
              rate := some rate
              fill := (s.bay b).ltu.fill &&& ~~~ pairBit c.pair
              vent := (s.bay b).ltu.vent ||| pairBit c.pair }
          ∧ ∀ (j : RecIx) (x : AxleRecord), s.bindsOpen b j x → x.leaks.length < 3 → (∀ l ∈ x.leaks, l.id ≠ c.id) →
            t.art.get j = some { x with leaks := x.leaks ++
              [{ id := c.id, attempts := (s.bay b).ltu.attempts, p0 := some p0, t0 := some t0, p1 := some p1,
                 t1 := some t1, decay := some d, rate := some rate
                 result := if c.decayLimit < d then .fail else if d < -c.negDecayLimit then .incomplete
                   else .pass }] })

/-- A vent that has lasted its time closes its valve. After a refill vent the cavity is filled again as attempt 2 without its
readings; with after vent NEXT and a further cavity that one is entered, in FILL where it is cool enough and the start is permitted
(R132, R138); after the last cavity of LEAK_PRE the LTU is DONE, the bay takes RUNIN and the RIS enters step 0 with drive enable 1,
STOP steps being finished on entry at STANDSTILL (R3, R88, R92); after the vent of the last cavity of the last sub-phase a bay at
standstill is COMPLETE and its record finalized, with the quality stop tested (R13, R15, R17, R34, R35, R138); in STOPPING the leak
test unit is idle (R141). -/
def Obligations.VentEnded : Prop :=
  ∀ (b : Bay) (c : Cavity) (s : State), s.awaits (.ltu b) → s.cavityOf b = some c → (s.bay b).ltu.phase = .vent →
    c.ventTime ≤ (s.bay b).ltu.phaseTimer + 1 →
    (s.inLeak b = true → (s.bay b).ltu.afterVent = some .refill → exec (.ventEnd b) s = .next
      ((s.serving (.ltu b)).updLtu b fun x =>
        { x with
          phase := .fill
          phaseTimer := 0
          attempts := 2
          afterVent := none
          p0 := none
          t0 := none
          p1 := none
          t1 := none
          decay := none
          rate := none
          fill := x.fill ||| pairBit c.pair
          vent := x.vent &&& ~~~ pairBit c.pair }))
    ∧ (∀ (r : Recipe) (i : Nat) (j : RecIx) (x : AxleRecord), s.inLeak b = true →
        (s.bay b).ltu.afterVent = some .next → s.recipeOf b = some r → (s.bay b).ltu.cavityIndex = some i →
        r.cavities.length ≤ i + 1 → (s.bay b).ctl.planAfter = [] → (s.bay b).spu.standstill = true →
        (s.bay b).ltu.fill = 0 → (s.bay b).ltu.vent = pairBit c.pair → s.bindsOpen b j x →
        ∃ t : State, exec (.ventEnd b) s = .next t ∧ KeptBut b s t ∧ t.tbs = (s.serving (.ltu b)).tbs
          ∧ (t.bay b).ctl.state = .complete ∧ (t.bay b).ctl.cause = (s.bay b).ctl.cause
          ∧ (t.bay b).ltu = .reset ∧ (t.bay b).ris = .reset
          ∧ ∃ v : Verdict, Finalized j x v s t ∧ QualityJudged s.mga.params.qualityStopLimit v (s.bay b).ctl (t.bay b).ctl
              ∧ ∀ y : Recipe, (s.slot x.slot).recipe = some y → VerdictIs y x v)
    ∧ (∀ (r : Recipe) (i : Nat) (nx : Cavity), s.inLeak b = true → (s.bay b).ltu.afterVent = some .next →
        s.recipeOf b = some r → (s.bay b).ltu.cavityIndex = some i → r.cavities[i + 1]? = some nx → 0 < nx.coolWaitLimit →
        ∃ t : State, exec (.ventEnd b) s = .next t ∧ KeptBut b s t ∧ t.tbs = (s.serving (.ltu b)).tbs
          ∧ (t.bay b).ctl = (s.bay b).ctl ∧ (t.bay b).ris = (s.bay b).ris ∧ t.art = s.art
          ∧ (t.bay b).ltu =
              { (s.bay b).ltu with vent := (s.bay b).ltu.vent &&& ~~~ pairBit c.pair, afterVent := none }.inCavity nx (i + 1)
                (decide (s.roleReading b nx.tempRole ≤ nx.maxStartTemp) && (s.bay b).ltu.startPermitted))
    ∧ (∀ (r : Recipe) (i : Nat) (rest : List SubPhase) (u : Ltu) (x : Ris), s.inLeak b = true →
        (s.bay b).ltu.afterVent = some .next → s.recipeOf b = some r → (s.bay b).ltu.cavityIndex = some i →
        r.cavities.length = i + 1 → (s.bay b).ctl.planAfter = .runin :: rest →
        u = { (s.bay b).ltu with
              vent := (s.bay b).ltu.vent &&& ~~~ pairBit c.pair, afterVent := none, phase := .done, cavityIndex := none
              phaseTimer := (s.bay b).ltu.phaseTimer + 1 } →
        x = { (s.bay b).ris with cmdSpeed := 0, driveEnable := true, overload := 0 } →
        ∃ t : State, exec (.ventEnd b) s = .next t ∧ KeptBut b s t ∧ t.tbs = (s.serving (.ltu b)).tbs
          ∧ ((s.bay b).spu.standstill = true → EntersAtRest b r 0 0 rest u x s t)
          ∧ ((s.bay b).spu.standstill = false → ∀ st : Step, r.steps[0]? = some st →
              (t.bay b).ctl = { (s.bay b).ctl with subPhase := some .runin } ∧ (t.bay b).ltu = u ∧ t.art = s.art
              ∧ (t.bay b).ris = x.stepEntered st 0))
    ∧ ((s.bay b).ctl.state = .stopping →
        ∃ t : State, exec (.ventEnd b) s = .next t ∧ KeptBut b s t ∧ t.tbs = (s.serving (.ltu b)).tbs
          ∧ t.stopped b ∧ (t.bay b).ctl.cause = (s.bay b).ctl.cause
          ∧ (t.bay b).ltu.phase = .idle ∧ (t.bay b).ltu.cavityIndex = none
          ∧ (t.bay b).ltu.vent = (s.bay b).ltu.vent &&& ~~~ pairBit c.pair)
end

