-- ==== Sys2Proof/Laws/Maps.lean ====
section
/-! SUPPORT. When the channel map loader finds a fault, and when the roles of a recipe resolve, in the spec's terms
(R59, R60, R69). -/

namespace Sys2Proof.Machine

theorem firstFailing_some {n : Nat} {ok : Nat → Bool} {P : Nat → Prop} (h : ∀ i, i < n →
    (ok i = true ↔ P i)) (i : Nat) :
    firstFailing n ok = some i ↔ FirstFailing n P i := by
  unfold firstFailing FirstFailing
  rw [List.find?_range_eq_some]
  constructor
  · rintro ⟨h1, h2, h3⟩
    have h2 := List.mem_range.1 h2
    refine ⟨h2, ?_, ?_⟩
    · intro hp; rw [(h i h2).2 hp] at h1; simp at h1
    · intro j hj; have := h3 j hj; simp at this; exact (h j (by omega)).1 this
  · rintro ⟨h1, h2, h3⟩
    refine ⟨?_, List.mem_range.2 h1, ?_⟩
    · have : ¬ (ok i = true) := fun e => h2 ((h i h1).1 e)
      simpa using this
    · intro j hj; have := (h j (by omega)).2 (h3 j hj); simp [this]

theorem firstFailing_none {n : Nat} {ok : Nat → Bool} {P : Nat → Prop} (h : ∀ i, i < n → (ok i = true ↔ P i)) :
    firstFailing n ok = none ↔ ∀ i, i < n → P i := by
  unfold firstFailing
  rw [List.find?_eq_none]
  simp only [List.mem_range, Bool.not_eq_true', Bool.not_eq_false]
  exact forall₂_congr h

theorem firstItemFault_some {n : Nat} {check : Nat → Option Reason} {P : Nat → Prop} (h : ∀ i, i < n →
    (check i = none ↔ P i))
    (w : Reason) (i : Nat) : firstItemFault check n = some (w, i) ↔ FirstFailing n P i ∧ check i = some w := by
  unfold firstItemFault FirstFailing
  induction n with
  | zero => simp
  | succ n ih =>
    have ih := ih fun i hi => h i (by omega)
    rw [List.range_succ, List.findSome?_append]
    cases hf : (List.range n).findSome? fun i => (check i).map fun r => (r, i) with
    | some x =>
      rw [hf] at ih
      simp only [Option.some_or]
      rw [ih]
      constructor
      · rintro ⟨⟨a, b⟩, c⟩; exact ⟨⟨by omega, b⟩, c⟩
      · rintro ⟨⟨a, b, c⟩, d⟩
        by_cases hi : i < n
        · exact ⟨⟨hi, b, c⟩, d⟩
        · exfalso
          obtain ⟨l1, k, l2, e1, e2, -⟩ := List.findSome?_eq_some_iff.1 hf
          have hk : k ∈ List.range n := by rw [e1]; simp
          have hk := List.mem_range.1 hk
          have := (h k (by omega)).2 (c k (by omega))
          rw [this] at e2; simp at e2
    | none =>
      have hall : ∀ j, j < n → P j := by
        intro j hj
        have := List.findSome?_eq_none_iff.1 hf j (List.mem_range.2 hj)
        exact (h j (by omega)).1 (by simpa using this)
      simp only [Option.none_or, List.findSome?_cons, List.findSome?_nil]
      constructor
      · intro e
        have : n = i ∧ check n = some w := by
          cases hc : check n <;> simp [hc] at e; exact ⟨e.2, by rw [e.1]⟩
        obtain ⟨rfl, hw⟩ := this
        refine ⟨⟨by omega, ?_, hall⟩, hw⟩
        intro hp; rw [(h n (by omega)).2 hp] at hw; simp at hw
      · rintro ⟨⟨a, b, c⟩, d⟩
        have : i = n := by
          by_contra hne; exact b (hall i (by omega))
        subst this; simp [d]

theorem firstItemFault_none {n : Nat} {check : Nat → Option Reason} {P : Nat → Prop} (h : ∀ i, i < n →
    (check i = none ↔ P i)) :
    firstItemFault check n = none ↔ ∀ i, i < n → P i := by
  unfold firstItemFault
  rw [List.findSome?_eq_none_iff]
  simp only [List.mem_range, Option.map_eq_none_iff]
  exact forall₂_congr h

theorem within_iff (a b v : Nat) : within a b v = true ↔ a ≤ v ∧ v ≤ b := by simp [within]

theorem byteAt_lt (bs : Bytes) (i : Nat) : byteAt bs i < 256 := (bs.getD i 0).isLt

theorem readItem_isSome (it : Bytes) : (readItem it).isSome = true ↔ ItemInRange it := by
  unfold readItem ItemInRange entryArg
  by_cases h0 : byteAt it 0 < 64
  · rw [dif_pos h0]
    have h0' : byteAt it 0 ≤ 63 := by omega
    simp only [h0', true_and]
    split
    · simp_all
    · rename_i h1
      simp only [h1, one_ne_zero, false_or, true_and]
      have ho : (ownerOf (byteAt it 2)).isSome = true ↔ byteAt it 2 ≤ 4 := by
        unfold ownerOf; split <;> simp_all; omega
      have hr : (roleOf (byteAt it 3)).isSome = true ↔ 1 ≤ byteAt it 3 ∧ byteAt it 3 ≤ 13 := by
        unfold roleOf; split <;> simp_all; omega
      have hf : (flagOf (byteAt it 8)).isSome = true ↔ byteAt it 8 ≤ 1 := by
        unfold flagOf; split <;> simp_all; omega
      cases hO : ownerOf (byteAt it 2) <;> cases hR : roleOf (byteAt it 3) <;> rw [hO] at ho <;> rw [hR] at hr <;>
          simp at ho hr
      · simp; omega
      · simp; omega
      · simp; omega
      · have hk : ∀ n, kindOf n = none ↔ (n = 0 ∨ 4 < n) := by
          intro n; rcases n with _ | _ | _ | _ | _ | n <;> simp [kindOf]
        cases hK : kindOf (byteAt it 4) with
        | none => have := (hk _).1 hK; simp only [Option.isSome_none, Bool.false_eq_true, false_iff]; omega
        | some k =>
          have hk' : byteAt it 4 = kindCode k := by
            unfold kindOf at hK; split at hK <;> cases hK <;> simp_all [kindCode]
          cases k <;> simp only [kindCode] at hk' <;> simp [hk', kindFieldsOk, within_iff, ho, hr, hf] <;> tauto
    · rename_i h1 h2
      simp only [Option.isSome_none, Bool.false_eq_true, false_iff]
      have := h1; have := h2
      rintro (h | h)
      · exact h1 h
      · exact h2 h.1
  · rw [dif_neg h0]; simp only [Option.isSome_none, Bool.false_eq_true, false_iff]; omega

theorem consistent_iff (o : Owner) (r : Role) (k : Kind) :
    (some k == some (kindOfRole r) && ownerClass o r) = true ↔
      ((roleCode r = 2 ∨ roleCode r = 3 ∨ roleCode r = 11) ↔ kindCode k = 1) ∧ (roleCode r = 1 ↔ kindCode k = 2)
        ∧ ((roleCode r = 10 ∨ roleCode r = 13) ↔ kindCode k = 4)
        ∧ ((roleCode r = 11 ∨ roleCode r = 12 ∨ roleCode r = 13) ↔ ownerCode o = 4) := by
  cases o with
  | cell => cases r <;> cases k <;> decide
  | bay b => have := b.isLt; fin_cases b <;> cases r <;> cases k <;> decide

theorem readItem_sound (it : Bytes) (h : (readItem it).isSome = true) :
    (match readItem it with | some x => x.2.sound | none => false) = true ↔ ItemSound it := by
  unfold readItem at *
  unfold ItemSound entryArg at *
  split at h
  · simp at h
  · rename_i i hi
    split at h
    · rename_i h1; simp [h1, MapItem.sound]
    · rename_i h1
      split at h
      · rename_i o r k ho hr hk
        split at h
        · rename_i hg
          have ho' : byteAt it 2 = ownerCode o := by
            unfold ownerOf at ho; split at ho <;> cases ho <;> simp_all [ownerCode]
          have hr' : byteAt it 3 = roleCode r := by
            unfold roleOf at hr; split at hr <;> cases hr <;> simp_all [roleCode]
          have hk' : byteAt it 4 = kindCode k := by
            unfold kindOf at hk; split at hk <;> cases hk <;> simp_all [kindCode]
          have hc := consistent_iff o r k
          have hfit : (entryOf o r k it).fitsStream = true
              ↔ natAt it 6 2 + (if kindCode k = 1 then 7 * natAt it 14 2 else 0) + byteAt it 5 - 1 ≤ 8191 := by
            cases k <;> simp [ChannelEntry.fitsStream, ChannelEntry.lastBit, entryOf, kindCode]
          rw [ho', hr', hk']
          simp only [h1, hg, if_true, MapItem.sound, one_ne_zero, false_or]
          rw [Bool.and_eq_true, hfit]
          simp only [ChannelEntry.consistent, entryOf]
          rw [hc]
          simp only [and_assoc]
        · simp at h
      · simp at h
    · simp at h

theorem freshIndex_iff (args : Bytes) (i : Nat) :
    freshIndex args i = true ↔ ∀ j : Nat, j < i → byteAt (mapItem args j) 0 ≠ byteAt (mapItem args i) 0 := by
  simp [freshIndex, itemBytes, mapItem, List.all_eq_true]

/-- The item that LOAD_CHANNEL_MAP names. -/
theorem mapFault_some (args : Bytes) (i : Nat) : mapFault args = some i ↔ MapFails args i := by
  unfold mapFault MapFails
  have h1 : ∀ k, k < byteAt args 1 → (freshIndex args k = true ↔ _) := fun k _ => freshIndex_iff args k
  have h2 : ∀ k, k < byteAt args 1 → ((readItem (itemBytes args k)).isSome = true ↔ ItemInRange (mapItem args k)) :=
    fun k _ => readItem_isSome _
  by_cases hn : 16 < byteAt args 1
  · simp [hn]; omega
  · simp only [hn, if_false, false_and, false_or]
    have hn' : byteAt args 1 ≤ 16 := by omega
    simp only [hn', true_and]
    have e1 := firstFailing_some h1
    have n1 := firstFailing_none h1
    have e2 := firstFailing_some h2
    have n2 := firstFailing_none h2
    cases c1 : firstFailing (byteAt args 1) (freshIndex args) with
    | some j =>
      simp only [c1] at e1 n1
      have hno : ¬ ∀ k : Nat, k < byteAt args 1 → ∀ j : Nat, j < k →
          byteAt (mapItem args j) 0 ≠ byteAt (mapItem args k) 0 :=
        fun h => by simpa using n1.2 h
      simp only [hno, false_and, or_false]
      exact e1 i
    | none =>
      have hall := n1.1 c1
      have hno : ∀ k, ¬ FirstFailing (byteAt args 1) (fun k => ∀ j : Nat, j < k →
          byteAt (mapItem args j) 0 ≠ byteAt (mapItem args k) 0) k :=
        fun k h => h.2.1 (hall k h.1)
      simp only [hno, false_or]
      rw [and_iff_right hall]
      cases c2 : firstFailing (byteAt args 1) (fun k => (readItem (itemBytes args k)).isSome) with
      | some j =>
        simp only [c2] at e2 n2
        have hno2 : ¬ ∀ k : Nat, k < byteAt args 1 → ItemInRange (mapItem args k) := fun h => by simpa using n2.2 h
        simp only [hno2, false_and, or_false]
        exact e2 i
      | none =>
        have hall2 := n2.1 c2
        have hno2 : ∀ k, ¬ FirstFailing (byteAt args 1) (fun k => ItemInRange (mapItem args k)) k :=
          fun k h => h.2.1 (hall2 k h.1)
        simp only [hno2, false_or]
        rw [and_iff_right hall2]
        exact firstFailing_some (fun k hk => readItem_sound _ ((h2 k hk).2 (hall2 k hk))) i

theorem mapFault_none (args : Bytes) : mapFault args = none ↔ ∀ i, ¬ MapFails args i := by
  constructor
  · intro h i hi; rw [(mapFault_some args i).2 hi] at h; cases h
  · intro h; cases c : mapFault args with
    | none => rfl
    | some i => exact absurd ((mapFault_some args i).1 c) (h i)

/-! ### Roles -/

theorem offers_iff (s : State) (b : Bay) (role : Role) : s.chx.matching (roleOwner b role) role =
    (List.finRange 64).filter (s.offers b role) := by
  unfold Chx.matching State.offers Chx.inUse
  apply List.filter_congr
  intro i _
  have : roleOwner b role = (if role = .ambientMic ∨ role = .baro
      ∨ role = .cellStat then Owner.cell else .bay b) := by
    cases role <;> rfl
  rw [this]
  ac_rfl

theorem matching_length (s : State) (b : Bay) (role : Role) : (s.chx.matching (roleOwner b role) role).length =
    s.channelCount b role := by
  rw [offers_iff, State.channelCount, List.countP_eq_length_filter]

theorem resolve_ok (s : State) (b : Bay) (rs : List Role) (ps : List (Role × EntryIx)) :
    s.chx.resolve b rs = .ok ps ↔ ps.map (·.1) = rs ∧ ∀ p ∈ ps, s.offers b p.1 p.2 = true
        ∧ s.channelCount b p.1 = 1 := by
  induction rs generalizing ps with
  | nil =>
    unfold Chx.resolve
    constructor
    · intro h; cases h; simp
    · rintro ⟨h, -⟩; simp at h; rw [h]
  | cons r rs ih =>
    unfold Chx.resolve
    have hl := matching_length s b r
    have ho := offers_iff s b r
    split
    · rename_i e he
      rw [he] at hl ho
      have hoe : s.offers b r e = true := by
        have : e ∈ (List.finRange 64).filter (s.offers b r) := by rw [← ho]; simp
        exact (List.mem_filter.1 this).2
      have huniq : ∀ e', s.offers b r e' = true → e' = e := by
        intro e' h'
        have : e' ∈ (List.finRange 64).filter (s.offers b r) := List.mem_filter.2 ⟨List.mem_finRange _, h'⟩
        rw [← ho] at this; simpa using this
      cases hr : s.chx.resolve b rs with
      | ok qs =>
        simp only [hr] at ih
        have := (ih qs).1 rfl
        constructor
        · intro h; cases h
          refine ⟨by simp [this.1], ?_⟩
          intro p hp
          rcases List.mem_cons.1 hp with rfl | hp
          · exact ⟨hoe, hl.symm⟩
          · exact this.2 p hp
        · rintro ⟨h1, h2⟩
          cases ps with
          | nil => simp at h1
          | cons p ps =>
            simp at h1
            have hq := (ih ps).2 ⟨h1.2, fun q hq => h2 q (List.mem_cons_of_mem _ hq)⟩
            cases hq
            have h3 := h2 p (List.mem_cons_self ..)
            obtain ⟨p1, p2⟩ := p
            simp at h1 h3
            obtain ⟨rfl, -⟩ := h1
            rw [huniq p2 h3.1]
      | error x =>
        simp only [hr] at ih
        constructor
        · intro h; cases h
        · rintro ⟨h1, h2⟩
          cases ps with
          | nil => simp at h1
          | cons p ps =>
            simp at h1
            have := (ih ps).2 ⟨h1.2, fun q hq => h2 q (List.mem_cons_of_mem _ hq)⟩
            cases this
    · rename_i hne
      constructor
      · intro h; cases h
      · rintro ⟨h1, h2⟩
        cases ps with
        | nil => simp at h1
        | cons p ps =>
          simp at h1
          have h3 := (h2 p (List.mem_cons_self ..)).2
          rw [h1.1, ← hl] at h3
          obtain ⟨e, he⟩ := List.length_eq_one_iff.1 h3
          exact absurd he (hne e)

theorem neededRoles_mem (r : Recipe) (role : Role) (h : role ∈ rolesInOrder) : r.needsRole role =
    true ↔ NeedsRole r role := by
  unfold NeedsRole Recipe.needsRole
  have hv : ∀ (x : VibSet) y, (x == y) = decide (x = y) := by intro x y; cases x <;> cases y <;> rfl
  have hk : ∀ (x : StepKind) y, (x == y) = decide (x = y) := by intro x y; cases x <;> cases y <;> rfl
  have hr : ∀ (x : Role) y, (x == y) = decide (x = y) := by intro x y; cases x <;> cases y <;> rfl
  cases role <;> simp [hv, hk, hr, Recipe.usesAmbient] at *
  · tauto

theorem rolesInOrder_nodup : rolesInOrder.Nodup := by decide

/-- The roles of a BAY_START that resolve. -/
theorem resolve_needed (s : State) (b : Bay) (r : Recipe) (ps : List (Role × EntryIx)) :
    s.chx.resolve b r.neededRoles = .ok ps ↔ Resolves s b r ps := by
  rw [resolve_ok]
  unfold Resolves
  rw [← and_assoc]
  refine and_congr_left fun _ => ?_
  have hord : roleOrder = rolesInOrder := rfl
  unfold Recipe.neededRoles
  rw [hord]
  constructor
  · intro h
    rw [h]
    refine ⟨List.filter_sublist, fun role hr => ?_⟩
    rw [List.mem_filter, neededRoles_mem r role hr]
    exact and_iff_right hr
  · rintro ⟨h1, h2⟩
    have key : ∀ (l : List Role), l.Nodup → ∀ m : List Role, m.Sublist l →
        (∀ x ∈ l, x ∈ m ↔ r.needsRole x = true) → m = l.filter r.needsRole := by
      intro l hn m hm
      induction hm with
      | slnil => intro _; rfl
      | @cons m l a hml ih =>
        intro hx
        have hn' := List.nodup_cons.1 hn
        have hna : r.needsRole a = false := by
          have := hx a (List.mem_cons_self ..)
          by_contra hc
          exact hn'.1 (hml.subset (this.2 (by simpa using hc)))
        rw [List.filter_cons_of_neg (by simp [hna])]
        exact ih hn'.2 fun x hxl => hx x (List.mem_cons_of_mem _ hxl)
      | @cons_cons m l a hml ih =>
        intro hx
        have hn' := List.nodup_cons.1 hn
        have hna : r.needsRole a = true := (hx a (List.mem_cons_self ..)).1 (List.mem_cons_self ..)
        rw [List.filter_cons_of_pos hna]
        congr 1
        apply ih hn'.2
        intro x hxl
        rw [← hx x (List.mem_cons_of_mem _ hxl), List.mem_cons]
        have : x ≠ a := fun e => hn'.1 (e ▸ hxl)
        simp [this]
    exact key _ rolesInOrder_nodup _ h1 fun x hx => by rw [h2 x hx, neededRoles_mem r x hx]

theorem resolve_error (s : State) (b : Bay) (rs : List Role) (role : Role) (n : Nat) :
    s.chx.resolve b rs = .error (role, n) ↔
      ∃ i : Nat, rs[i]? = some role ∧ n = s.channelCount b role ∧ n ≠ 1
        ∧ ∀ (j : Nat) (x : Role), j < i → rs[j]? = some x → s.channelCount b x = 1 := by
  induction rs with
  | nil => unfold Chx.resolve; simp
  | cons r rs ih =>
    unfold Chx.resolve
    have hl := matching_length s b r
    split
    · rename_i e he
      rw [he] at hl
      have hl : s.channelCount b r = 1 := hl.symm
      have step : (∃ i : Nat, (r :: rs)[i]? = some role ∧ n = s.channelCount b role ∧ n ≠ 1
          ∧ ∀ (j : Nat) (x : Role), j < i → (r :: rs)[j]? = some x → s.channelCount b x = 1)
          ↔ ∃ i : Nat, rs[i]? = some role ∧ n = s.channelCount b role ∧ n ≠ 1
          ∧ ∀ (j : Nat) (x : Role), j < i → rs[j]? = some x → s.channelCount b x = 1 := by
        constructor
        · rintro ⟨i, h1, h2, h3, h4⟩
          cases i with
          | zero => simp at h1; subst h1; omega
          | succ i => exact ⟨i, by simpa using h1, h2, h3, fun j x hj hx => h4 (j+1) x (by omega) (by simpa using hx)⟩
        · rintro ⟨i, h1, h2, h3, h4⟩
          refine ⟨i + 1, by simpa using h1, h2, h3, ?_⟩
          intro j x hj hx
          cases j with
          | zero => simp at hx; subst hx; exact hl
          | succ j => exact h4 j x (by omega) (by simpa using hx)
      rw [step, ← ih]
      cases s.chx.resolve b rs <;> simp
    · rename_i hne
      have hl1 : s.channelCount b r ≠ 1 := by
        intro h
        rw [← hl] at h
        obtain ⟨e, he⟩ := List.length_eq_one_iff.1 h
        exact hne e he
      rw [hl]
      constructor
      · intro h; cases h
        exact ⟨0, rfl, rfl, hl1, fun j x hj => by omega⟩
      · rintro ⟨i, h1, h2, h3, h4⟩
        cases i with
        | zero => simp at h1; subst h1; rw [h2]
        | succ i => exact absurd (h4 0 r (by omega) rfl) hl1

/-- The role at which a BAY_START does not resolve. -/
theorem resolve_needed_error (s : State) (b : Bay) (r : Recipe) (role : Role) (n : Nat) :
    s.chx.resolve b r.neededRoles = .error (role, n) ↔ ResolveFails s b r role n := by
  rw [resolve_error]
  unfold ResolveFails Recipe.neededRoles
  rw [show roleOrder = rolesInOrder from rfl]
  have key : ∀ (l : List Role), (∀ x ∈ l, r.needsRole x = true ↔ NeedsRole r x) →
      ((∃ i : Nat, (l.filter r.needsRole)[i]? = some role ∧ n = s.channelCount b role ∧ n ≠ 1
        ∧ ∀ (j : Nat) (x : Role), j < i → (l.filter r.needsRole)[j]? = some x → s.channelCount b x = 1)
      ↔ ∃ i : Nat, l[i]? = some role ∧ NeedsRole r role ∧ n = s.channelCount b role ∧ n ≠ 1
        ∧ ∀ (j : Nat) (x : Role), j < i → l[j]? = some x → NeedsRole r x → s.channelCount b x = 1) := by
    intro l
    induction l with
    | nil => simp
    | cons a l ih =>
      intro hx
      have ih := ih fun x h => hx x (List.mem_cons_of_mem _ h)
      have ha := hx a (List.mem_cons_self ..)
      have shiftR : (∃ i : Nat, (a :: l)[i]? = some role ∧ NeedsRole r role ∧ n = s.channelCount b role ∧ n ≠ 1
          ∧ ∀ (j : Nat) (x : Role), j < i → (a :: l)[j]? = some x → NeedsRole r x → s.channelCount b x = 1)
          ↔ (a = role ∧ NeedsRole r role ∧ n = s.channelCount b role
              ∧ n ≠ 1) ∨ ((NeedsRole r a → s.channelCount b a = 1) ∧
            ∃ i : Nat, l[i]? = some role ∧ NeedsRole r role ∧ n = s.channelCount b role ∧ n ≠ 1
          ∧ ∀ (j : Nat) (x : Role), j < i → l[j]? = some x → NeedsRole r x → s.channelCount b x = 1) := by
        constructor
        · rintro ⟨i, h1, h2, h3, h4, h5⟩
          cases i with
          | zero => simp at h1; exact .inl ⟨h1, h2, h3, h4⟩
          | succ i => exact .inr ⟨h5 0 a (by omega) rfl, i, by simpa using h1, h2, h3, h4,
              fun j x hj hxx => h5 (j+1) x (by omega) (by simpa using hxx)⟩
        · rintro (⟨h1, h2, h3, h4⟩ | ⟨h0, i, h1, h2, h3, h4, h5⟩)
          · exact ⟨0, by simp [h1], h2, h3, h4, fun j x hj => by omega⟩
          · refine ⟨i+1, by simpa using h1, h2, h3, h4, ?_⟩
            intro j x hj hxx hn
            cases j with
            | zero => simp at hxx; subst hxx; exact h0 hn
            | succ j => exact h5 j x (by omega) (by simpa using hxx) hn
      rw [shiftR]
      by_cases hna : r.needsRole a = true
      · rw [List.filter_cons_of_pos hna]
        have hN := ha.1 hna
        have shiftL : (∃ i : Nat, (a :: l.filter r.needsRole)[i]? = some role ∧ n = s.channelCount b role ∧ n ≠ 1
          ∧ ∀ (j : Nat) (x : Role), j < i → (a :: l.filter r.needsRole)[j]? = some x → s.channelCount b x = 1)
          ↔ (a = role ∧ n = s.channelCount b role ∧ n ≠ 1) ∨ (s.channelCount b a = 1 ∧
            ∃ i : Nat, (l.filter r.needsRole)[i]? = some role ∧ n = s.channelCount b role ∧ n ≠ 1
          ∧ ∀ (j : Nat) (x : Role), j < i → (l.filter r.needsRole)[j]? = some x → s.channelCount b x = 1) := by
          constructor
          · rintro ⟨i, h1, h3, h4, h5⟩
            cases i with
            | zero => simp at h1; exact .inl ⟨h1, h3, h4⟩
            | succ i => exact .inr ⟨h5 0 a (by omega) rfl, i, by simpa using h1, h3, h4,
                fun j x hj hxx => h5 (j+1) x (by omega) (by simpa using hxx)⟩
          · rintro (⟨h1, h3, h4⟩ | ⟨h0, i, h1, h3, h4, h5⟩)
            · exact ⟨0, by simp [h1], h3, h4, fun j x hj => by omega⟩
            · refine ⟨i+1, by simpa using h1, h3, h4, ?_⟩
              intro j x hj hxx
              cases j with
              | zero => simp at hxx; subst hxx; exact h0
              | succ j => exact h5 j x (by omega) (by simpa using hxx)
        rw [shiftL, ih]
        constructor
        · rintro (⟨rfl, h2, h3⟩ | ⟨h0, h⟩)
          · exact .inl ⟨rfl, hN, h2, h3⟩
          · exact .inr ⟨fun _ => h0, h⟩
        · rintro (⟨h1, -, h3⟩ | ⟨h0, h⟩)
          · exact .inl ⟨h1, h3⟩
          · exact .inr ⟨h0 hN, h⟩
      · rw [List.filter_cons_of_neg hna, ih]
        have hN : ¬ NeedsRole r a := fun h => hna (ha.2 h)
        constructor
        · intro h; exact .inr ⟨fun h => absurd h hN, h⟩
        · rintro (⟨h1, h2, -⟩ | ⟨-, h⟩)
          · subst h1; exact absurd h2 hN
          · exact h
  exact key rolesInOrder fun x hx => neededRoles_mem r x hx

end Sys2Proof.Machine
end

