-- ==== Sys2Proof/Laws/Image.lean ====
section
/-! SUPPORT. When validation of a recipe image fails and with what, and what a validated image decodes to,
in the spec's terms (R45 to R51, R176). -/

namespace Sys2Proof.Machine

theorem firstFault_uniform (l m : List (Bool × Reason)) (r : Reason) (h : ∀ p ∈ l, p.2 = r) :
    firstFault (l ++ m) = if l.all (·.1) then firstFault m else some r := by
  induction l with
  | nil => simp
  | cons p l ih =>
    obtain ⟨ok, q⟩ := p
    have hq : q = r := h (ok, q) (List.mem_cons_self ..)
    subst hq
    rw [List.cons_append, firstFault, ih fun p hp => h p (List.mem_cons_of_mem _ hp)]
    cases ok
    · simp
    · simp only [if_true, List.all_cons, Bool.true_and]

theorem leNat_lt (bs : Bytes) : leNat bs < 256 ^ bs.length := by
  induction bs with
  | nil => simp [leNat]
  | cons b bs ih => simp only [leNat, List.length_cons, pow_succ]; have := b.isLt; omega
theorem natAt_lt (bs : Bytes) (i n : Nat) : natAt bs i n < 256 ^ n := by
  refine lt_of_lt_of_le (leNat_lt _) (Nat.pow_le_pow_right (by norm_num) ?_)
  exact List.length_take_le _ _
theorem printable_iff (c : Byte) : printable c = true ↔ 0x20 ≤ c.toNat ∧ c.toNat ≤ 0x7E := by simp [printable]

theorem flagOf_isSome (n : Nat) : (flagOf n).isSome = true ↔ n ≤ 1 := by
  rcases n with _ | _ | n <;> simp [flagOf]
theorem leakOrderOf_isSome (n : Nat) : (leakOrderOf n).isSome = true ↔ n ≤ 2 := by
  rcases n with _ | _ | _ | n <;> simp [leakOrderOf]
theorem loadModeOf_isSome (n : Nat) : (loadModeOf n).isSome = true ↔ 1 ≤ n ∧ n ≤ 4 := by
  rcases n with _ | _ | _ | _ | _ | n <;> simp [loadModeOf]
theorem stepKindOf_isSome (n : Nat) : (stepKindOf n).isSome = true ↔ 1 ≤ n ∧ n ≤ 3 := by
  rcases n with _ | _ | _ | _ | n <;> simp [stepKindOf]
theorem vibSetOf_isSome (n : Nat) : (vibSetOf n).isSome = true ↔ 1 ≤ n ∧ n ≤ 3 := by
  rcases n with _ | _ | _ | _ | n <;> simp [vibSetOf]
theorem cavityIdOf_isSome (n : Nat) : (cavityIdOf n).isSome = true ↔ 1 ≤ n ∧ n ≤ 3 := by
  rcases n with _ | _ | _ | _ | n <;> simp [cavityIdOf]
theorem pressRoleOf_isSome (n : Nat) : (pressRoleOf n).isSome = true ↔ 7 ≤ n ∧ n ≤ 9 := by
  rcases n with _ | _ | _ | _ | _ | _ | _ | _ | _ | _ | n <;> simp [pressRoleOf]
theorem tempRoleOf_isSome (n : Nat) : (tempRoleOf n).isSome = true ↔ n = 4 ∨ n = 5 := by
  rcases n with _ | _ | _ | _ | _ | _ | n <;> simp [tempRoleOf]


/-- The checks of an item fail with a reason: two runs of checks, of one reason each. -/
theorem firstFault_two (l m : List (Bool × Reason)) (r q : Reason) (h : ∀ p ∈ l, p.2 = r) (g : ∀ p ∈ m, p.2 = q) :
    firstFault (l ++ m) = if l.all (·.1) then (if m.all (·.1) then none else some q) else some r := by
  rw [firstFault_uniform l m r h]
  have := firstFault_uniform m [] q g
  rw [List.append_nil] at this
  rw [this]; rfl

theorem leakOrderAgrees_iff (n c : Nat) (h : n ≤ 2) (hc : c ≤ 3) : leakOrderAgrees (leakOrderOf n) c = true ↔ (n =
    0 ↔ c = 0) := by
  rcases n with _ | _ | _ | n <;> simp [leakOrderOf, leakOrderAgrees, within] <;> omega

theorem header_fault (img : Bytes) :
    (¬ HeaderInRange img → headerFault img = some .range)
      ∧ (HeaderInRange img → ¬ HeaderCounted img → headerFault img = some .count)
      ∧ (HeaderInRange img → HeaderCounted img → headerFault img = none) := by
  have hu : headerFault img = firstFault ([
    ((img.take 16).all printable, Reason.range),
    (within 16 65535 (imgMaxSpeed img), .range),
    (within 1 4000 (natAt img 20 2), .range),
    ((leakOrderOf (byteAt img 22)).isSome, .range),
    ((flagOf (byteAt img 23)).isSome, .range),
    (within 1 1024 (natAt img 24 2), .range),
    (within 4 64 (byteAt img 26), .range),
    (within 50 2000 (natAt img 28 2), .range),
    (within 1 4095 (natAt img 30 2), .range),
    (within 4 400 (natAt img 32 2), .range),
    (within 100 60000 (natAt img 34 2), .range),
    (decide (intAt img 36 2 < intAt img 38 2), .range),
    (within 0 10000 (natAt img 40 2), .range),
    (within 1000 600000 (natAt img 44 4), .range),
    (within 0 100 (byteAt img 48), .range),
    (within 1 400 (natAt img 42 2), .range),
    (within 10 16 (byteAt img 27), .range),
    (within 100 60000 (natAt img 50 2), .range)] ++ [
    (within 1 24 (imgStepCount img), .count),
    (within 0 16 (imgLineCount img), .count),
    (within 0 3 (imgCavityCount img), .count),
    (leakOrderAgrees (leakOrderOf (byteAt img 22)) (imgCavityCount img), .count)]) := rfl
  rw [hu, firstFault_two _ _ .range .count (by simp) (by simp)]
  simp only [List.all_cons, List.all_nil, Bool.and_true, Bool.and_eq_true, List.all_eq_true, printable_iff,
      within_iff,
    flagOf_isSome, leakOrderOf_isSome, decide_eq_true_eq, imgMaxSpeed, imgStepCount, imgLineCount, imgCavityCount]
  have hb := natAt_lt img 18 2
  have h1 : (HeaderInRange img) = ((∀ x ∈ img.take 16, 32 ≤ x.toNat ∧ x.toNat ≤ 126) ∧ (16 ≤ natAt img 18 2
      ∧ natAt img 18 2 ≤ 65535) ∧ (1 ≤ natAt img 20 2 ∧ natAt img 20 2 ≤ 4000) ∧ byteAt img 22 ≤ 2
      ∧ byteAt img 23 ≤ 1 ∧ (1 ≤ natAt img 24 2 ∧ natAt img 24 2 ≤ 1024) ∧ (4 ≤ byteAt img 26
      ∧ byteAt img 26 ≤ 64) ∧ (50 ≤ natAt img 28 2 ∧ natAt img 28 2 ≤ 2000) ∧ (1 ≤ natAt img 30 2
      ∧ natAt img 30 2 ≤ 4095) ∧ (4 ≤ natAt img 32 2 ∧ natAt img 32 2 ≤ 400) ∧ (100 ≤ natAt img 34 2
      ∧ natAt img 34 2 ≤ 60000) ∧ intAt img 36 2 < intAt img 38 2 ∧ (0 ≤ natAt img 40 2 ∧ natAt img 40 2 ≤ 10000)
      ∧ (1000 ≤ natAt img 44 4 ∧ natAt img 44 4 ≤ 600000) ∧ (0 ≤ byteAt img 48 ∧ byteAt img 48 ≤ 100)
      ∧ (1 ≤ natAt img 42 2 ∧ natAt img 42 2 ≤ 400) ∧ (10 ≤ byteAt img 27 ∧ byteAt img 27 ≤ 16)
      ∧ (100 ≤ natAt img 50 2 ∧ natAt img 50 2 ≤ 60000)) := by
    have e : natAt img 18 2 ≤ 65535 := by omega
    simp only [HeaderInRange, e, and_true, Nat.zero_le, true_and]
  have hc' : HeaderInRange img → HeaderCounted img = ((1 ≤ byteAt img 52 ∧ byteAt img 52 ≤ 24)
      ∧ (0 ≤ byteAt img 53 ∧ byteAt img 53 ≤ 16) ∧ (0 ≤ byteAt img 54 ∧ byteAt img 54 ≤ 3)
      ∧ leakOrderAgrees (leakOrderOf (byteAt img 22)) (byteAt img 54) = true) := by
    intro h
    have h22 : byteAt img 22 ≤ 2 := h.2.2.2.1
    simp only [HeaderCounted, Nat.zero_le, true_and]
    refine propext (and_congr_right fun _ => and_congr_right fun _ => and_congr_right fun h3 => ?_)
    exact (leakOrderAgrees_iff _ _ h22 h3).symm
  exact ⟨fun h => if_neg (h1 ▸ h), fun h hc => (if_pos (h1 ▸ h)).trans (if_neg (hc' h ▸ hc)),
    fun h hc => (if_pos (h1 ▸ h)).trans (if_pos (hc' h ▸ hc))⟩

theorem lineBase_eq (img : Bytes) : lineBase img = 64 + 32 * byteAt img 52 := rfl
theorem cavityBase_eq (img : Bytes) : cavityBase img = 64 + 32 * byteAt img 52 + 28 * byteAt img 53 := by
  simp only [cavityBase, gridBase, lineBase, stepBase, headerSize, imgStepCount, imgLineCount]; omega
theorem stepBytes_eq (img : Bytes) (i : Nat) : stepBytes img i = imageStep img i := rfl
theorem lineBytes_eq (img : Bytes) (i : Nat) : lineBytes img i = imageLine img i := rfl
theorem cavityBytes_eq (img : Bytes) (i : Nat) : cavityBytes img i = imageCavity img i := by
  unfold cavityBytes imageCavity; rw [cavityBase_eq]
theorem imageSize_eq (img : Bytes) : imageSize img = imageNeeds img := by
  unfold imageSize imageNeeds; rw [cavityBase_eq]; simp only [imgCavityCount]; omega

theorem kind_meas (n : Nat) : (stepKindOf n == some .measure) = decide (n = 2) := by
  rcases n with _ | _ | _ | _ | n <;> simp [stepKindOf]
theorem kind_run (n : Nat) : (stepKindOf n == some .run) = decide (n = 1) := by
  rcases n with _ | _ | _ | _ | n <;> simp [stepKindOf]

theorem measureCountTo_eq (img : Bytes) (n : Nat) :
    measureCountTo img n = (List.range n).countP fun j => byteAt (imageStep img j) 0 = 2 := by
  unfold measureCountTo isMeasureBytes
  simp only [stepBytes_eq, kind_meas]

theorem step_fault (img : Bytes) (i : Nat) :
    (StepMiscounted img i → stepFault img i = some .count)
      ∧ (¬ StepMiscounted img i → ¬ StepInRange (natAt img 18 2) (imageStep img i) → stepFault img i = some .range)
      ∧ (¬ StepMiscounted img i → StepInRange (natAt img 18 2) (imageStep img i) → stepFault img i = none) := by
  have hu : stepFault img i = (let st := stepBytes img i
    let kind := stepKindOf (byteAt st 0)
    let meas := kind == some .measure
    let run := kind == some .run
    firstFault ([(kind.isSome, Reason.range)] ++ ([
    (!meas || decide (1 ≤ imgLineCount img), .count),
    (!meas || decide (measureCountTo img (i + 1) ≤ 8), .count)] ++ [
    ((loadModeOf (byteAt st 1)).isSome, .range),
    (within 0 32767 (natAt st 2 2), .range),
    (within 1 4000 (natAt st 4 2), .range),
    (!(run || meas) || within 0 (imgMaxSpeed img) (natAt st 6 2), .range),
    (!run || within 0 600000 (natAt st 8 4), .range),
    (!meas || within 0 7 (byteAt st 12), .range),
    (!meas || (vibSetOf (byteAt st 13)).isSome, .range),
    (!meas || (flagOf (byteAt st 14)).isSome, .range),
    (!meas || within 1 16 (byteAt st 15), .range),
    (!meas || within 1 (byteAt st 15) (byteAt st 16), .range),
    (!meas || within 100 120000 (natAt st 18 4), .range),
    (!meas || within 0 3 (byteAt st 17), .range),
    (!meas || (flagOf (byteAt st 22)).isSome, .range),
    (!meas || within 0 600000 (natAt st 24 4), .range)]))) := rfl
  rw [hu]
  dsimp only
  rw [firstFault_uniform _ _ .range (by simp), firstFault_two _ _ .count .range (by simp) (by simp)]
  simp only [List.all_cons, List.all_nil, Bool.and_true, Bool.and_eq_true, Bool.or_eq_true, Bool.not_eq_true',
      within_iff,
    flagOf_isSome, loadModeOf_isSome, stepKindOf_isSome, vibSetOf_isSome, decide_eq_true_eq, imgMaxSpeed,
        imgLineCount,
    kind_meas, kind_run, decide_eq_false_iff_not, measureCountTo_eq, stepBytes_eq, Bool.or_eq_false_iff]
  unfold StepMiscounted StepInRange
  generalize imageStep img i = x
  generalize hC : List.countP (fun j => decide (byteAt (imageStep img j) 0 = 2)) (List.range (i + 1)) = C
  by_cases h2 : byteAt x 0 = 2
  · simp [h2, Nat.one_le_iff_ne_zero]
    refine ⟨fun h => ?_, fun h0 h8 h => ?_, fun h0 h8 => ?_⟩
    · intro h1; rcases h with h | h
      · exact absurd h h1
      · exact h
    · rw [if_pos ⟨h0, by omega⟩, if_neg]
      rintro ⟨⟨a1,a2⟩,a3,⟨a4,a5⟩,a6,a7,⟨a8,a9⟩,a10,⟨a11,a12⟩,⟨a13,a14⟩,⟨a15,a16⟩,a17,a18,a19⟩
      have := h a1 a2 a3 a4 a5 a6 a7 a8 a9 a10 a11 a12 a13 a14 a15 a16 a17 a18
      omega
    · intros; rw [if_pos ⟨h0, by omega⟩, if_pos]; tauto
  · by_cases h1 : byteAt x 0 = 1
    · simp [h1]; tauto
    · by_cases h3 : byteAt x 0 = 3
      · simp [h3]; tauto
      · have hk : ¬ (1 ≤ byteAt x 0 ∧ byteAt x 0 ≤ 3) := by omega
        simp [h2, h1, h3, hk]

theorem line_fault (img : Bytes) (k : Nat) :
    (¬ LineInRange (imageLine img k) → lineFault img k = some .range)
        ∧ (LineInRange (imageLine img k) → lineFault img k = none) := by
  unfold lineFault LineInRange
  rw [lineBytes_eq]
  have := natAt_lt (imageLine img k) 0 2
  have e : ∀ (a b : Bool), firstFault [(a, .range), (b, .range)] = if a = true
      ∧ b = true then none else some .range := by
    intro a b; cases a <;> cases b <;> rfl
  rw [e]
  simp only [within_iff, List.all_eq_true, printable_iff]
  have e2 : natAt (imageLine img k) 0 2 ≤ 65535 := by omega
  simp only [e2, and_true]
  exact ⟨fun h => if_neg h, fun h => if_pos h⟩

theorem cavity_fault (img : Bytes) (c : Nat) :
    (¬ CavityInRange (imageCavity img c) → cavityFault img c = some .range)
      ∧ (CavityInRange (imageCavity img c) → CavityTaken img c → cavityFault img c = some .cavityConflict)
      ∧ (CavityInRange (imageCavity img c) → ¬ CavityTaken img c → cavityFault img c = none) := by
  have hu : cavityFault img c = (let v := cavityBytes img c
    firstFault ([
    ((cavityIdOf (byteAt v 0)).isSome, Reason.range),
    ((pressRoleOf (byteAt v 1)).isSome, .range),
    ((tempRoleOf (byteAt v 2)).isSome, .range),
    (within 1 3 (byteAt v 3), .range),
    (within 100 10000 (natAt v 4 2), .range),
    (within 1 32767 (natAt v 6 2), .range),
    (within 1 32767 (natAt v 8 2), .range),
    (within 100 60000 (natAt v 10 2), .range),
    (within 1 32767 (natAt v 12 2), .range),
    (within 100 60000 (natAt v 14 2), .range),
    (within 1000 120000 (natAt v 16 4), .range),
    (within 0 32767 (natAt v 20 2), .range),
    (within 0 32767 (natAt v 22 2), .range),
    (within 0 1 (byteAt v 24), .range),
    (within 100 30000 (natAt v 26 2), .range),
    (within 0 600000 (natAt v 30 4), .range)] ++ [
    ((List.range c).all (fun d => !cavityClash (cavityBytes img d) v), .cavityConflict)])) := rfl
  rw [hu]
  dsimp only
  rw [firstFault_two _ _ .range .cavityConflict (by simp) (by simp)]
  simp only [List.all_cons, List.all_nil, Bool.and_true, Bool.and_eq_true, within_iff, cavityIdOf_isSome,
      pressRoleOf_isSome,
    tempRoleOf_isSome, cavityBytes_eq]
  have h2 : (List.range c).all (fun d => !cavityClash (imageCavity img d) (imageCavity img c)) =
      true ↔ ¬ CavityTaken img c := by
    simp [CavityTaken, cavityClash, List.all_eq_true, and_assoc]
  clear hu
  generalize imageCavity img c = x at *
  have h3 : CavityInRange x = ((1 ≤ byteAt x 0 ∧ byteAt x 0 ≤ 3) ∧ (7 ≤ byteAt x 1 ∧ byteAt x 1 ≤ 9)
      ∧ (byteAt x 2 = 4 ∨ byteAt x 2 = 5)
    ∧ (1 ≤ byteAt x 3 ∧ byteAt x 3 ≤ 3) ∧ (100 ≤ natAt x 4 2 ∧ natAt x 4 2 ≤ 10000)
    ∧ (1 ≤ natAt x 6 2 ∧ natAt x 6 2 ≤ 32767) ∧ (1 ≤ natAt x 8 2 ∧ natAt x 8 2 ≤ 32767)
    ∧ (100 ≤ natAt x 10 2 ∧ natAt x 10 2 ≤ 60000) ∧ (1 ≤ natAt x 12 2 ∧ natAt x 12 2 ≤ 32767)
    ∧ (100 ≤ natAt x 14 2 ∧ natAt x 14 2 ≤ 60000) ∧ (1000 ≤ natAt x 16 4 ∧ natAt x 16 4 ≤ 120000)
    ∧ (0 ≤ natAt x 20 2 ∧ natAt x 20 2 ≤ 32767) ∧ (0 ≤ natAt x 22 2 ∧ natAt x 22 2 ≤ 32767) ∧ (0 ≤ byteAt x 24
        ∧ byteAt x 24 ≤ 1)
    ∧ (100 ≤ natAt x 26 2 ∧ natAt x 26 2 ≤ 30000) ∧ (0 ≤ natAt x 30 4 ∧ natAt x 30 4 ≤ 600000)) := by
    simp only [CavityInRange, Nat.zero_le, true_and]
  exact ⟨fun h => if_neg (h3 ▸ h), fun h g => (if_pos (h3 ▸ h)).trans (if_neg fun e => h2.1 e g),
    fun h g => (if_pos (h3 ▸ h)).trans (if_pos (h2.2 g))⟩

/-- When validation fails, and with which reason and item (R45). -/
theorem validation_fault (img : Bytes) (pages : Nat) (w : Reason) (i : Nat) :
    validationFault img pages = some (w, i) ↔ ImageFails img pages w i := by
  obtain ⟨h1, h2, h3⟩ := header_fault img
  unfold validationFault ImageFails
  by_cases hr : HeaderInRange img
  · by_cases hc : HeaderCounted img
    · rw [h3 hr hc]
      simp only [hr, hc, not_true, false_and, false_or, true_and, imageSize_eq, pagesNeeded]
      by_cases hs : 256 * pages < imageNeeds img
      · have hs' : ¬ imageNeeds img ≤ 256 * pages := by omega
        simp only [hs, hs', if_true, true_and, false_and, or_false, Option.some.injEq, Prod.mk.injEq]
        constructor <;> rintro ⟨a, b⟩ <;> exact ⟨a.symm, b.symm⟩
      · have hs' : imageNeeds img ≤ 256 * pages := by omega
        simp only [hs, hs', if_false, true_and, false_and, false_or]
        have hstep : ∀ j, j < byteAt img 52 → (stepFault img j = none ↔ ¬ StepMiscounted img j
            ∧ StepInRange (natAt img 18 2) (imageStep img j)) := by
          intro j _
          obtain ⟨a, b, c⟩ := step_fault img j
          constructor
          · intro h
            refine ⟨fun hm => ?_, ?_⟩
            · rw [a hm] at h; cases h
            · by_contra hn
              by_cases hm : StepMiscounted img j
              · rw [a hm] at h; cases h
              · rw [b hm hn] at h; cases h
          · rintro ⟨p, q⟩; exact c p q
        have hsome := firstItemFault_some hstep
        have hnone := firstItemFault_none hstep
        simp only [imgStepCount, imgLineCount, imgCavityCount]
        cases c1 : firstItemFault (stepFault img) (byteAt img 52) with
        | some x =>
          obtain ⟨w', i'⟩ := x
          rw [c1] at hsome hnone
          have hno : ¬ ∀ j : Nat, j < byteAt img 52 → ¬ StepMiscounted img j
              ∧ StepInRange (natAt img 18 2) (imageStep img j) :=
            fun h => by simpa using hnone.2 h
          simp only [hno, false_and, or_false, Option.some.injEq, Prod.mk.injEq]
          have hx := (hsome w' i').1 rfl
          have hval : ∀ k, FirstFailing (byteAt img 52) (fun j => ¬ StepMiscounted img j
              ∧ StepInRange (natAt img 18 2) (imageStep img j)) k → k = i' := by
            intro k hk
            rcases Nat.lt_trichotomy k i' with hlt | heq | hgt
            · exact absurd (hx.1.2.2 k hlt) hk.2.1
            · exact heq
            · exact absurd (hk.2.2 i' hgt) hx.1.2.1
          obtain ⟨a, b, c⟩ := step_fault img i'
          constructor
          · rintro ⟨rfl, rfl⟩
            refine ⟨i', hx.1, rfl, fun hm => ?_, fun hm => ?_⟩
            · have := hx.2.symm.trans (a hm); cases this; rfl
            · have hn : ¬ StepInRange (natAt img 18 2) (imageStep img i') := fun hn => hx.1.2.1 ⟨hm, hn⟩
              have := hx.2.symm.trans (b hm hn); cases this; rfl
          · rintro ⟨k, hk, rfl, g1, g2⟩
            have := hval k hk; subst this
            refine ⟨?_, rfl⟩
            by_cases hm : StepMiscounted img k
            · rw [g1 hm]; have := hx.2.symm.trans (a hm); cases this; rfl
            · rw [g2 hm]
              have hn : ¬ StepInRange (natAt img 18 2) (imageStep img k) := fun hn => hx.1.2.1 ⟨hm, hn⟩
              have := hx.2.symm.trans (b hm hn); cases this; rfl
        | none =>
          have hall := hnone.1 c1
          have hno : ¬ ∃ k : Nat, FirstFailing (byteAt img 52) (fun j => ¬ StepMiscounted img j
              ∧ StepInRange (natAt img 18 2) (imageStep img j)) k ∧ i = 1 + k
              ∧ (StepMiscounted img k → w = .count) ∧ (¬ StepMiscounted img k → w = .range) := by
            rintro ⟨k, hk, -⟩; exact hk.2.1 (hall k hk.1)
          simp only [hno, false_or]
          rw [and_iff_right hall]
          have hline : ∀ j, j < byteAt img 53 → (lineFault img j = none ↔ LineInRange (imageLine img j)) := by
            intro j _
            obtain ⟨a, b⟩ := line_fault img j
            refine ⟨fun h => ?_, b⟩
            by_contra hn; rw [a hn] at h; cases h
          have lsome := firstItemFault_some hline
          have lnone := firstItemFault_none hline
          cases c2 : firstItemFault (lineFault img) (byteAt img 53) with
          | some x =>
            obtain ⟨w', i'⟩ := x
            rw [c2] at lsome lnone
            have hno : ¬ ∀ j : Nat, j < byteAt img 53 → LineInRange (imageLine img j) :=
              fun h => by simpa using lnone.2 h
            simp only [hno, false_and, or_false, Option.some.injEq, Prod.mk.injEq]
            have hx := (lsome w' i').1 rfl
            have hw : w' = .range := by have := hx.2.symm.trans ((line_fault img i').1 hx.1.2.1); cases this; rfl
            constructor
            · rintro ⟨rfl, rfl⟩; exact ⟨i', hx.1, rfl, hw⟩
            · rintro ⟨k, hk, rfl, rfl⟩
              refine ⟨hw, ?_⟩
              rcases Nat.lt_trichotomy k i' with hlt | heq | hgt
              · exact absurd (hx.1.2.2 k hlt) hk.2.1
              · rw [heq]
              · exact absurd (hk.2.2 i' hgt) hx.1.2.1
          | none =>
            have lall := lnone.1 c2
            have hno : ¬ ∃ k : Nat, FirstFailing (byteAt img 53) (fun j => LineInRange (imageLine img j)) k
                ∧ i = 32 + k ∧ w = .range := by
              rintro ⟨k, hk, -⟩; exact hk.2.1 (lall k hk.1)
            simp only [hno, false_or]
            rw [and_iff_right lall]
            have hcav : ∀ j, j < byteAt img 54 → (cavityFault img j = none ↔ CavityInRange (imageCavity img j)
                ∧ ¬ CavityTaken img j) := by
              intro j _
              obtain ⟨a, b, c⟩ := cavity_fault img j
              constructor
              · intro h
                have hin : CavityInRange (imageCavity img j) := by
                  by_contra hn; rw [a hn] at h; cases h
                refine ⟨hin, fun ht => ?_⟩
                rw [b hin ht] at h; cases h
              · rintro ⟨p, q⟩; exact c p q
            have csome := firstItemFault_some hcav
            have cnone := firstItemFault_none hcav
            cases c3 : firstItemFault (cavityFault img) (byteAt img 54) with
            | some x =>
              obtain ⟨w', i'⟩ := x
              rw [c3] at csome
              have hx := (csome w' i').1 rfl
              obtain ⟨a, b, c⟩ := cavity_fault img i'
              simp only [Option.some.injEq, Prod.mk.injEq]
              constructor
              · rintro ⟨rfl, rfl⟩
                refine ⟨i', hx.1, rfl, fun hin => ?_, fun hin => ?_⟩
                · have ht : CavityTaken img i' := by by_contra hn; exact hx.1.2.1 ⟨hin, hn⟩
                  have := hx.2.symm.trans (b hin ht); cases this; rfl
                · have := hx.2.symm.trans (a hin); cases this; rfl
              · rintro ⟨k, hk, rfl, g1, g2⟩
                have : k = i' := by
                  rcases Nat.lt_trichotomy k i' with hlt | heq | hgt
                  · exact absurd (hx.1.2.2 k hlt) hk.2.1
                  · exact heq
                  · exact absurd (hk.2.2 i' hgt) hx.1.2.1
                subst this
                refine ⟨?_, rfl⟩
                by_cases hin : CavityInRange (imageCavity img k)
                · rw [g1 hin]
                  have ht : CavityTaken img k := by by_contra hn; exact hx.1.2.1 ⟨hin, hn⟩
                  have := hx.2.symm.trans (b hin ht); cases this; rfl
                · rw [g2 hin]; have := hx.2.symm.trans (a hin); cases this; rfl
            | none =>
              have call := cnone.1 c3
              constructor
              · intro h; cases h
              · rintro ⟨k, hk, -⟩; exact absurd (call k hk.1) hk.2.1
    · rw [h2 hr hc]
      simp only [hr, hc, not_true, not_false_iff, false_and, false_or, or_false, true_and, Option.some.injEq,
          Prod.mk.injEq]
      constructor <;> rintro ⟨a, b⟩ <;> exact ⟨a.symm, b.symm⟩
  · rw [h1 hr]
    simp only [hr, not_false_iff, false_and, or_false, true_and, Option.some.injEq, Prod.mk.injEq]
    constructor <;> rintro ⟨a, b⟩ <;> exact ⟨a.symm, b.symm⟩

/-- An image passes validation. -/
theorem validation_none (img : Bytes) (pages : Nat) :
    validationFault img pages = none ↔ ∀ w i, ¬ ImageFails img pages w i := by
  constructor
  · intro h w i hf; rw [(validation_fault img pages w i).2 hf] at h; cases h
  · intro h; cases c : validationFault img pages with
    | none => rfl
    | some x => exact absurd ((validation_fault img pages x.1 x.2).1 c) (h _ _)

/-- What an image that passed validation meets. -/
theorem validation_passed {img : Bytes} {pages : Nat} (h : validationFault img pages = none) :
    HeaderInRange img ∧ HeaderCounted img
      ∧ (∀ j, j < byteAt img 52 → ¬ StepMiscounted img j ∧ StepInRange (natAt img 18 2) (imageStep img j))
      ∧ (∀ j, j < byteAt img 53 → LineInRange (imageLine img j))
      ∧ ∀ j, j < byteAt img 54 → CavityInRange (imageCavity img j) ∧ ¬ CavityTaken img j := by
  obtain ⟨h1, h2, h3⟩ := header_fault img
  unfold validationFault at h
  by_cases hr : HeaderInRange img
  · by_cases hc : HeaderCounted img
    · rw [h3 hr hc] at h
      refine ⟨hr, hc, ?_⟩
      simp only [] at h
      split at h
      · cases h
      · split at h
        · cases h
        · rename_i c1
          split at h
          · cases h
          · rename_i c2
            split at h
            · cases h
            · rename_i c3
              refine ⟨?_, ?_, ?_⟩
              · intro j hj
                have := List.findSome?_eq_none_iff.1 c1 j (List.mem_range.2 hj)
                have : stepFault img j = none := by simpa using this
                obtain ⟨a, b, c⟩ := step_fault img j
                refine ⟨fun hm => ?_, ?_⟩
                · rw [a hm] at this; cases this
                · by_contra hn
                  by_cases hm : StepMiscounted img j
                  · rw [a hm] at this; cases this
                  · rw [b hm hn] at this; cases this
              · intro j hj
                have := List.findSome?_eq_none_iff.1 c2 j (List.mem_range.2 hj)
                have : lineFault img j = none := by simpa using this
                by_contra hn; rw [(line_fault img j).1 hn] at this; cases this
              · intro j hj
                have := List.findSome?_eq_none_iff.1 c3 j (List.mem_range.2 hj)
                have : cavityFault img j = none := by simpa using this
                obtain ⟨a, b, c⟩ := cavity_fault img j
                have hin : CavityInRange (imageCavity img j) := by
                  by_contra hn; rw [a hn] at this; cases this
                refine ⟨hin, fun ht => ?_⟩
                rw [b hin ht] at this; cases this
    · rw [h2 hr hc] at h; cases h
  · rw [h1 hr] at h; cases h

theorem flag_getD (n : Nat) (h : n ≤ 1) : (flagOf n).getD false = decide (n = 1) := by
  rcases n with _ | _ | n <;> simp [flagOf]

theorem step_decoded (img : Bytes) (i : Nat) (h : StepInRange (natAt img 18 2) (imageStep img i)) :
    StepDecoded (imageStep img i) (decodeStep img i) := by
  obtain ⟨hk, hl, -, -, -, -, hm⟩ := h
  have hl' : byteAt (imageStep img i) 1 = loadModeCode ((loadModeOf (byteAt (imageStep img i) 1)).getD .fwdDrive)
      := by
    have e : byteAt (imageStep img i) 1 = 1 ∨ byteAt (imageStep img i) 1 = 2 ∨ byteAt (imageStep img i) 1 = 3
        ∨ byteAt (imageStep img i) 1 = 4 := by omega
    rcases e with e | e | e | e <;> rw [e] <;> rfl
  have hc : byteAt (imageStep img i) 0 = 1 ∨ byteAt (imageStep img i) 0 = 2
      ∨ byteAt (imageStep img i) 0 = 3 := by omega
  rcases hc with hc | hc | hc
  · have hs : stepKindOf (byteAt (stepBytes img i) 0) = some .run := by rw [stepBytes_eq, hc]; rfl
    unfold decodeStep StepDecoded
    simp only [hs, Option.getD_some]
    refine ⟨hc, hl', rfl, rfl, rfl, rfl, ?_, ?_⟩
    · intro h; cases h
    · intro _; exact ⟨rfl, rfl, rfl, rfl, rfl, rfl, rfl, rfl, rfl⟩
  · obtain ⟨-, hv, ha, -, -, -, -, hr, -⟩ := hm hc
    have hs : stepKindOf (byteAt (stepBytes img i) 0) = some .measure := by rw [stepBytes_eq, hc]; rfl
    unfold decodeStep StepDecoded
    simp only [hs, Option.getD_some]
    refine ⟨hc, hl', rfl, rfl, rfl, rfl, ?_, ?_⟩
    · intro _
      refine ⟨rfl, ?_, ?_, rfl, rfl, rfl, rfl, ?_, rfl⟩
      · show byteAt (imageStep img i) 13 = match (vibSetOf (byteAt (imageStep img i) 13)).getD .off with
            | .off => 0 | .a => 1 | .b => 2 | .ab => 3
        have e : byteAt (imageStep img i) 13 = 1 ∨ byteAt (imageStep img i) 13 = 2
            ∨ byteAt (imageStep img i) 13 = 3 := by
          omega
        rcases e with e | e | e <;> rw [e] <;> rfl
      · show (true && (flagOf (byteAt (imageStep img i) 14)).getD false) = _
        rw [flag_getD _ ha, Bool.true_and]
      · show (true && (flagOf (byteAt (imageStep img i) 22)).getD false) = _
        rw [flag_getD _ hr, Bool.true_and]
    · intro h; exact absurd rfl h
  · have hs : stepKindOf (byteAt (stepBytes img i) 0) = some .stop := by rw [stepBytes_eq, hc]; rfl
    unfold decodeStep StepDecoded
    simp only [hs, Option.getD_some]
    refine ⟨hc, hl', rfl, rfl, rfl, rfl, ?_, ?_⟩
    · intro h; cases h
    · intro _; exact ⟨rfl, rfl, rfl, rfl, rfl, rfl, rfl, rfl, rfl⟩

theorem cavity_decoded (img : Bytes) (c : Nat) (h : CavityInRange (imageCavity img c)) :
    CavityDecoded (imageCavity img c) (decodeCavity img c) := by
  obtain ⟨h0, h1, h2, -⟩ := h
  rw [← cavityBytes_eq] at *
  refine ⟨?_, ?_, ?_, by and_intros <;> rfl⟩
  · show byteAt (cavityBytes img c) 0 = cavityIdCode ((cavityIdOf (byteAt (cavityBytes img c) 0)).getD .carrier)
    have e : byteAt (cavityBytes img c) 0 = 1 ∨ byteAt (cavityBytes img c) 0 = 2
        ∨ byteAt (cavityBytes img c) 0 = 3 := by
      omega
    rcases e with e | e | e <;> rw [e] <;> rfl
  · show byteAt (cavityBytes img c) 1 = roleCode ((pressRoleOf (byteAt (cavityBytes img c) 1)).getD .press1)
    have e : byteAt (cavityBytes img c) 1 = 7 ∨ byteAt (cavityBytes img c) 1 = 8
        ∨ byteAt (cavityBytes img c) 1 = 9 := by
      omega
    rcases e with e | e | e <;> rw [e] <;> rfl
  · show byteAt (cavityBytes img c) 2 = roleCode ((tempRoleOf (byteAt (cavityBytes img c) 2)).getD _)
    rcases h2 with e | e <;> rw [e] <;> rfl

/-- A validated image decodes to a recipe with the fields of R176. -/
theorem image_decoded {img : Bytes} {pages : Nat} (h : validationFault img pages = none) :
    ImageDecoded img (decodeRecipe img) := by
  obtain ⟨hr, hc, hs, hl, hv⟩ := validation_passed h
  unfold ImageDecoded
  and_intros
  iterate 4 · rfl
  rotate_left 2
  iterate 15 · rfl
  rotate_right 2
  · have h22 : byteAt img 22 ≤ 2 := hr.2.2.2.1
    have e : byteAt img 22 = 0 ∨ byteAt img 22 = 1 ∨ byteAt img 22 = 2 := by omega
    unfold decodeRecipe
    rcases e with e | e | e <;> simp only [e] <;> rfl
  · exact flag_getD _ hr.2.2.2.2.1
  · simp [decodeRecipe, imgStepCount]
  · simp [decodeRecipe, imgLineCount]
  · simp [decodeRecipe, imgCavityCount]
  · intro i st hi
    simp only [decodeRecipe, List.getElem?_map, Option.map_eq_some_iff] at hi
    obtain ⟨j, hj, rfl⟩ := hi
    obtain ⟨hlt, hji⟩ := List.getElem?_eq_some_iff.1 hj
    rw [List.length_range] at hlt
    rw [List.getElem_range] at hji
    subst hji
    exact step_decoded _ _ (hs i hlt).2
  · intro i st hi
    simp only [decodeRecipe, List.getElem?_map, Option.map_eq_some_iff] at hi
    obtain ⟨j, hj, rfl⟩ := hi
    obtain ⟨hlt, hji⟩ := List.getElem?_eq_some_iff.1 hj
    rw [List.length_range] at hlt
    rw [List.getElem_range] at hji
    subst hji
    exact ⟨rfl, rfl⟩
  · intro i st hi
    simp only [decodeRecipe, List.getElem?_map, Option.map_eq_some_iff] at hi
    obtain ⟨j, hj, rfl⟩ := hi
    obtain ⟨hlt, hji⟩ := List.getElem?_eq_some_iff.1 hj
    rw [List.length_range] at hlt
    rw [List.getElem_range] at hji
    subst hji
    exact cavity_decoded _ _ (hv i hlt).1
  · intro m k hm hk
    have hlen : (decodeRecipe img).lines.length = byteAt img 53 := by simp [decodeRecipe, imgLineCount]
    unfold Recipe.limit
    rw [hlen]
    have hb : m * byteAt img 53 + k < 8 * byteAt img 53 := by
      have : (m + 1) * byteAt img 53 ≤ 8 * byteAt img 53 := Nat.mul_le_mul_right _ (by omega)
      rw [Nat.add_mul] at this; omega
    have hd : (decodeRecipe img).limits = decodeLimits img := rfl
    rw [hd]
    unfold decodeLimits imgLineCount
    rw [List.getD_eq_getElem?_getD, List.getElem?_map, List.getElem?_range hb]
    rfl

/-! ### A validated recipe lies in the ranges of R46 to R51 -/

theorem natAt_two_le (bs : Bytes) (i : Nat) : natAt bs i 2 ≤ 65535 := Nat.le_of_lt_succ (natAt_lt bs i 2)

theorem intAt_range (bs : Bytes) (i : Nat) : -32768 ≤ intAt bs i 2 ∧ intAt bs i 2 ≤ 32767 := by
  have h := natAt_two_le bs i
  unfold intAt signedOf
  split <;> omega

/-- A decoded step of an image step in range is in range. -/
theorem step_checked {m : Nat} {x : Bytes} {st : Step} (h : StepInRange m x) (d : StepDecoded x st) : st.checked m := by
  obtain ⟨-, -, ht, hr, hg, hd, hm⟩ := h
  obtain ⟨dk, -, dt, dr, dg, dd, dm, dn⟩ := d
  refine ⟨dt ▸ ht, dr ▸ hr, ?_, ?_, fun k => ?_, dn⟩
  · rw [dg]
    cases hk : st.kind <;> rw [hk] at dk <;> simp only [reduceCtorEq, if_true, if_false, le_refl] <;>
      exact hg (dk ▸ by decide)
  · rw [dd]
    cases hk : st.kind <;> rw [hk] at dk <;> simp only [reduceCtorEq, if_true, if_false, le_refl]
    exact hd dk
  · obtain ⟨a1, a2, a3, a4, a5, a6, a7, a8, a9⟩ := dm k
    rw [k] at dk
    obtain ⟨b1, b2, -, b4, b5, b6, b7, -, b9⟩ := hm dk
    refine ⟨a1 ▸ b1, ?_, a4 ▸ b4, ?_, a6 ▸ b6, a7 ▸ b7, a9 ▸ b9⟩
    · intro e; rw [e] at a2; simp only at a2; omega
    · rw [a4, a5]; exact b5

/-- A decoded cavity of an image cavity in range is in range. -/
theorem cavity_checked {x : Bytes} {c : Cavity} (h : CavityInRange x) (d : CavityDecoded x c) : c.checked := by
  obtain ⟨-, h1, h2, h3, h4, h5, h6, h7, h8, h9, h10, h11, h12, h13, h14, h15⟩ := h
  obtain ⟨-, d1, d2, d3, d4, d5, d6, d7, d8, d9, d10, d11, d12, d13, d14, d15, d16⟩ := d
  refine ⟨?_, ?_, d3 ▸ h3, d4 ▸ h4, d5 ▸ h5, d6 ▸ h6, d7 ▸ h7, d8 ▸ h8, d9 ▸ h9, d10 ▸ h10, d11 ▸ h11, d12 ▸ h12, d13 ▸ h13,
    d14 ▸ h14, d15 ▸ intAt_range _ _, d16 ▸ h15⟩
  · rw [d1] at h1
    cases hp : c.pressRole <;> rw [hp] at h1 <;> simp [roleCode] at h1 ⊢
  · rw [d2] at h2
    cases ht : c.tempRole <;> rw [ht] at h2 <;> simp [roleCode] at h2 ⊢

/-- A row of bytes without a step miscounted holds at most 8 MEASURE steps (R49 check 3). -/
theorem measure_steps_le {img : Bytes} {n : Nat} (h : ∀ j, j < n → ¬ StepMiscounted img j) :
    ((List.range n).countP fun j => byteAt (imageStep img j) 0 = 2) ≤ 8 := by
  induction n with
  | zero => simp
  | succ n ih =>
    by_cases hn : byteAt (imageStep img n) 0 = 2
    · have := h n (Nat.lt_succ_self n)
      exact Nat.not_lt.1 fun g => this ⟨hn, .inr g⟩
    · rw [List.range_succ, List.countP_append]
      simpa [hn] using ih fun j hj => h j (Nat.lt_succ_of_lt hj)

/-- Fields of the cavities of an image that no later cavity shares with an earlier one are distinct in the recipe. -/
theorem cavities_distinct {α : Type} {n : Nat} (f : Nat → α) (h : ∀ c d, d < c → c < n → f d ≠ f c) :
    ((List.range n).map f).Nodup := by
  refine List.Nodup.map_on (fun x hx y hy e => ?_) List.nodup_range
  rcases Nat.lt_trichotomy x y with g | g | g
  · exact absurd e (h y x g (List.mem_range.1 hy))
  · exact g
  · exact absurd e.symm (h x y g (List.mem_range.1 hx))

/-- Every field of a recipe that validation accepts lies in its range (R46 to R51). -/
theorem recipe_in_range {img : Bytes} {pages : Nat} (h : validationFault img pages = none) : (decodeRecipe img).checked := by
  obtain ⟨hr, hc, hs, hl, hv⟩ := validation_passed h
  have meas (i : Nat) (hi : i < byteAt img 52) : (decodeStep img i).kind = .measure ↔ byteAt (imageStep img i) 0 = 2 := by
    have := (step_decoded img i (hs i hi).2).1
    cases hk : (decodeStep img i).kind <;> rw [hk] at this <;> simp only at this <;> simp [this]
  have cav (i : Nat) (hi : i < byteAt img 54) := cavity_decoded img i (hv i hi).1
  have apart (c d : Nat) (hd : d < c) (hn : c < byteAt img 54) :
      byteAt (imageCavity img d) 0 ≠ byteAt (imageCavity img c) 0 ∧ byteAt (imageCavity img d) 1 ≠ byteAt (imageCavity img c) 1
        ∧ byteAt (imageCavity img d) 3 ≠ byteAt (imageCavity img c) 3 := by
    refine ⟨fun e => (hv c hn).2 ⟨d, hd, .inl e⟩, fun e => (hv c hn).2 ⟨d, hd, .inr (.inl e)⟩,
      fun e => (hv c hn).2 ⟨d, hd, .inr (.inr e)⟩⟩
  have count : (decodeRecipe img).measureCount
      = (List.range (byteAt img 52)).countP fun j => byteAt (imageStep img j) 0 = 2 := by
    unfold Recipe.measureCount decodeRecipe imgStepCount
    rw [List.countP_map]
    refine List.countP_congr fun i hi => ?_
    simpa using meas i (List.mem_range.1 hi)
  refine ⟨?header, ?_, ?_, ?_, ?order, ?steps, ?_, ?lines, ?labels, ⟨?_, ?limits⟩, ?cavities, ?id, ?press, ?pair⟩
  case header =>
    obtain ⟨r0, r1, r2, -, -, r5, r6, r7, r8, r9, r10, r11, r12, r13, r14, r15, r16, r17⟩ := hr
    refine ⟨?_, r0, natAt_two_le _ _, ⟨r1, natAt_two_le _ _⟩, r2, r5, r6, r7, r8, r9, r10,
      ⟨(intAt_range _ _).1, r11, (intAt_range _ _).2⟩, r12, r13, r14, r15, r16, r17, Nat.le_of_lt_succ (byteAt_lt _ _)⟩
    have : 52 < img.length := by
      by_contra hn
      have h0 : byteAt img 52 = 0 := by
        unfold byteAt; rw [List.getD_eq_getElem?_getD, List.getElem?_eq_none (by omega)]; rfl
      have := hc.1.1
      omega
    show (img.take 16).length = 16
    rw [List.length_take]; omega
  case order =>
    have e : (decodeRecipe img).leakOrder = (leakOrderOf (byteAt img 22)).getD .none := rfl
    have l : (decodeRecipe img).cavities = [] ↔ byteAt img 54 = 0 := by simp [decodeRecipe, imgCavityCount]
    rw [l, ← hc.2.2.2, e]
    have h22 : byteAt img 22 = 0 ∨ byteAt img 22 = 1 ∨ byteAt img 22 = 2 := by have := hr.2.2.2.1; omega
    rcases h22 with g | g | g <;> rw [g] <;> decide
  case steps =>
    intro st hst
    obtain ⟨i, hi, rfl⟩ := List.mem_map.1 hst
    exact step_checked (hs i (List.mem_range.1 hi)).2 (step_decoded img i (hs i (List.mem_range.1 hi)).2)
  case lines =>
    rw [count]
    intro hp hnil
    obtain ⟨i, hi, h2⟩ := List.countP_pos_iff.1 hp
    have hz : byteAt img 53 = 0 := by simpa [decodeRecipe, imgLineCount] using hnil
    exact (hs i (List.mem_range.1 hi)).1 ⟨of_decide_eq_true h2, .inl hz⟩
  case labels =>
    intro l hmem
    obtain ⟨k, hk, rfl⟩ := List.mem_map.1 hmem
    have := hl k (List.mem_range.1 hk)
    exact ⟨⟨this.1, natAt_two_le _ _⟩, List.length_take_le _ _, this.2⟩
  case limits =>
    intro v hmem
    obtain ⟨j, -, rfl⟩ := List.mem_map.1 hmem
    exact natAt_two_le _ _
  case cavities =>
    intro c hmem
    obtain ⟨i, hi, rfl⟩ := List.mem_map.1 hmem
    exact cavity_checked (hv i (List.mem_range.1 hi)).1 (cav i (List.mem_range.1 hi))
  case id =>
    show ((List.map (decodeCavity img) _).map (·.id)).Nodup
    rw [List.map_map]
    refine cavities_distinct _ fun c d hd hn e => (apart c d hd hn).1 ?_
    rw [(cav d (hd.trans hn)).1, (cav c hn).1]; exact congrArg cavityIdCode e
  case press =>
    show ((List.map (decodeCavity img) _).map (·.pressRole)).Nodup
    rw [List.map_map]
    refine cavities_distinct _ fun c d hd hn e => (apart c d hd hn).2.1 ?_
    rw [(cav d (hd.trans hn)).2.1, (cav c hn).2.1]; exact congrArg roleCode e
  case pair =>
    show ((List.map (decodeCavity img) _).map (·.pair)).Nodup
    rw [List.map_map]
    refine cavities_distinct _ fun c d hd hn e => (apart c d hd hn).2.2 ?_
    rw [← (cav d (hd.trans hn)).2.2.2.1, ← (cav c hn).2.2.2.1]; exact e
  · simpa [decodeRecipe, imgStepCount, InRange] using hc.1
  · simpa [decodeRecipe, imgLineCount] using hc.2.1
  · simpa [decodeRecipe, imgCavityCount] using hc.2.2.1
  · rw [count]; exact measure_steps_le fun j hj => (hs j hj).1
  · simp [decodeRecipe, decodeLimits, imgLineCount]

end Sys2Proof.Machine
end

