-- ==== Sys2Proof/Laws/Layouts.lean ====
section
/-! SUPPORT. What the serialized forms hold: a record's bytes by the offsets of R179, and the status block by the fields
of R174. -/

namespace Sys2Proof.Machine

theorem leBytes_len (n v : Nat) : (leBytes n v).length = n := by
  induction n generalizing v with
  | zero => rfl
  | succ n ih => simp [leBytes, ih]
theorem padText_len (n : Nat) (bs : Bytes) : (padText n bs).length = n := by simp [padText]

theorem flatten_map_eq {α β} (f : α → List β) (l : List α) : (l.map f).flatten = l.flatMap f := by
  simp [List.flatMap]

theorem line_laid (l : LineResult) : lineResultBytes l = [BitVec.ofNat 8 (lineStateCode l.state),
    if l.lane = .a then 1 else 2] ++ leBytes 2 l.limit ++ leBytes 4 l.peak
        ++ leBytes 4 (l.ambient.getD 0) := by
  cases h : l.lane <;> simp [lineResultBytes, vibLaneCode, h]

theorem noise_laid (n : NoiseEntry) : noiseEntryBytes n = n.laidOut := by
  unfold noiseEntryBytes NoiseEntry.laidOut
  rw [flatten_map_eq]
  have : lineResultBytes = fun l : LineResult => [BitVec.ofNat 8 (lineStateCode l.state),
      if l.lane = .a then 1 else 2] ++ leBytes 2 l.limit ++ leBytes 4 l.peak
        ++ leBytes 4 (l.ambient.getD 0) := funext line_laid
  rw [this]
  rcases n.ambient with _ | _ | _ <;> rfl

theorem leak_laid (l : LeakEntry) : leakEntryBytes l = l.laidOut := by
  unfold leakEntryBytes LeakEntry.laidOut
  cases l.p0 <;> cases l.p1 <;> rfl

/-- The bytes of a record are laid out by the offsets of R179. -/
theorem record_laid (i : RecIx) (r : AxleRecord) : RecordLaidOut i r (recordBytes i r) := by
  have hp : ∀ n bs, (padText n bs).length = n := padText_len
  have hl : ∀ n v, (leBytes n v).length = n := leBytes_len
  have hs : ∀ n v, (signedBytes n v).length = n := fun n v => leBytes_len _ _
  have h1 : recordBytes i r = [BitVec.ofNat 8 i.val, match r.state with | .opened => 1 | .queued => 2 | .sent => 3]
      ++ (BitVec.ofNat 8 r.serial.length :: padText 20 r.serial)
      ++ [BitVec.ofNat 8 r.bay.val, BitVec.ofNat 8 r.slot.val]
    ++ padText 16 r.name ++ leBytes 2 r.version ++ leBytes 4 r.startTime.toNat ++ leBytes 4 (r.endTime.getD 0).toNat
    ++ [BitVec.ofNat 8 ((if r.endTime.isSome then 1 else 0) + (if r.summary.maxOil.isSome then 2 else 0)
          + if r.summary.maxTorque.isSome then 4 else 0),
       match r.verdict with
         | none => 0 | some .pass => 1 | some .fail => 2 | some .incomplete => 3 | some .aborted => 4,
       match r.reasons with
         | none => 0
         | some x =>
           BitVec.ofNat 8 ((if x.noise then 1 else 0) + (if x.leak then 2 else 0) + if x.grossLeak then 4 else 0),
       BitVec.ofNat 8 (causeCode r.cause), BitVec.ofNat 8 r.summary.stepsCompleted]
    ++ leBytes 4 r.summary.driveTime ++ leBytes 4 r.summary.holdTime
    ++ signedBytes 2 (r.summary.maxOil.getD 0) ++ leBytes 2 (r.summary.maxTorque.getD 0)
    ++ [BitVec.ofNat 8 r.noise.length, BitVec.ofNat 8 r.leaks.length, 0, 0]
    ++ r.noise.flatMap NoiseEntry.laidOut ++ r.leaks.flatMap LeakEntry.laidOut := by
    unfold recordBytes serialBytes
    rw [flatten_map_eq, flatten_map_eq, show noiseEntryBytes = NoiseEntry.laidOut from funext noise_laid,
      show leakEntryBytes = LeakEntry.laidOut from funext leak_laid]
    congr 9 <;> (try congr 1) <;> (try congr 4) <;>
      first
      | (cases r.state <;> rfl)
      | (cases r.endTime <;> cases r.summary.maxOil <;> cases r.summary.maxTorque <;> rfl)
      | (cases r.endTime; all_goals rfl)
      | (rcases r.verdict with _ | _ | _ | _ | _ <;> rfl)
      | (rcases r.reasons with _ | ⟨_ | _, _ | _, _ | _⟩ <;> rfl)
  rw [h1]
  unfold RecordLaidOut
  have e1 : (r.serial ++ List.replicate 20 0x20).take 20 = padText 20 r.serial := rfl
  have e2 : (r.name ++ List.replicate 16 0x20).take 16 = padText 16 r.name := rfl
  rw [e1, e2]
  have a1 := hp 20 r.serial; have a2 := hp 16 r.name
  have a3 := hl 2 r.version; have a4 := hl 4 r.startTime.toNat; have a5 := hl 4 (r.endTime.getD 0).toNat
  have a6 := hl 4 r.summary.driveTime; have a7 := hl 4 r.summary.holdTime
  have a8 := hs 2 (r.summary.maxOil.getD 0); have a9 := hl 2 (r.summary.maxTorque.getD 0)
  generalize padText 20 r.serial = A1 at *
  generalize padText 16 r.name = A2 at *
  generalize leBytes 2 r.version = A3 at *
  generalize leBytes 4 r.startTime.toNat = A4 at *
  generalize leBytes 4 (r.endTime.getD 0).toNat = A5 at *
  generalize leBytes 4 r.summary.driveTime = A6 at *
  generalize leBytes 4 r.summary.holdTime = A7 at *
  generalize signedBytes 2 (r.summary.maxOil.getD 0) = A8 at *
  generalize leBytes 2 (r.summary.maxTorque.getD 0) = A9 at *
  simp [List.drop_append, List.take_append, List.drop_eq_nil_of_le, a1, a2, a3, a4, a5, a6, a7, a8, a9]
  all_goals exact ⟨rfl, rfl, rfl⟩

/-! ### The status block -/

theorem countP_iff_none {n : Nat} {α} (v : Vector (Option α) n) : v.toList.countP (·.isNone) =
    (List.finRange n).countP fun l => (v.get l).isNone := by
  have : v.toList = (List.finRange n).map fun i => v.get i := by
    apply List.ext_getElem <;> simp [Vector.get]
  rw [this, List.countP_map]; rfl

theorem validSlots_eq (s : State) : validSlots s = ((List.finRange 6).map fun k => if (s.slot k).state =
    .valid then 2 ^ k.val else 0).sum := by
  have h : s.rbk.toList = (List.finRange 6).map fun i => s.rbk.get i := by
    apply List.ext_getElem <;> simp [Vector.get]
  have key : ∀ (p : Prop) [Decidable p] (n : Nat), (if p then n else 0) = n * (decide p).toNat := by
    intro p _ n; by_cases hp : p <;> simp [hp]
  have key2 : ∀ (l : List Bool), flagsNat l = l.foldr (fun b n => b.toNat + 2 * n) 0 := by
    intro l; induction l with
    | nil => rfl
    | cons b bs ih => simp only [flagsNat, ih, List.foldr_cons]; cases b <;> rfl
  unfold validSlots State.slot
  rw [h, key2]
  simp only [key, List.finRange_succ, List.finRange_zero, List.map_cons, List.map_nil, List.sum_cons, List.sum_nil,
    List.foldr_cons, List.foldr_nil, Fin.val_succ, Fin.val_zero]
  have e : ∀ k : SlotIx, ((s.rbk.get k).state == SlotState.valid) = decide ((s.rbk.get k).state =
      SlotState.valid) := by
    intro k; cases (s.rbk.get k).state <;> rfl
  simp only [e]
  ring

theorem baySection_length (s : State) (b : Bay) : (baySection s b).length = 12 := by
  simp [baySection, leBytes_len, signedBytes]
theorem cellSection_length (s : State) : (cellSection s).length = 8 := by
  simp [cellSection, leBytes_len]

/-- A bay section shows its bay (R74, R174). -/
theorem bay_shown (s : State) (b : Bay) : BayShown s b (baySection s b) := by
  refine ⟨(s.ltuView b).1, ltuPhaseCode (s.ltuView b).2, (s.bay b).spu.steady, ?_, ?_, ?_, ?_⟩
  · intro h; have : s.showsLtu b = true := by simpa [State.showsLtu, State.cavityShown] using h
    simp [State.ltuView, this]
  · intro h; have : s.showsLtu b = false := by
      rw [← Bool.not_eq_true]; simpa [State.showsLtu, State.cavityShown] using h
    simp [State.ltuView, this, ltuPhaseCode]
  · unfold Spu.steady; cases (s.bay b).spu.params <;> simp
  · unfold baySection
    have h1 : s.testing b = decide ((s.bay b).ctl.state = .running ∨ (s.bay b).ctl.state = .stopping) := by
      unfold State.testing; cases (s.bay b).ctl.state <;> rfl
    have h2 : (s.risView b).1 = if (s.bay b).ris.phase = .idle then 0 else (s.bay b).ris.stepIndex.getD 0 := by
      by_cases h : (s.bay b).ris.phase = .idle <;> simp [State.risView, State.showsRis, h]
    have h3 : risPhaseCode (s.risView b).2 = risPhaseCode (s.bay b).ris.phase := by
      by_cases h : (s.bay b).ris.phase = .idle <;> simp [State.risView, State.showsRis, h]
    dsimp only
    rw [h2, h3, h1]
    unfold alarmWord flagBit
    simp only [decide_eq_true_eq]
    congr 3

/-- The status block shows the state (R74, R174). -/
theorem status_shown (s : State) : StatusShown s (statusBlock s) := by
  have h := baySection_length s
  have hc := cellSection_length s
  unfold StatusShown statusBlock
  refine ⟨by simp [h, hc], ?_, ?_⟩
  · intro b
    have e := bay_shown s b
    have : (List.take 12 (List.drop (12 * b.val) (baySection s 0 ++ baySection s 1 ++ baySection s 2
        ++ baySection s 3 ++ cellSection s))) = baySection s b := by
      fin_cases b <;> simp [List.drop_append, List.drop_eq_nil_of_le, h]
    rw [this]; exact e
  · have : (List.drop 48 (baySection s 0 ++ baySection s 1 ++ baySection s 2 ++ baySection s 3
      ++ cellSection s)) = cellSection s := by
      simp [List.drop_append, List.drop_eq_nil_of_le, h]
    rw [this]
    unfold CellShown cellSection
    have e1 : counterAlarm s = decide (∃ i : Fin 8, (s.stc.counters.get i).alarm = true) := by
      unfold counterAlarm
      rw [Bool.eq_iff_iff, decide_eq_true_eq, List.any_eq_true]
      constructor
      · rintro ⟨c, hc, ha⟩
        obtain ⟨i, hi, rfl⟩ := Vector.mem_iff_getElem.1 (Vector.mem_toList_iff.1 hc)
        exact ⟨⟨i, hi⟩, ha⟩
      · rintro ⟨i, ha⟩
        exact ⟨_, Vector.mem_toList_iff.2 (Vector.getElem_mem i.isLt), ha⟩
    rw [e1, validSlots_eq]
    unfold State.freeLanes State.freeRecords flagBit
    rw [countP_iff_none, countP_iff_none]
    simp only [decide_eq_true_eq]
    congr 1

end Sys2Proof.Machine
end

