-- ==== Sys2Proof/Laws/State.lean ====
section
/-! SUPPORT. One lemma per field of State and update: what the update leaves as it stands, and what it makes of the field it
writes. -/

namespace Sys2Proof.Machine

variable (s : State)

/-! ### updBay -/

@[simp] theorem State.updBay_pending (b : Bay) (f : BayUnit → BayUnit) : (s.updBay b f).pending = s.pending := rfl
@[simp] theorem State.updBay_tbs (b : Bay) (f : BayUnit → BayUnit) : (s.updBay b f).tbs = s.tbs := rfl
@[simp] theorem State.updBay_lfe (b : Bay) (f : BayUnit → BayUnit) : (s.updBay b f).lfe = s.lfe := rfl
@[simp] theorem State.updBay_ports (b : Bay) (f : BayUnit → BayUnit) : (s.updBay b f).ports = s.ports := rfl
@[simp] theorem State.updBay_chx (b : Bay) (f : BayUnit → BayUnit) : (s.updBay b f).chx = s.chx := rfl
@[simp] theorem State.updBay_oae (b : Bay) (f : BayUnit → BayUnit) : (s.updBay b f).oae = s.oae := rfl
@[simp] theorem State.updBay_rbk (b : Bay) (f : BayUnit → BayUnit) : (s.updBay b f).rbk = s.rbk := rfl
@[simp] theorem State.updBay_art (b : Bay) (f : BayUnit → BayUnit) : (s.updBay b f).art = s.art := rfl
@[simp] theorem State.updBay_rsp (b : Bay) (f : BayUnit → BayUnit) : (s.updBay b f).rsp = s.rsp := rfl
@[simp] theorem State.updBay_stc (b : Bay) (f : BayUnit → BayUnit) : (s.updBay b f).stc = s.stc := rfl
@[simp] theorem State.updBay_mga (b : Bay) (f : BayUnit → BayUnit) : (s.updBay b f).mga = s.mga := rfl

/-! ### updCtl -/

@[simp] theorem State.updCtl_pending (b : Bay) (f : BayCtl → BayCtl) : (s.updCtl b f).pending = s.pending := rfl
@[simp] theorem State.updCtl_tbs (b : Bay) (f : BayCtl → BayCtl) : (s.updCtl b f).tbs = s.tbs := rfl
@[simp] theorem State.updCtl_lfe (b : Bay) (f : BayCtl → BayCtl) : (s.updCtl b f).lfe = s.lfe := rfl
@[simp] theorem State.updCtl_ports (b : Bay) (f : BayCtl → BayCtl) : (s.updCtl b f).ports = s.ports := rfl
@[simp] theorem State.updCtl_chx (b : Bay) (f : BayCtl → BayCtl) : (s.updCtl b f).chx = s.chx := rfl
@[simp] theorem State.updCtl_oae (b : Bay) (f : BayCtl → BayCtl) : (s.updCtl b f).oae = s.oae := rfl
@[simp] theorem State.updCtl_rbk (b : Bay) (f : BayCtl → BayCtl) : (s.updCtl b f).rbk = s.rbk := rfl
@[simp] theorem State.updCtl_art (b : Bay) (f : BayCtl → BayCtl) : (s.updCtl b f).art = s.art := rfl
@[simp] theorem State.updCtl_rsp (b : Bay) (f : BayCtl → BayCtl) : (s.updCtl b f).rsp = s.rsp := rfl
@[simp] theorem State.updCtl_stc (b : Bay) (f : BayCtl → BayCtl) : (s.updCtl b f).stc = s.stc := rfl
@[simp] theorem State.updCtl_mga (b : Bay) (f : BayCtl → BayCtl) : (s.updCtl b f).mga = s.mga := rfl

/-! ### updSpu -/

@[simp] theorem State.updSpu_pending (b : Bay) (f : Spu → Spu) : (s.updSpu b f).pending = s.pending := rfl
@[simp] theorem State.updSpu_tbs (b : Bay) (f : Spu → Spu) : (s.updSpu b f).tbs = s.tbs := rfl
@[simp] theorem State.updSpu_lfe (b : Bay) (f : Spu → Spu) : (s.updSpu b f).lfe = s.lfe := rfl
@[simp] theorem State.updSpu_ports (b : Bay) (f : Spu → Spu) : (s.updSpu b f).ports = s.ports := rfl
@[simp] theorem State.updSpu_chx (b : Bay) (f : Spu → Spu) : (s.updSpu b f).chx = s.chx := rfl
@[simp] theorem State.updSpu_oae (b : Bay) (f : Spu → Spu) : (s.updSpu b f).oae = s.oae := rfl
@[simp] theorem State.updSpu_rbk (b : Bay) (f : Spu → Spu) : (s.updSpu b f).rbk = s.rbk := rfl
@[simp] theorem State.updSpu_art (b : Bay) (f : Spu → Spu) : (s.updSpu b f).art = s.art := rfl
@[simp] theorem State.updSpu_rsp (b : Bay) (f : Spu → Spu) : (s.updSpu b f).rsp = s.rsp := rfl
@[simp] theorem State.updSpu_stc (b : Bay) (f : Spu → Spu) : (s.updSpu b f).stc = s.stc := rfl
@[simp] theorem State.updSpu_mga (b : Bay) (f : Spu → Spu) : (s.updSpu b f).mga = s.mga := rfl

/-! ### updRis -/

@[simp] theorem State.updRis_pending (b : Bay) (f : Ris → Ris) : (s.updRis b f).pending = s.pending := rfl
@[simp] theorem State.updRis_tbs (b : Bay) (f : Ris → Ris) : (s.updRis b f).tbs = s.tbs := rfl
@[simp] theorem State.updRis_lfe (b : Bay) (f : Ris → Ris) : (s.updRis b f).lfe = s.lfe := rfl
@[simp] theorem State.updRis_ports (b : Bay) (f : Ris → Ris) : (s.updRis b f).ports = s.ports := rfl
@[simp] theorem State.updRis_chx (b : Bay) (f : Ris → Ris) : (s.updRis b f).chx = s.chx := rfl
@[simp] theorem State.updRis_oae (b : Bay) (f : Ris → Ris) : (s.updRis b f).oae = s.oae := rfl
@[simp] theorem State.updRis_rbk (b : Bay) (f : Ris → Ris) : (s.updRis b f).rbk = s.rbk := rfl
@[simp] theorem State.updRis_art (b : Bay) (f : Ris → Ris) : (s.updRis b f).art = s.art := rfl
@[simp] theorem State.updRis_rsp (b : Bay) (f : Ris → Ris) : (s.updRis b f).rsp = s.rsp := rfl
@[simp] theorem State.updRis_stc (b : Bay) (f : Ris → Ris) : (s.updRis b f).stc = s.stc := rfl
@[simp] theorem State.updRis_mga (b : Bay) (f : Ris → Ris) : (s.updRis b f).mga = s.mga := rfl

/-! ### updLtu -/

@[simp] theorem State.updLtu_pending (b : Bay) (f : Ltu → Ltu) : (s.updLtu b f).pending = s.pending := rfl
@[simp] theorem State.updLtu_tbs (b : Bay) (f : Ltu → Ltu) : (s.updLtu b f).tbs = s.tbs := rfl
@[simp] theorem State.updLtu_lfe (b : Bay) (f : Ltu → Ltu) : (s.updLtu b f).lfe = s.lfe := rfl
@[simp] theorem State.updLtu_ports (b : Bay) (f : Ltu → Ltu) : (s.updLtu b f).ports = s.ports := rfl
@[simp] theorem State.updLtu_chx (b : Bay) (f : Ltu → Ltu) : (s.updLtu b f).chx = s.chx := rfl
@[simp] theorem State.updLtu_oae (b : Bay) (f : Ltu → Ltu) : (s.updLtu b f).oae = s.oae := rfl
@[simp] theorem State.updLtu_rbk (b : Bay) (f : Ltu → Ltu) : (s.updLtu b f).rbk = s.rbk := rfl
@[simp] theorem State.updLtu_art (b : Bay) (f : Ltu → Ltu) : (s.updLtu b f).art = s.art := rfl
@[simp] theorem State.updLtu_rsp (b : Bay) (f : Ltu → Ltu) : (s.updLtu b f).rsp = s.rsp := rfl
@[simp] theorem State.updLtu_stc (b : Bay) (f : Ltu → Ltu) : (s.updLtu b f).stc = s.stc := rfl
@[simp] theorem State.updLtu_mga (b : Bay) (f : Ltu → Ltu) : (s.updLtu b f).mga = s.mga := rfl

/-! ### setWindow -/

@[simp] theorem State.setWindow_pending (b : Bay) (w : Option Window) : (s.setWindow b w).pending = s.pending := rfl
@[simp] theorem State.setWindow_tbs (b : Bay) (w : Option Window) : (s.setWindow b w).tbs = s.tbs := rfl
@[simp] theorem State.setWindow_lfe (b : Bay) (w : Option Window) : (s.setWindow b w).lfe = s.lfe := rfl
@[simp] theorem State.setWindow_ports (b : Bay) (w : Option Window) : (s.setWindow b w).ports = s.ports := rfl
@[simp] theorem State.setWindow_chx (b : Bay) (w : Option Window) : (s.setWindow b w).chx = s.chx := rfl
@[simp] theorem State.setWindow_oae (b : Bay) (w : Option Window) : (s.setWindow b w).oae = s.oae := rfl
@[simp] theorem State.setWindow_rbk (b : Bay) (w : Option Window) : (s.setWindow b w).rbk = s.rbk := rfl
@[simp] theorem State.setWindow_art (b : Bay) (w : Option Window) : (s.setWindow b w).art = s.art := rfl
@[simp] theorem State.setWindow_rsp (b : Bay) (w : Option Window) : (s.setWindow b w).rsp = s.rsp := rfl
@[simp] theorem State.setWindow_stc (b : Bay) (w : Option Window) : (s.setWindow b w).stc = s.stc := rfl
@[simp] theorem State.setWindow_mga (b : Bay) (w : Option Window) : (s.setWindow b w).mga = s.mga := rfl

/-! ### latchAlarm -/

@[simp] theorem State.latchAlarm_pending (b : Bay) (a : BayAlarm) : (s.latchAlarm b a).pending = s.pending := rfl
@[simp] theorem State.latchAlarm_tbs (b : Bay) (a : BayAlarm) : (s.latchAlarm b a).tbs = s.tbs := rfl
@[simp] theorem State.latchAlarm_lfe (b : Bay) (a : BayAlarm) : (s.latchAlarm b a).lfe = s.lfe := rfl
@[simp] theorem State.latchAlarm_ports (b : Bay) (a : BayAlarm) : (s.latchAlarm b a).ports = s.ports := rfl
@[simp] theorem State.latchAlarm_chx (b : Bay) (a : BayAlarm) : (s.latchAlarm b a).chx = s.chx := rfl
@[simp] theorem State.latchAlarm_oae (b : Bay) (a : BayAlarm) : (s.latchAlarm b a).oae = s.oae := rfl
@[simp] theorem State.latchAlarm_rbk (b : Bay) (a : BayAlarm) : (s.latchAlarm b a).rbk = s.rbk := rfl
@[simp] theorem State.latchAlarm_art (b : Bay) (a : BayAlarm) : (s.latchAlarm b a).art = s.art := rfl
@[simp] theorem State.latchAlarm_rsp (b : Bay) (a : BayAlarm) : (s.latchAlarm b a).rsp = s.rsp := rfl
@[simp] theorem State.latchAlarm_stc (b : Bay) (a : BayAlarm) : (s.latchAlarm b a).stc = s.stc := rfl
@[simp] theorem State.latchAlarm_mga (b : Bay) (a : BayAlarm) : (s.latchAlarm b a).mga = s.mga := rfl

/-! ### latchCell -/

@[simp] theorem State.latchCell_pending (a : CellAlarm) : (s.latchCell a).pending = s.pending := rfl
@[simp] theorem State.latchCell_tbs (a : CellAlarm) : (s.latchCell a).tbs = s.tbs := rfl
@[simp] theorem State.latchCell_lfe (a : CellAlarm) : (s.latchCell a).lfe = s.lfe := rfl
@[simp] theorem State.latchCell_ports (a : CellAlarm) : (s.latchCell a).ports = s.ports := rfl
@[simp] theorem State.latchCell_chx (a : CellAlarm) : (s.latchCell a).chx = s.chx := rfl
@[simp] theorem State.latchCell_bays (a : CellAlarm) : (s.latchCell a).bays = s.bays := rfl
@[simp] theorem State.latchCell_oae (a : CellAlarm) : (s.latchCell a).oae = s.oae := rfl
@[simp] theorem State.latchCell_rbk (a : CellAlarm) : (s.latchCell a).rbk = s.rbk := rfl
@[simp] theorem State.latchCell_art (a : CellAlarm) : (s.latchCell a).art = s.art := rfl
@[simp] theorem State.latchCell_rsp (a : CellAlarm) : (s.latchCell a).rsp = s.rsp := rfl
@[simp] theorem State.latchCell_stc (a : CellAlarm) : (s.latchCell a).stc = s.stc := rfl

/-! ### emit -/

@[simp] theorem State.emit_pending (e : CounterEvt) : (s.emit e).pending = s.pending := rfl
@[simp] theorem State.emit_tbs (e : CounterEvt) : (s.emit e).tbs = s.tbs := rfl
@[simp] theorem State.emit_lfe (e : CounterEvt) : (s.emit e).lfe = s.lfe := rfl
@[simp] theorem State.emit_ports (e : CounterEvt) : (s.emit e).ports = s.ports := rfl
@[simp] theorem State.emit_chx (e : CounterEvt) : (s.emit e).chx = s.chx := rfl
@[simp] theorem State.emit_bays (e : CounterEvt) : (s.emit e).bays = s.bays := rfl
@[simp] theorem State.emit_oae (e : CounterEvt) : (s.emit e).oae = s.oae := rfl
@[simp] theorem State.emit_rbk (e : CounterEvt) : (s.emit e).rbk = s.rbk := rfl
@[simp] theorem State.emit_art (e : CounterEvt) : (s.emit e).art = s.art := rfl
@[simp] theorem State.emit_rsp (e : CounterEvt) : (s.emit e).rsp = s.rsp := rfl
@[simp] theorem State.emit_mga (e : CounterEvt) : (s.emit e).mga = s.mga := rfl

/-! ### emitBay -/

@[simp] theorem State.emitBay_pending (ev : CounterEvent) (b : Bay) (r : Option ResultName) : (s.emitBay ev b r).pending = s.pending := rfl
@[simp] theorem State.emitBay_tbs (ev : CounterEvent) (b : Bay) (r : Option ResultName) : (s.emitBay ev b r).tbs = s.tbs := rfl
@[simp] theorem State.emitBay_lfe (ev : CounterEvent) (b : Bay) (r : Option ResultName) : (s.emitBay ev b r).lfe = s.lfe := rfl
@[simp] theorem State.emitBay_ports (ev : CounterEvent) (b : Bay) (r : Option ResultName) : (s.emitBay ev b r).ports = s.ports := rfl
@[simp] theorem State.emitBay_chx (ev : CounterEvent) (b : Bay) (r : Option ResultName) : (s.emitBay ev b r).chx = s.chx := rfl
@[simp] theorem State.emitBay_bays (ev : CounterEvent) (b : Bay) (r : Option ResultName) : (s.emitBay ev b r).bays = s.bays := rfl
@[simp] theorem State.emitBay_oae (ev : CounterEvent) (b : Bay) (r : Option ResultName) : (s.emitBay ev b r).oae = s.oae := rfl
@[simp] theorem State.emitBay_rbk (ev : CounterEvent) (b : Bay) (r : Option ResultName) : (s.emitBay ev b r).rbk = s.rbk := rfl
@[simp] theorem State.emitBay_art (ev : CounterEvent) (b : Bay) (r : Option ResultName) : (s.emitBay ev b r).art = s.art := rfl
@[simp] theorem State.emitBay_rsp (ev : CounterEvent) (b : Bay) (r : Option ResultName) : (s.emitBay ev b r).rsp = s.rsp := rfl
@[simp] theorem State.emitBay_mga (ev : CounterEvent) (b : Bay) (r : Option ResultName) : (s.emitBay ev b r).mga = s.mga := rfl

/-! ### frameError -/

@[simp] theorem State.frameError_pending : (s.frameError).pending = s.pending := rfl
@[simp] theorem State.frameError_tbs : (s.frameError).tbs = s.tbs := rfl
@[simp] theorem State.frameError_lfe : (s.frameError).lfe = s.lfe := rfl
@[simp] theorem State.frameError_ports : (s.frameError).ports = s.ports := rfl
@[simp] theorem State.frameError_chx : (s.frameError).chx = s.chx := rfl
@[simp] theorem State.frameError_bays : (s.frameError).bays = s.bays := rfl
@[simp] theorem State.frameError_oae : (s.frameError).oae = s.oae := rfl
@[simp] theorem State.frameError_rbk : (s.frameError).rbk = s.rbk := rfl
@[simp] theorem State.frameError_art : (s.frameError).art = s.art := rfl
@[simp] theorem State.frameError_rsp : (s.frameError).rsp = s.rsp := rfl
@[simp] theorem State.frameError_mga : (s.frameError).mga = s.mga := rfl

/-! ### pin -/

@[simp] theorem State.pin_pending (k : SlotIx) : (s.pin k).pending = s.pending := rfl
@[simp] theorem State.pin_tbs (k : SlotIx) : (s.pin k).tbs = s.tbs := rfl
@[simp] theorem State.pin_lfe (k : SlotIx) : (s.pin k).lfe = s.lfe := rfl
@[simp] theorem State.pin_ports (k : SlotIx) : (s.pin k).ports = s.ports := rfl
@[simp] theorem State.pin_chx (k : SlotIx) : (s.pin k).chx = s.chx := rfl
@[simp] theorem State.pin_bays (k : SlotIx) : (s.pin k).bays = s.bays := rfl
@[simp] theorem State.pin_oae (k : SlotIx) : (s.pin k).oae = s.oae := rfl
@[simp] theorem State.pin_art (k : SlotIx) : (s.pin k).art = s.art := rfl
@[simp] theorem State.pin_rsp (k : SlotIx) : (s.pin k).rsp = s.rsp := rfl
@[simp] theorem State.pin_stc (k : SlotIx) : (s.pin k).stc = s.stc := rfl
@[simp] theorem State.pin_mga (k : SlotIx) : (s.pin k).mga = s.mga := rfl

/-! ### unpin -/

@[simp] theorem State.unpin_pending (k : SlotIx) : (s.unpin k).pending = s.pending := rfl
@[simp] theorem State.unpin_tbs (k : SlotIx) : (s.unpin k).tbs = s.tbs := rfl
@[simp] theorem State.unpin_lfe (k : SlotIx) : (s.unpin k).lfe = s.lfe := rfl
@[simp] theorem State.unpin_ports (k : SlotIx) : (s.unpin k).ports = s.ports := rfl
@[simp] theorem State.unpin_chx (k : SlotIx) : (s.unpin k).chx = s.chx := rfl
@[simp] theorem State.unpin_bays (k : SlotIx) : (s.unpin k).bays = s.bays := rfl
@[simp] theorem State.unpin_oae (k : SlotIx) : (s.unpin k).oae = s.oae := rfl
@[simp] theorem State.unpin_art (k : SlotIx) : (s.unpin k).art = s.art := rfl
@[simp] theorem State.unpin_rsp (k : SlotIx) : (s.unpin k).rsp = s.rsp := rfl
@[simp] theorem State.unpin_stc (k : SlotIx) : (s.unpin k).stc = s.stc := rfl
@[simp] theorem State.unpin_mga (k : SlotIx) : (s.unpin k).mga = s.mga := rfl

/-! ### setSlot -/

@[simp] theorem State.setSlot_pending (k : SlotIx) (x : Slot) : (s.setSlot k x).pending = s.pending := rfl
@[simp] theorem State.setSlot_tbs (k : SlotIx) (x : Slot) : (s.setSlot k x).tbs = s.tbs := rfl
@[simp] theorem State.setSlot_lfe (k : SlotIx) (x : Slot) : (s.setSlot k x).lfe = s.lfe := rfl
@[simp] theorem State.setSlot_ports (k : SlotIx) (x : Slot) : (s.setSlot k x).ports = s.ports := rfl
@[simp] theorem State.setSlot_chx (k : SlotIx) (x : Slot) : (s.setSlot k x).chx = s.chx := rfl
@[simp] theorem State.setSlot_bays (k : SlotIx) (x : Slot) : (s.setSlot k x).bays = s.bays := rfl
@[simp] theorem State.setSlot_oae (k : SlotIx) (x : Slot) : (s.setSlot k x).oae = s.oae := rfl
@[simp] theorem State.setSlot_art (k : SlotIx) (x : Slot) : (s.setSlot k x).art = s.art := rfl
@[simp] theorem State.setSlot_rsp (k : SlotIx) (x : Slot) : (s.setSlot k x).rsp = s.rsp := rfl
@[simp] theorem State.setSlot_stc (k : SlotIx) (x : Slot) : (s.setSlot k x).stc = s.stc := rfl
@[simp] theorem State.setSlot_mga (k : SlotIx) (x : Slot) : (s.setSlot k x).mga = s.mga := rfl

/-! ### sendC -/

@[simp] theorem State.sendC_pending (g : Bytes) : (s.sendC g).pending = s.pending := rfl
@[simp] theorem State.sendC_tbs (g : Bytes) : (s.sendC g).tbs = s.tbs := rfl
@[simp] theorem State.sendC_lfe (g : Bytes) : (s.sendC g).lfe = { s.lfe with opportunity := none } := rfl
@[simp] theorem State.sendC_chx (g : Bytes) : (s.sendC g).chx = s.chx := rfl
@[simp] theorem State.sendC_bays (g : Bytes) : (s.sendC g).bays = s.bays := rfl
@[simp] theorem State.sendC_oae (g : Bytes) : (s.sendC g).oae = s.oae := rfl
@[simp] theorem State.sendC_rbk (g : Bytes) : (s.sendC g).rbk = s.rbk := rfl
@[simp] theorem State.sendC_art (g : Bytes) : (s.sendC g).art = s.art := rfl
@[simp] theorem State.sendC_rsp (g : Bytes) : (s.sendC g).rsp = s.rsp := rfl
@[simp] theorem State.sendC_stc (g : Bytes) : (s.sendC g).stc = s.stc := rfl
@[simp] theorem State.sendC_mga (g : Bytes) : (s.sendC g).mga = s.mga := rfl

/-! ### sendF -/

@[simp] theorem State.sendF_pending (g : Bytes) : (s.sendF g).pending = s.pending := rfl
@[simp] theorem State.sendF_tbs (g : Bytes) : (s.sendF g).tbs = s.tbs := rfl
@[simp] theorem State.sendF_lfe (g : Bytes) : (s.sendF g).lfe = s.lfe := rfl
@[simp] theorem State.sendF_chx (g : Bytes) : (s.sendF g).chx = s.chx := rfl
@[simp] theorem State.sendF_bays (g : Bytes) : (s.sendF g).bays = s.bays := rfl
@[simp] theorem State.sendF_oae (g : Bytes) : (s.sendF g).oae = s.oae := rfl
@[simp] theorem State.sendF_rbk (g : Bytes) : (s.sendF g).rbk = s.rbk := rfl
@[simp] theorem State.sendF_art (g : Bytes) : (s.sendF g).art = s.art := rfl
@[simp] theorem State.sendF_rsp (g : Bytes) : (s.sendF g).rsp = s.rsp := rfl
@[simp] theorem State.sendF_stc (g : Bytes) : (s.sendF g).stc = s.stc := rfl
@[simp] theorem State.sendF_mga (g : Bytes) : (s.sendF g).mga = s.mga := rfl

/-! ### openOpportunity -/

@[simp] theorem State.openOpportunity_pending : (s.openOpportunity).pending = s.pending := rfl
@[simp] theorem State.openOpportunity_tbs : (s.openOpportunity).tbs = s.tbs := rfl
@[simp] theorem State.openOpportunity_ports : (s.openOpportunity).ports = s.ports := rfl
@[simp] theorem State.openOpportunity_chx : (s.openOpportunity).chx = s.chx := rfl
@[simp] theorem State.openOpportunity_bays : (s.openOpportunity).bays = s.bays := rfl
@[simp] theorem State.openOpportunity_oae : (s.openOpportunity).oae = s.oae := rfl
@[simp] theorem State.openOpportunity_rbk : (s.openOpportunity).rbk = s.rbk := rfl
@[simp] theorem State.openOpportunity_art : (s.openOpportunity).art = s.art := rfl
@[simp] theorem State.openOpportunity_rsp : (s.openOpportunity).rsp = s.rsp := rfl
@[simp] theorem State.openOpportunity_stc : (s.openOpportunity).stc = s.stc := rfl
@[simp] theorem State.openOpportunity_mga : (s.openOpportunity).mga = s.mga := rfl

/-! ### popRequest -/

@[simp] theorem State.popRequest_pending : (s.popRequest).pending = s.pending := rfl
@[simp] theorem State.popRequest_tbs : (s.popRequest).tbs = s.tbs := rfl
@[simp] theorem State.popRequest_lfe : (s.popRequest).lfe = s.lfe := rfl
@[simp] theorem State.popRequest_ports : (s.popRequest).ports = s.ports := rfl
@[simp] theorem State.popRequest_chx : (s.popRequest).chx = s.chx := rfl
@[simp] theorem State.popRequest_bays : (s.popRequest).bays = s.bays := rfl
@[simp] theorem State.popRequest_oae : (s.popRequest).oae = s.oae := rfl
@[simp] theorem State.popRequest_rbk : (s.popRequest).rbk = s.rbk := rfl
@[simp] theorem State.popRequest_art : (s.popRequest).art = s.art := rfl
@[simp] theorem State.popRequest_rsp : (s.popRequest).rsp = s.rsp := rfl
@[simp] theorem State.popRequest_stc : (s.popRequest).stc = s.stc := rfl

/-! ### respond -/

@[simp] theorem State.respond_pending (q : MgmtRequest) (st : Status) (rs : Bytes) : (s.respond q st rs).pending = s.pending := rfl
@[simp] theorem State.respond_tbs (q : MgmtRequest) (st : Status) (rs : Bytes) : (s.respond q st rs).tbs = s.tbs := rfl
@[simp] theorem State.respond_lfe (q : MgmtRequest) (st : Status) (rs : Bytes) : (s.respond q st rs).lfe = s.lfe := rfl
@[simp] theorem State.respond_ports (q : MgmtRequest) (st : Status) (rs : Bytes) : (s.respond q st rs).ports = s.ports := rfl
@[simp] theorem State.respond_chx (q : MgmtRequest) (st : Status) (rs : Bytes) : (s.respond q st rs).chx = s.chx := rfl
@[simp] theorem State.respond_bays (q : MgmtRequest) (st : Status) (rs : Bytes) : (s.respond q st rs).bays = s.bays := rfl
@[simp] theorem State.respond_oae (q : MgmtRequest) (st : Status) (rs : Bytes) : (s.respond q st rs).oae = s.oae := rfl
@[simp] theorem State.respond_rbk (q : MgmtRequest) (st : Status) (rs : Bytes) : (s.respond q st rs).rbk = s.rbk := rfl
@[simp] theorem State.respond_art (q : MgmtRequest) (st : Status) (rs : Bytes) : (s.respond q st rs).art = s.art := rfl
@[simp] theorem State.respond_rsp (q : MgmtRequest) (st : Status) (rs : Bytes) : (s.respond q st rs).rsp = s.rsp := rfl
@[simp] theorem State.respond_stc (q : MgmtRequest) (st : Status) (rs : Bytes) : (s.respond q st rs).stc = s.stc := rfl

/-! ### raiseWaits -/

@[simp] theorem State.raiseWaits_pending : (s.raiseWaits).pending = s.pending := rfl
@[simp] theorem State.raiseWaits_tbs : (s.raiseWaits).tbs = s.tbs := rfl
@[simp] theorem State.raiseWaits_lfe : (s.raiseWaits).lfe = s.lfe := rfl
@[simp] theorem State.raiseWaits_ports : (s.raiseWaits).ports = s.ports := rfl
@[simp] theorem State.raiseWaits_chx : (s.raiseWaits).chx = s.chx := rfl
@[simp] theorem State.raiseWaits_bays : (s.raiseWaits).bays = s.bays := rfl
@[simp] theorem State.raiseWaits_rbk : (s.raiseWaits).rbk = s.rbk := rfl
@[simp] theorem State.raiseWaits_art : (s.raiseWaits).art = s.art := rfl
@[simp] theorem State.raiseWaits_rsp : (s.raiseWaits).rsp = s.rsp := rfl
@[simp] theorem State.raiseWaits_stc : (s.raiseWaits).stc = s.stc := rfl
@[simp] theorem State.raiseWaits_mga : (s.raiseWaits).mga = s.mga := rfl

/-! ### resetPart -/

@[simp] theorem State.resetPart_pending : (s.resetPart).pending = s.pending := rfl
@[simp] theorem State.resetPart_ports : (s.resetPart).ports = s.ports := rfl

/-! ### One bay's units -/

/-- A bay reads what was last written to it, and no other bay is touched. -/
theorem State.bay_updBay (b c : Bay) (f : BayUnit → BayUnit) :
    (s.updBay b f).bay c = if b = c then f (s.bay b) else s.bay c := by
  simp only [State.bay, State.updBay, Vector.get_eq_getElem, Vector.getElem_set, Fin.ext_iff]

@[simp] theorem State.bay_updBay_same (b : Bay) (f : BayUnit → BayUnit) : (s.updBay b f).bay b = f (s.bay b) := by
  simp [State.bay_updBay]

@[simp] theorem State.bay_updBay_ne {b c : Bay} (h : b ≠ c) (f : BayUnit → BayUnit) :
    (s.updBay b f).bay c = s.bay c := by
  simp [State.bay_updBay, h]

@[simp] theorem State.updCtl_ctl_same (b : Bay) (f : BayCtl → BayCtl) : ((s.updCtl b f).bay b).ctl = f (s.bay b).ctl := by
  simp [State.updCtl]
@[simp] theorem State.updCtl_spu (b c : Bay) (f : BayCtl → BayCtl) : ((s.updCtl b f).bay c).spu = (s.bay c).spu := by
  by_cases h : b = c <;> simp [State.updCtl, h]
@[simp] theorem State.updCtl_ris (b c : Bay) (f : BayCtl → BayCtl) : ((s.updCtl b f).bay c).ris = (s.bay c).ris := by
  by_cases h : b = c <;> simp [State.updCtl, h]
@[simp] theorem State.updCtl_ltu (b c : Bay) (f : BayCtl → BayCtl) : ((s.updCtl b f).bay c).ltu = (s.bay c).ltu := by
  by_cases h : b = c <;> simp [State.updCtl, h]
@[simp] theorem State.updCtl_window (b c : Bay) (f : BayCtl → BayCtl) : ((s.updCtl b f).bay c).window = (s.bay c).window := by
  by_cases h : b = c <;> simp [State.updCtl, h]
@[simp] theorem State.updCtl_ne {b c : Bay} (h : b ≠ c) (f : BayCtl → BayCtl) : (s.updCtl b f).bay c = s.bay c := by
  simp [State.updCtl, h]

@[simp] theorem State.updSpu_ctl (b c : Bay) (f : Spu → Spu) : ((s.updSpu b f).bay c).ctl = (s.bay c).ctl := by
  by_cases h : b = c <;> simp [State.updSpu, h]
@[simp] theorem State.updSpu_spu_same (b : Bay) (f : Spu → Spu) : ((s.updSpu b f).bay b).spu = f (s.bay b).spu := by
  simp [State.updSpu]
@[simp] theorem State.updSpu_ris (b c : Bay) (f : Spu → Spu) : ((s.updSpu b f).bay c).ris = (s.bay c).ris := by
  by_cases h : b = c <;> simp [State.updSpu, h]
@[simp] theorem State.updSpu_ltu (b c : Bay) (f : Spu → Spu) : ((s.updSpu b f).bay c).ltu = (s.bay c).ltu := by
  by_cases h : b = c <;> simp [State.updSpu, h]
@[simp] theorem State.updSpu_window (b c : Bay) (f : Spu → Spu) : ((s.updSpu b f).bay c).window = (s.bay c).window := by
  by_cases h : b = c <;> simp [State.updSpu, h]
@[simp] theorem State.updSpu_ne {b c : Bay} (h : b ≠ c) (f : Spu → Spu) : (s.updSpu b f).bay c = s.bay c := by
  simp [State.updSpu, h]

@[simp] theorem State.updRis_ctl (b c : Bay) (f : Ris → Ris) : ((s.updRis b f).bay c).ctl = (s.bay c).ctl := by
  by_cases h : b = c <;> simp [State.updRis, h]
@[simp] theorem State.updRis_spu (b c : Bay) (f : Ris → Ris) : ((s.updRis b f).bay c).spu = (s.bay c).spu := by
  by_cases h : b = c <;> simp [State.updRis, h]
@[simp] theorem State.updRis_ris_same (b : Bay) (f : Ris → Ris) : ((s.updRis b f).bay b).ris = f (s.bay b).ris := by
  simp [State.updRis]
@[simp] theorem State.updRis_ltu (b c : Bay) (f : Ris → Ris) : ((s.updRis b f).bay c).ltu = (s.bay c).ltu := by
  by_cases h : b = c <;> simp [State.updRis, h]
@[simp] theorem State.updRis_window (b c : Bay) (f : Ris → Ris) : ((s.updRis b f).bay c).window = (s.bay c).window := by
  by_cases h : b = c <;> simp [State.updRis, h]
@[simp] theorem State.updRis_ne {b c : Bay} (h : b ≠ c) (f : Ris → Ris) : (s.updRis b f).bay c = s.bay c := by
  simp [State.updRis, h]

@[simp] theorem State.updLtu_ctl (b c : Bay) (f : Ltu → Ltu) : ((s.updLtu b f).bay c).ctl = (s.bay c).ctl := by
  by_cases h : b = c <;> simp [State.updLtu, h]
@[simp] theorem State.updLtu_spu (b c : Bay) (f : Ltu → Ltu) : ((s.updLtu b f).bay c).spu = (s.bay c).spu := by
  by_cases h : b = c <;> simp [State.updLtu, h]
@[simp] theorem State.updLtu_ris (b c : Bay) (f : Ltu → Ltu) : ((s.updLtu b f).bay c).ris = (s.bay c).ris := by
  by_cases h : b = c <;> simp [State.updLtu, h]
@[simp] theorem State.updLtu_ltu_same (b : Bay) (f : Ltu → Ltu) : ((s.updLtu b f).bay b).ltu = f (s.bay b).ltu := by
  simp [State.updLtu]
@[simp] theorem State.updLtu_window (b c : Bay) (f : Ltu → Ltu) : ((s.updLtu b f).bay c).window = (s.bay c).window := by
  by_cases h : b = c <;> simp [State.updLtu, h]
@[simp] theorem State.updLtu_ne {b c : Bay} (h : b ≠ c) (f : Ltu → Ltu) : (s.updLtu b f).bay c = s.bay c := by
  simp [State.updLtu, h]

@[simp] theorem State.setWindow_ctl (b c : Bay) (w : Option Window) : ((s.setWindow b w).bay c).ctl = (s.bay c).ctl := by
  by_cases h : b = c <;> simp [State.setWindow, h]
@[simp] theorem State.setWindow_spu (b c : Bay) (w : Option Window) : ((s.setWindow b w).bay c).spu = (s.bay c).spu := by
  by_cases h : b = c <;> simp [State.setWindow, h]
@[simp] theorem State.setWindow_ris (b c : Bay) (w : Option Window) : ((s.setWindow b w).bay c).ris = (s.bay c).ris := by
  by_cases h : b = c <;> simp [State.setWindow, h]
@[simp] theorem State.setWindow_ltu (b c : Bay) (w : Option Window) : ((s.setWindow b w).bay c).ltu = (s.bay c).ltu := by
  by_cases h : b = c <;> simp [State.setWindow, h]
@[simp] theorem State.setWindow_window_same (b : Bay) (w : Option Window) : ((s.setWindow b w).bay b).window = w := by
  simp [State.setWindow]
@[simp] theorem State.setWindow_ne {b c : Bay} (h : b ≠ c) (w : Option Window) : (s.setWindow b w).bay c = s.bay c := by
  simp [State.setWindow, h]

/-! ### A field whose unit another field's update leaves alone -/

/-- Reading a bay looks at `bays` alone. -/
theorem State.bay_eq_of_bays {t : State} (h : t.bays = s.bays) (b : Bay) : t.bay b = s.bay b := by
  simp only [State.bay, h]

@[simp] theorem State.latchCell_bay (a : CellAlarm) (c : Bay) : (s.latchCell a).bay c = s.bay c := rfl
@[simp] theorem State.emit_bay (e : CounterEvt) (c : Bay) : (s.emit e).bay c = s.bay c := rfl
@[simp] theorem State.emitBay_bay (ev : CounterEvent) (b : Bay) (r : Option ResultName) (c : Bay) : (s.emitBay ev b r).bay c = s.bay c := rfl
@[simp] theorem State.frameError_bay (c : Bay) : (s.frameError).bay c = s.bay c := rfl
@[simp] theorem State.pin_bay (k : SlotIx) (c : Bay) : (s.pin k).bay c = s.bay c := rfl
@[simp] theorem State.unpin_bay (k : SlotIx) (c : Bay) : (s.unpin k).bay c = s.bay c := rfl
@[simp] theorem State.setSlot_bay (k : SlotIx) (x : Slot) (c : Bay) : (s.setSlot k x).bay c = s.bay c := rfl
@[simp] theorem State.sendC_bay (g : Bytes) (c : Bay) : (s.sendC g).bay c = s.bay c := rfl
@[simp] theorem State.sendF_bay (g : Bytes) (c : Bay) : (s.sendF g).bay c = s.bay c := rfl
@[simp] theorem State.openOpportunity_bay (c : Bay) : (s.openOpportunity).bay c = s.bay c := rfl
@[simp] theorem State.popRequest_bay (c : Bay) : (s.popRequest).bay c = s.bay c := rfl
@[simp] theorem State.respond_bay (q : MgmtRequest) (st : Status) (rs : Bytes) (c : Bay) : (s.respond q st rs).bay c = s.bay c := rfl
@[simp] theorem State.raiseWaits_bay (c : Bay) : (s.raiseWaits).bay c = s.bay c := rfl

/-! ### The fields written -/

@[simp] theorem State.latchCell_alarms (a : CellAlarm) : (s.latchCell a).mga.alarms = withCellAlarm s.mga.alarms a := rfl
@[simp] theorem State.latchCell_requests (a : CellAlarm) : (s.latchCell a).mga.requests = s.mga.requests := rfl
@[simp] theorem State.latchCell_responses (a : CellAlarm) : (s.latchCell a).mga.responses = s.mga.responses := rfl
@[simp] theorem State.latchCell_params (a : CellAlarm) : (s.latchCell a).mga.params = s.mga.params := rfl
@[simp] theorem State.sendC_sentC (g : Bytes) : (s.sendC g).ports.sentC = s.ports.sentC ++ [g] := rfl
@[simp] theorem State.sendC_sentF (g : Bytes) : (s.sendC g).ports.sentF = s.ports.sentF := rfl
@[simp] theorem State.sendF_sentF (g : Bytes) : (s.sendF g).ports.sentF = s.ports.sentF ++ [g] := rfl
@[simp] theorem State.sendF_sentC (g : Bytes) : (s.sendF g).ports.sentC = s.ports.sentC := rfl
@[simp] theorem State.popRequest_requests : s.popRequest.mga.requests = s.mga.requests.drop 1 := rfl
@[simp] theorem State.popRequest_responses : s.popRequest.mga.responses = s.mga.responses := rfl
@[simp] theorem State.popRequest_params : s.popRequest.mga.params = s.mga.params := rfl
@[simp] theorem State.respond_requests (q : MgmtRequest) (st : Status) (rs : Bytes) :
    (s.respond q st rs).mga.requests = s.mga.requests := rfl
@[simp] theorem State.respond_responses (q : MgmtRequest) (st : Status) (rs : Bytes) :
    (s.respond q st rs).mga.responses = s.mga.responses ++
      [{ dest := q.source, code := reqCode q.payload, tag := reqTag q.payload, status := st, results := rs }] := rfl
@[simp] theorem State.respond_params (q : MgmtRequest) (st : Status) (rs : Bytes) :
    (s.respond q st rs).mga.params = s.mga.params := rfl
@[simp] theorem State.emit_snapshot (e : CounterEvt) : (s.emit e).stc.snapshot = s.stc.snapshot := rfl
@[simp] theorem State.emitBay_snapshot (ev : CounterEvent) (b : Bay) (r : Option ResultName) :
    (s.emitBay ev b r).stc.snapshot = s.stc.snapshot := rfl
@[simp] theorem State.resetPart_mga : s.resetPart.mga = s.mga.resetPart := rfl
@[simp] theorem State.resetPart_lfe : s.resetPart.lfe = s.lfe.resetPart := rfl

end Sys2Proof.Machine
end

