-- ==== Sys2Proof/Laws/Work.lean ====
section
/-! SUPPORT. What the work of the bays' units leaves alone. `BayWork B s t` says that t differs from s at most in the bays,
the lanes and their queue, the records, the pin counts, the spool queue and the counters, and that outside the bays of B
no bay controller, Speed Unit or Leak Test Unit has changed (a grant may still move a bay's RIS and open its window). One
lemma per operation says that the operation is such work. -/

namespace Sys2Proof.Machine

/-- Controller, Speed Unit and Leak Test Unit are the same. -/
def BayUnit.same (u v : BayUnit) : Prop := u.ctl = v.ctl ∧ u.spu = v.spu ∧ u.ltu = v.ltu

/-- The step from s to t is work of the units of the bays B. -/
structure BayWork (B : Bay → Prop) (s t : State) : Prop where
  pending : t.pending = s.pending
  tbs : t.tbs = s.tbs
  lfe : t.lfe = s.lfe
  ports : t.ports = s.ports
  chx : t.chx = s.chx
  mga : t.mga = s.mga
  emission : t.rsp.emission = s.rsp.emission
  reportSeq : t.rsp.reportSeq = s.rsp.reportSeq
  snapshot : t.stc.snapshot = s.stc.snapshot
  slot : ∀ k, { t.rbk.get k with pins := 0 } = { s.rbk.get k with pins := 0 }
  other : ∀ b, ¬ B b → (t.bay b).same (s.bay b)

/-- Every bay. -/
def anyBay (_ : Bay) : Prop := True

namespace BayWork

theorem refl {B : Bay → Prop} (s : State) : BayWork B s s :=
  ⟨rfl, rfl, rfl, rfl, rfl, rfl, rfl, rfl, rfl, fun _ => rfl, fun _ _ => ⟨rfl, rfl, rfl⟩⟩

theorem trans {B : Bay → Prop} {s t u : State} (h : BayWork B s t) (g : BayWork B t u) : BayWork B s u :=
  ⟨g.pending.trans h.pending, g.tbs.trans h.tbs, g.lfe.trans h.lfe, g.ports.trans h.ports, g.chx.trans h.chx,
    g.mga.trans h.mga, g.emission.trans h.emission, g.reportSeq.trans h.reportSeq, g.snapshot.trans h.snapshot,
    fun k => (g.slot k).trans (h.slot k),
    fun b hb => ⟨(g.other b hb).1.trans (h.other b hb).1, (g.other b hb).2.1.trans (h.other b hb).2.1,
      (g.other b hb).2.2.trans (h.other b hb).2.2⟩⟩

theorem mono {B C : Bay → Prop} {s t : State} (h : BayWork B s t) (hBC : ∀ b, B b → C b) : BayWork C s t :=
  { h with other := fun b hb => h.other b fun hB => hb (hBC b hB) }

theorem any {B : Bay → Prop} {s t : State} (h : BayWork B s t) : BayWork anyBay s t := h.mono fun _ _ => trivial

theorem ite {B : Bay → Prop} {s t u : State} {c : Prop} [Decidable c] (h : BayWork B s t) (g : BayWork B s u) :
    BayWork B s (if c then t else u) := by
  split
  · exact h
  · exact g

theorem foldl {B : Bay → Prop} {α : Type} (f : State → α → State) (h : ∀ s x, BayWork B s (f s x)) (l : List α)
    (s : State) : BayWork B s (l.foldl f s) := by
  induction l generalizing s with
  | nil => exact refl s
  | cons x xs ih => exact (h s x).trans (ih (f s x))

theorem overBays (f : Bay → State → State) (h : ∀ b s, BayWork anyBay s (f b s)) (l : List Bay) (s : State) :
    BayWork anyBay s (Machine.overBays f l s) :=
  foldl _ (fun s b => h b s) l s

end BayWork

section
variable {B : Bay → Prop} (b : Bay) (s : State)

/-! ### Updates -/

theorem updBay_work (f : BayUnit → BayUnit) : BayWork (· = b) s (s.updBay b f) :=
  ⟨rfl, rfl, rfl, rfl, rfl, rfl, rfl, rfl, rfl, fun _ => rfl, fun c hc => by
    rw [State.bay_updBay_ne (h := fun h => hc h.symm)]; exact ⟨rfl, rfl, rfl⟩⟩
theorem updBay_same (f : BayUnit → BayUnit) (hf : (f (s.bay b)).same (s.bay b)) : BayWork B s (s.updBay b f) :=
  ⟨rfl, rfl, rfl, rfl, rfl, rfl, rfl, rfl, rfl, fun _ => rfl, fun c _ => by
    rw [State.bay_updBay]; split
    · next h => subst h; exact hf
    · exact ⟨rfl, rfl, rfl⟩⟩
theorem updCtl_work (f : BayCtl → BayCtl) : BayWork (· = b) s (s.updCtl b f) := updBay_work b s _
theorem updSpu_work (f : Spu → Spu) : BayWork (· = b) s (s.updSpu b f) := updBay_work b s _
theorem updLtu_work (f : Ltu → Ltu) : BayWork (· = b) s (s.updLtu b f) := updBay_work b s _
theorem updRis_work (f : Ris → Ris) : BayWork B s (s.updRis b f) := updBay_same b s _ ⟨rfl, rfl, rfl⟩
theorem setWindow_work (w : Option Window) : BayWork B s (s.setWindow b w) := updBay_same b s _ ⟨rfl, rfl, rfl⟩
theorem latchAlarm_work (a : BayAlarm) : BayWork (· = b) s (s.latchAlarm b a) := updCtl_work b s _
theorem emit_work (e : CounterEvt) : BayWork B s (s.emit e) :=
  ⟨rfl, rfl, rfl, rfl, rfl, rfl, rfl, rfl, rfl, fun _ => rfl, fun _ _ => ⟨rfl, rfl, rfl⟩⟩
theorem emitBay_work (ev : CounterEvent) (r : Option ResultName) : BayWork B s (s.emitBay ev b r) := emit_work s _
theorem setOae_work (o : Oae) : BayWork B s { s with oae := o } :=
  ⟨rfl, rfl, rfl, rfl, rfl, rfl, rfl, rfl, rfl, fun _ => rfl, fun _ _ => ⟨rfl, rfl, rfl⟩⟩
theorem setArt_work (a : Vector (Option AxleRecord) 12) : BayWork B s { s with art := a } :=
  ⟨rfl, rfl, rfl, rfl, rfl, rfl, rfl, rfl, rfl, fun _ => rfl, fun _ _ => ⟨rfl, rfl, rfl⟩⟩

/-- A changed pin count changes nothing else of any slot. -/
theorem setPins_work (k : SlotIx) (n : Nat) :
    BayWork B s { s with rbk := s.rbk.set k { s.rbk.get k with pins := n } } where
  pending := rfl
  tbs := rfl
  lfe := rfl
  ports := rfl
  chx := rfl
  mga := rfl
  emission := rfl
  reportSeq := rfl
  snapshot := rfl
  other _ _ := ⟨rfl, rfl, rfl⟩
  slot j := by
    simp only [Vector.get_eq_getElem, Vector.getElem_set]
    split
    · next h => simp [h]
    · rfl

theorem unpin_work (k : SlotIx) : BayWork B s (s.unpin k) := setPins_work s k _
theorem pin_work (k : SlotIx) : BayWork B s (s.pin k) := setPins_work s k _

theorem writeBound_work (f : AxleRecord → AxleRecord) : BayWork B s (s.writeBound b f) := by
  unfold State.writeBound
  split
  · exact .refl s
  · split
    · exact .ite (setArt_work s _) (.refl s)
    · exact .refl s

theorem writeSummary_work (f : Summary → Summary) : BayWork B s (s.writeSummary b f) := writeBound_work b s _
theorem offerNoise_work (e : NoiseEntry) : BayWork B s (s.offerNoise b e) := writeBound_work b s _
theorem offerLeak_work (e : LeakEntry) : BayWork B s (s.offerLeak b e) := writeBound_work b s _

theorem setCmdSpeed_work (v : Nat) : BayWork (· = b) s (s.setCmdSpeed b v) :=
  .ite ((updRis_work b s _).trans (updSpu_work b _ _)) (updRis_work b s _)

/-! ### Lanes and windows -/

theorem grantOne_work (q : LaneRequest) : BayWork B s (grantOne q s) := by
  unfold grantOne
  split
  · exact (((setOae_work s _).trans (setWindow_work _ _ _)).trans (updRis_work _ _ _)).trans (emitBay_work _ _ _ _)
  · exact .refl s

theorem grantLoop_work (l : List LaneRequest) : BayWork B s (grantLoop l s) := by
  induction l generalizing s with
  | nil => exact setOae_work s _
  | cons q rest ih => exact .ite ((grantOne_work s q).trans (ih _)) (setOae_work s _)

theorem grantTest_work : BayWork B s s.grantTest := grantLoop_work s _

theorem postRequest_work (n : Nat) : BayWork B s (postRequest b n s) :=
  .ite (.refl s) ((setOae_work s _).trans (grantTest_work _))

theorem dropWindow_work : BayWork B s (dropWindow b s) := (setOae_work s _).trans (setWindow_work b _ none)

theorem releaseBay_work : BayWork B s (releaseBay b s) := by
  unfold releaseBay
  have h1 := setOae_work (B := B) s { s.oae with queue := s.oae.queue.filter fun q => q.bay != b }
  have h2 := h1.trans (BayWork.ite (c := ((s.bay b).window.isSome || s.holdsLanes b) = true) (dropWindow_work b _) (.refl _))
  exact (h2.trans (.ite (emitBay_work b _ _ _) (.refl _))).trans (.ite (grantTest_work _) (.refl _))

theorem discardBlock_work : BayWork B s (discardBlock b s) := by
  unfold discardBlock
  split
  · exact .refl s
  · split
    · exact .refl s
    · exact (setWindow_work b s _).trans (.ite (emitBay_work b _ _ _) (.refl _))

theorem windowFrame_work : BayWork B s (windowFrame b s) := by
  unfold windowFrame
  split
  · exact (setWindow_work b s _).trans (.ite (setWindow_work b _ _) (discardBlock_work b _))
  · exact .refl s

/-! ### Run-in Sequencer -/

theorem stepCompleted_work : BayWork (· = b) s (stepCompleted b s) := writeSummary_work b s _
theorem startRamp_work (st : Step) : BayWork (· = b) s (startRamp b st s) := updRis_work b s _
theorem rundownTest_work : BayWork (· = b) s (rundownTest b s) := .ite (updRis_work b s _) (.refl s)
theorem enterRundown_work : BayWork (· = b) s (enterRundown b s) := (updRis_work b s _).trans (rundownTest_work b _)

theorem enterSteps_work (l : List Step) (i : Nat) : BayWork (· = b) s (enterSteps b l i s) := by
  induction l generalizing s i with
  | nil => exact enterRundown_work b s
  | cons st rest ih =>
    refine (updRis_work b s (Ris.setStep st i)).trans (.ite (updRis_work b _ _) ?_)
    refine (startRamp_work b _ st).trans (.ite ((stepCompleted_work b _).trans (ih _ _)) (.refl _))

theorem nextStep_work : BayWork (· = b) s (nextStep b s) := by
  unfold nextStep
  split
  · exact enterSteps_work b s _ _
  · exact .refl s

theorem finishStep_work : BayWork (· = b) s (finishStep b s) := (stepCompleted_work b s).trans (nextStep_work b _)

theorem beginRunin_work : BayWork (· = b) s (beginRunin b s) :=
  ((setCmdSpeed_work b s 0).trans (updRis_work b _ _)).trans (enterSteps_work b _ _ _)

theorem endReverseStop_work : BayWork (· = b) s (endReverseStop b s) := by
  unfold endReverseStop
  split
  · exact (startRamp_work b s _).trans (.ite (finishStep_work b _) (.refl _))
  · exact .refl s

theorem standstillTest_work : BayWork (· = b) s (standstillTest b s) := by
  unfold standstillTest
  split
  · split
    · exact endReverseStop_work b s
    · exact finishStep_work b s
    · exact updRis_work b s _
    · exact .refl s
  · exact .refl s

theorem postAttempt_work : BayWork (· = b) s (postAttempt b s) := by
  unfold postAttempt
  split
  · exact (updRis_work b s _).trans (postRequest_work b _ _)
  · exact .refl s

theorem enterMeasureWait_work : BayWork (· = b) s (enterMeasureWait b s) :=
  (updRis_work b s _).trans (.ite (.refl _) (postAttempt_work b _))

theorem endSettle_work : BayWork (· = b) s (endSettle b s) := by
  unfold endSettle
  split
  · exact .ite (enterMeasureWait_work b s) ((updRis_work b s _).trans (.ite (finishStep_work b _) (.refl _)))
  · exact .refl s

theorem enterSettle_work : BayWork (· = b) s (enterSettle b s) := updRis_work b s _
theorem enterRerun_work (st : Step) : BayWork (· = b) s (enterRerun b st s) := .ite (enterSettle_work b s) (updRis_work b s _)
theorem spendBudget_work : BayWork (· = b) s (spendBudget b s) := updRis_work b s _

theorem offerNoiseEntry_work (st : Step) (x : NoiseResult) (y : Option NomeasReason) (ls : List LineResult)
    (a : Option Bool) : BayWork (· = b) s (offerNoiseEntry b st x y ls a s) := offerNoise_work b s _

theorem actOnResult_work (r : Recipe) (st : Step) (w : WindowResult) : BayWork (· = b) s (actOnResult b r st w s).state := by
  unfold actOnResult
  dsimp only
  split
  · exact (offerNoiseEntry_work b s st _ _ _ _).trans (finishStep_work b _)
  · split
    · exact (spendBudget_work b s).trans (enterRerun_work b _ st)
    · split
      · exact (offerNoiseEntry_work b s st _ _ _ _).trans (stepCompleted_work b _)
      · exact (offerNoiseEntry_work b s st _ _ _ _).trans (finishStep_work b _)
  · split
    · exact (spendBudget_work b s).trans (enterSettle_work b _)
    · exact (offerNoiseEntry_work b s st _ _ _ _).trans (finishStep_work b _)
  · split
    · exact (spendBudget_work b s).trans (enterSettle_work b _)
    · exact (offerNoiseEntry_work b s st _ _ _ _).trans (finishStep_work b _)

theorem takeResult_work (w : WindowResult) : BayWork (· = b) s (takeResult b w s).state := by
  unfold takeResult
  dsimp only
  split
  · split
    · exact actOnResult_work b s _ _ w
    · exact .refl s
  · exact .refl s

theorem stopRundown_work : BayWork (· = b) s (stopRundown b s) := (updRis_work b s _).trans (rundownTest_work b _)

theorem risAbort_work : BayWork (· = b) s (risAbort b s) := by
  unfold risAbort
  dsimp only
  split
  · exact .refl s
  · split
    · split
      · exact (offerNoiseEntry_work b s _ _ _ _ _).trans (stopRundown_work b _)
      · exact stopRundown_work b s
    · exact stopRundown_work b s

theorem reachTarget_work (st : Step) : BayWork (· = b) s (reachTarget b st s) := by
  refine (updRis_work b s _).trans (.ite ?_ ((updRis_work b _ _).trans (standstillTest_work b _)))
  exact (updRis_work b _ _).trans (.ite (finishStep_work b _) (.refl _))

theorem rampTick_work (r : Recipe) (st : Step) (target rate : Nat) :
    BayWork (· = b) s (rampTick b r st target rate s) :=
  ((setCmdSpeed_work b s _).trans (updRis_work b _ _)).trans (.ite (reachTarget_work b _ st) (.refl _))

/-! ### Leak Test Unit -/

theorem leakAttempt_work (o : ResultName) : BayWork (· = b) s (leakAttempt b o s) := emitBay_work b s _ _

theorem offerLeakEntry_work (c : Cavity) (x : LeakResult) : BayWork (· = b) s (offerLeakEntry b c x s) := by
  unfold offerLeakEntry
  dsimp only
  exact (offerLeak_work b s _).trans (updLtu_work b _ _)

theorem grossEnd_work (c : Cavity) : BayWork (· = b) s (grossEnd b c s) :=
  ((leakAttempt_work b s _).trans (offerLeakEntry_work b _ c _)).trans (updLtu_work b _ _)

theorem incompleteEnd_work (c : Cavity) : BayWork (· = b) s (incompleteEnd b c s) :=
  (leakAttempt_work b s _).trans (offerLeakEntry_work b _ c _)

theorem actOnDecay_work (c : Cavity) (o : DecayOutcome) : BayWork (· = b) s (actOnDecay b c o s) :=
  (leakAttempt_work b s _).trans
    (.ite (updLtu_work b _ _) ((offerLeakEntry_work b _ c _).trans (updLtu_work b _ _)))

theorem measureEnd_work (c : Cavity) : BayWork (· = b) s (measureEnd b c s) :=
  (updLtu_work b s _).trans (actOnDecay_work b _ c _)

theorem settleEnd_work (c : Cavity) : BayWork (· = b) s (settleEnd b c s) := updLtu_work b s _
theorem permitStart_work : BayWork (· = b) s (permitStart b s) := .ite (updLtu_work b s _) (.refl s)

theorem enterCavities_work (l : List Cavity) (i : Nat) : BayWork (· = b) s (enterCavities b l i s) := by
  induction l generalizing s i with
  | nil => exact updLtu_work b s _
  | cons c rest ih =>
    refine (updLtu_work b s (Ltu.enterCavity c i)).trans (.ite (updLtu_work b _ _) ?_)
    exact .ite ((incompleteEnd_work b _ c).trans (ih _ _)) (.refl _)

theorem nextCavity_work : BayWork (· = b) s (nextCavity b s) := by
  unfold nextCavity
  split
  · exact enterCavities_work b s _ _
  · exact .refl s

theorem beginLeak_work : BayWork (· = b) s (beginLeak b s) :=
  ((updLtu_work b s _).trans (permitStart_work b _)).trans (enterCavities_work b _ _ _)

theorem coolTest_work : BayWork (· = b) s (coolTest b s) := by
  unfold coolTest
  split
  · exact .ite (updLtu_work b s _) (.refl s)
  · exact .refl s

theorem coolWaitEnd_work (c : Cavity) : BayWork (· = b) s (coolWaitEnd b c s) :=
  (incompleteEnd_work b s c).trans (nextCavity_work b _)

theorem leakFrame_work (c : Cavity) : BayWork (· = b) s (leakFrame b c s) := by
  unfold leakFrame
  split
  · exact coolTest_work b s
  · exact .ite (updLtu_work b s _) (.refl s)
  · exact .ite (grossEnd_work b s c) (.refl s)
  · exact .ite (grossEnd_work b s c) (.refl s)
  · exact .refl s
  · exact .refl s
  · exact .refl s

theorem ventEnd_work (c : Cavity) : BayWork (· = b) s (ventEnd b c s) := by
  refine (updLtu_work b s (Ltu.closeVent c)).trans (.ite ?_ (updLtu_work b _ _))
  split
  · exact updLtu_work b _ _
  · exact nextCavity_work b _

theorem phaseEnd_work (c : Cavity) : BayWork (· = b) s (phaseEnd b c s) := by
  unfold phaseEnd
  split
  · exact coolWaitEnd_work b s c
  · exact grossEnd_work b s c
  · exact settleEnd_work b s c
  · exact measureEnd_work b s c
  · exact ventEnd_work b s c
  · exact .refl s
  · exact .refl s

theorem ltuTick_work : BayWork (· = b) s (ltuTick b s) := by
  unfold ltuTick
  split
  · split
    · exact (updLtu_work b s _).trans (.ite (phaseEnd_work b _ _) (.refl _))
    · exact .refl s
  · exact .refl s

theorem ltuAbort_work : BayWork (· = b) s (ltuAbort b s) := by
  unfold ltuAbort
  split
  · split
    · exact .refl s
    · exact .refl s
    · exact (incompleteEnd_work b s _).trans (updLtu_work b _ _)
    · exact (incompleteEnd_work b s _).trans (updLtu_work b _ _)
    · exact (incompleteEnd_work b s _).trans (updLtu_work b _ _)
    · exact (incompleteEnd_work b s _).trans (updLtu_work b _ _)
    · exact .ite (.refl s) (offerLeakEntry_work b s _ _)
  · exact .refl s

/-! ### Bay Controller -/

theorem finalize_work (i : RecIx) (r : AxleRecord) : BayWork (· = b) s (finalize i r s).1 := by
  have h := unpin_work (B := (· = b)) s r.slot
  refine BayWork.trans ?_ (emit_work _ _)
  exact ⟨h.pending, h.tbs, h.lfe, h.ports, h.chx, h.mga, h.emission, h.reportSeq, h.snapshot, h.slot, h.other⟩

theorem enterComplete_work : BayWork (· = b) s (enterComplete b s) := by
  unfold enterComplete
  cases s.openRecord b with
  | none => exact ((updCtl_work b s _).trans (releaseBay_work b _)).trans (updBay_work b _ _)
  | some p =>
    have h := ((finalize_work b s p.1 p.2).trans (updCtl_work b _ BayCtl.unbind)).trans (releaseBay_work b _)
    dsimp only
    exact (h.trans (updCtl_work b _ _)).trans (updBay_work b _ _)

theorem testStopped_work : BayWork (· = b) s (testStopped b s) := .ite (enterComplete_work b s) (.refl s)

theorem stopNormally_work : BayWork (· = b) s (stopNormally b s) :=
  ((updCtl_work b s _).trans (releaseBay_work b _)).trans (testStopped_work b _)

theorem earlyEnd_work : BayWork (· = b) s (earlyEnd b s) :=
  .ite ((((updCtl_work b s _).trans (releaseBay_work b _)).trans (stopRundown_work b _)).trans
    (testStopped_work b _)) (.refl s)

theorem setCause_work (c : Cause) : BayWork (· = b) s (setCause b c s) :=
  (writeBound_work b s _).trans (updCtl_work b _ _)

theorem abortBay_work (c : Cause) : BayWork (· = b) s (abortBay b c s) :=
  (((((setCause_work b s c).trans (updCtl_work b _ _)).trans (risAbort_work b _)).trans (ltuAbort_work b _)).trans
    (releaseBay_work b _)).trans (testStopped_work b _)

theorem raiseFault_work (c : Cause) : BayWork (· = b) s (raiseFault b c s) := by
  unfold raiseFault
  split
  · exact (latchAlarm_work b s _).trans (.ite (abortBay_work b _ c) (.refl _))
  · exact .ite (abortBay_work b s c) (.refl s)

theorem beginSubPhase_work (p : SubPhase) : BayWork (· = b) s (beginSubPhase b p s) := by
  refine (updCtl_work b s fun c => { c with subPhase := some p }).trans ?_
  cases p
  · exact beginLeak_work b _
  · exact beginRunin_work b _
  · exact beginLeak_work b _

theorem runPlan_work (l : List SubPhase) : BayWork (· = b) s (runPlan b l s) := by
  induction l generalizing s with
  | nil => exact stopNormally_work b s
  | cons p rest ih => exact (beginSubPhase_work b s p).trans (.ite (ih _) (.refl _))

theorem advance_work : BayWork (· = b) s (advance b s) := .ite (runPlan_work b s _) (.refl s)
theorem enterRunning_work : BayWork (· = b) s (enterRunning b s) := (updCtl_work b s _).trans (runPlan_work b _ _)

theorem enterTest_work : BayWork (· = b) s (enterTest b s) := by
  unfold enterTest
  split
  · exact .ite (enterRunning_work b s) (.refl s)
  · exact .refl s

theorem fixtureTest_work (s0 : State) : BayWork (· = b) s (fixtureTest s0 b s) := by
  unfold fixtureTest
  split
  · exact .ite (raiseFault_work b s _) (.refl s)
  · exact .refl s

theorem staleTest_work (s0 : State) : BayWork (· = b) s (staleTest s0 b s) := .ite (raiseFault_work b s _) (.refl s)

theorem endHold_work : BayWork (· = b) s (endHold b s) := (updRis_work b s _).trans (.ite (postAttempt_work b _) (.refl _))
theorem beginHold_work : BayWork (· = b) s (beginHold b s) := (updRis_work b s _).trans (latchAlarm_work b _ _)

theorem actOnOil_work (r : Recipe) (v : Int) : BayWork (· = b) s (actOnOil b r v s) :=
  .ite (raiseFault_work b s _) (.ite
    (.ite (.ite (endHold_work b s) (.refl s)) (.ite (beginHold_work b s) (.refl s)))
    (.ite (latchAlarm_work b s _) (.refl s)))

theorem oilFrame_work : BayWork (· = b) s (oilFrame b s) := by
  unfold oilFrame
  split
  · exact .ite ((writeSummary_work b s _).trans (actOnOil_work b _ _ _)) (.refl s)
  · exact .refl s

theorem torqueFrame_work : BayWork (· = b) s (torqueFrame b s) := by
  unfold torqueFrame
  split
  · exact .ite (((writeSummary_work b s _).trans (updRis_work b _ _)).trans (.ite (raiseFault_work b _ _) (.refl _)))
      (.refl s)
  · exact .refl s

theorem settleFrame_work : BayWork (· = b) s (settleFrame b s) :=
  .ite ((endSettle_work b s).trans (advance_work b _)) (.refl s)

theorem risFrame_work (x : Bool) : BayWork (· = b) s (risFrame b x s) :=
  ((oilFrame_work b s).trans (torqueFrame_work b _)).trans (.ite (settleFrame_work b _) (.refl _))

theorem ltuFrame_work : BayWork (· = b) s (ltuFrame b s) := by
  unfold ltuFrame
  dsimp only
  refine .ite ((permitStart_work b s).trans ?_) (.refl s)
  split
  · exact .ite ((updLtu_work b _ _).trans (raiseFault_work b _ _)) ((leakFrame_work b _ _).trans (advance_work b _))
  · exact .refl _

theorem closeWindow_work : BayWork (· = b) s (closeWindow b s) := by
  unfold closeWindow
  split
  · exact ((((dropWindow_work b s).trans (takeResult_work b _ _)).trans (emitBay_work b _ _ _)).trans
      (grantTest_work _)).trans (.ite (earlyEnd_work b _) (advance_work b _))
  · exact .refl s

theorem oaeFrame_work : BayWork (· = b) s (oaeFrame b s) :=
  (windowFrame_work b s).trans (.ite (closeWindow_work b _) (.refl _))

end

/-! ### Frames, missing frames and ticks -/

theorem spuFrame_work (n : BitVec 16) (b : Bay) (s : State) : BayWork (· = b) s (spuFrame n b s) := updSpu_work b s _

theorem resyncSpus_work (s : State) : BayWork anyBay s (resyncSpus s) :=
  .overBays _ (fun b t => (updSpu_work b t _).any) _ s

theorem frameTask_work (s0 : State) (t : FrameTask) (s : State) : BayWork anyBay s (frameTask s0 t s) := by
  obtain ⟨b, u⟩ := t
  cases u
  · exact (enterTest_work b s).any
  · exact (fixtureTest_work b s _).any
  · exact (staleTest_work b s _).any
  · exact .ite (.refl s) (risFrame_work b s _).any
  · exact .ite (.refl s) (ltuFrame_work b s).any
  · exact .ite (oaeFrame_work b s).any (.refl s)

theorem frameTasks_work (s0 : State) (l : List FrameTask) (s : State) : BayWork anyBay s (frameTasks s0 l s) :=
  .foldl _ (fun s x => frameTask_work s0 x s) l s

theorem missingTask_work (t : FrameTask) (s : State) : BayWork anyBay s (missingTask t s) := by
  obtain ⟨b, u⟩ := t
  cases u
  · exact .refl s
  · exact .refl s
  · exact (staleTest_work b s _).any
  · exact .refl s
  · exact .refl s
  · exact discardBlock_work b s

theorem deliverLink_work (l : List Bay) (s : State) : BayWork anyBay s (deliverLink l s) :=
  .overBays _ (fun b t => .ite (raiseFault_work b t _).any (.refl t)) _ s

theorem standstillSet_work (b : Bay) (s : State) : BayWork (· = b) s (standstillSet b s) :=
  ((((standstillTest_work b s).trans (advance_work b _)).trans (permitStart_work b _)).trans
    (coolTest_work b _)).trans (testStopped_work b _)

theorem spuTick_work (b : Bay) (s : State) : BayWork (· = b) s (spuTick b s) :=
  (updSpu_work b s _).trans (.ite (standstillSet_work b _) (.refl _))

theorem holdTick_work (b : Bay) (s : State) : BayWork (· = b) s (holdTick b s) :=
  ((updRis_work b s _).trans (writeSummary_work b _ _)).trans (emitBay_work b _ _ _)

theorem driveTick_work (b : Bay) (s : State) : BayWork (· = b) s (driveTick b s) := .ite (writeSummary_work b s _) (.refl s)

theorem risCountTick_work (b : Bay) (s : State) : BayWork (· = b) s (risCountTick b s) :=
  ((driveTick_work b s).trans (.ite (holdTick_work b _) (.refl _))).trans (.ite (raiseFault_work b _ _) (.refl _))

theorem risPhaseEnd_work (b : Bay) (s : State) : BayWork (· = b) s (risPhaseEnd b s) := by
  refine .ite (raiseFault_work b s _) ?_
  split
  · exact (finishStep_work b s).trans (advance_work b _)
  · exact enterSettle_work b s
  · exact .refl s

theorem risPhaseTick_work (b : Bay) (s : State) : BayWork (· = b) s (risPhaseTick b s) := by
  unfold risPhaseTick
  split
  · split
    · exact .ite (.refl s) ((rampTick_work b s _ _ _ _).trans (advance_work b _))
    · split
      · exact (updRis_work b s _).trans (.ite (risPhaseEnd_work b _) (.refl _))
      · exact .refl s
  · exact .refl s

theorem withdrawRequest_work (b : Bay) (s : State) : BayWork (· = b) s (withdrawRequest b s) :=
  ((((setOae_work s _).trans (latchAlarm_work b _ _)).trans (emitBay_work b _ _ _)).trans
    (takeResult_work b _ _)).trans (advance_work b _)

theorem allocTick_work (l : List Bay) (s : State) : BayWork anyBay s (allocTick l s) :=
  ((setOae_work s _).trans (.overBays _ (fun b t => .ite (withdrawRequest_work b t).any (.refl t)) _ _)).trans
    (.ite (grantTest_work _) (.refl _))

theorem windowTick_work (b : Bay) (s : State) : BayWork (· = b) s (windowTick b s) := by
  unfold windowTick
  split
  · exact .ite ((setWindow_work b s _).trans (closeWindow_work b _)) (setWindow_work b s _)
  · exact .refl s

theorem stopTimedOut_work (b : Bay) (s : State) : BayWork (· = b) s (stopTimedOut b s) :=
  ((latchAlarm_work b s _).trans (updCtl_work b _ _)).trans (enterComplete_work b _)

theorem bycTick_work (b : Bay) (s : State) : BayWork (· = b) s (bycTick b s) := by
  have h : BayWork (· = b) s (if (s.bay b).ctl.state = .stopping then
      s.updCtl b fun c => { c with stoppingTime := c.stoppingTime + 1 } else s) := .ite (updCtl_work b s _) (.refl s)
  exact h.trans (.ite (stopTimedOut_work b _) (.refl _))

theorem leakTick_work (b : Bay) (s : State) : BayWork (· = b) s (leakTick b s) :=
  ((ltuTick_work b s).trans (advance_work b _)).trans (testStopped_work b _)

theorem stcTick_work (s : State) : BayWork anyBay s (stcTick s) :=
  ⟨rfl, rfl, rfl, rfl, rfl, rfl, rfl, rfl, rfl, fun _ => rfl, fun _ _ => ⟨rfl, rfl, rfl⟩⟩

/-- Every share of a tick but the LFE's is work of the bays' units. -/
theorem tickUnit_work (l : List Bay) (u : TickUnit) (h : u ≠ .lfe) (s : State) : BayWork anyBay s (tickUnit l u s) := by
  cases u with
  | lfe => exact absurd rfl h
  | risCount b => exact (risCountTick_work b s).any
  | risPhase b => exact (risPhaseTick_work b s).any
  | spu b => exact (spuTick_work b s).any
  | alloc => exact allocTick_work l s
  | window b => exact (windowTick_work b s).any
  | ltu b => exact (leakTick_work b s).any
  | byc b => exact (bycTick_work b s).any
  | stc => exact stcTick_work s

end Sys2Proof.Machine
end

