-- ==== Sys2Proof/Laws/Serve.lean ====
section
/-! SUPPORT. What taking a request and taking an expiry come to: one lemma for each shared operation of the management agent,
of an expiry command and of the writes into records. -/

namespace Sys2Proof.Machine

/-! ### Requests -/

/-- A request of the command is taken: the reply of the command's body, answered. -/
theorem serve_taken {c : Command} {q : MgmtRequest} {s : State} (body : Bytes → State → Reply) (h : TakenAs c q s) :
    serve c body s =
      (body (reqArgs q.payload) s.popRequest).state.respond q (body (reqArgs q.payload) s.popRequest).status
        (body (reqArgs q.payload) s.popRequest).results := by
  obtain ⟨h1, h2, h3, h4⟩ := h
  simp [serve, h1, h2, h3, h4]

/-- A body that refuses leaves the state but for the answer. -/
theorem serve_refused {c : Command} {q : MgmtRequest} {s : State} {body : Bytes → State → Reply} {st : Status}
    (h : TakenAs c q s) (hb : body (reqArgs q.payload) s.popRequest = .refuse s.popRequest st) :
    serve c body s = s.answered q st [] := by
  rw [serve_taken body h, hb]; rfl

/-- Every way a command of the agent can end: the head request is not one of it and nothing happens, its arguments have the
wrong length, or the body replies. -/
theorem serve_cases (c : Command) (body : Bytes → State → Reply) (s : State) :
    serve c body s = s
      ∨ (∃ q, s.headRequest = some q ∧ serve c body s = s.answered q .badArg [])
      ∨ ∃ q, TakenAs c q s ∧
          serve c body s = (body (reqArgs q.payload) s.popRequest).state.respond q
            (body (reqArgs q.payload) s.popRequest).status (body (reqArgs q.payload) s.popRequest).results := by
  unfold serve
  split
  · rename_i q hq
    split
    · rename_i he
      split
      · rename_i ha; exact .inr (.inr ⟨q, ⟨hq, he.1, he.2, ha⟩, rfl⟩)
      · exact .inr (.inl ⟨q, hq, rfl⟩)
    · exact .inl rfl
  · exact .inl rfl

theorem headRequest_some {s : State} {q : MgmtRequest} (h : s.headRequest = some q) :
    s.mga.resetTaken = false ∧ s.mga.responses.length < 4 ∧ ∃ rest, s.mga.requests = q :: rest := by
  unfold State.headRequest at h
  split at h
  · rename_i hc
    refine ⟨hc.1, hc.2, ?_⟩
    cases hr : s.mga.requests with
    | nil => rw [hr] at h; cases h
    | cons x xs => rw [hr] at h; cases h; exact ⟨xs, rfl⟩
  · cases h

@[simp] theorem State.popRequest_slot (s : State) (k : SlotIx) : s.popRequest.slot k = s.slot k := rfl
@[simp] theorem State.popRequest_alarms (s : State) : s.popRequest.mga.alarms = s.mga.alarms := rfl

/-- A bay argument in range, and one beyond it. -/
theorem bayArg_eq {args : Bytes} {i : Nat} {b : Bay} : bayArg args i = some b ↔ byteAt args i = b.val := by
  unfold bayArg
  split
  · rename_i h
    constructor
    · intro hb; cases hb; rfl
    · intro hb; congr 1; exact Fin.ext hb
  · rename_i h
    constructor
    · intro hb; cases hb
    · intro hb; exact absurd (hb ▸ b.isLt) h

theorem bayArg_none {args : Bytes} {i : Nat} : bayArg args i = none ↔ 4 ≤ byteAt args i := by
  unfold bayArg; split
  · rename_i h; simp; omega
  · rename_i h; simp; omega

theorem slotArg_eq {args : Bytes} {i : Nat} {k : SlotIx} : slotArg args i = some k ↔ byteAt args i = k.val := by
  unfold slotArg
  split
  · rename_i h
    constructor
    · intro hb; cases hb; rfl
    · intro hb; congr 1; exact Fin.ext hb
  · rename_i h
    constructor
    · intro hb; cases hb
    · intro hb; exact absurd (hb ▸ k.isLt) h

theorem slotArg_none {args : Bytes} {i : Nat} : slotArg args i = none ↔ 6 ≤ byteAt args i := by
  unfold slotArg; split
  · rename_i h; simp; omega
  · rename_i h; simp; omega

theorem recArg_eq {args : Bytes} {i : Nat} {k : RecIx} : recArg args i = some k ↔ byteAt args i = k.val := by
  unfold recArg
  split
  · rename_i h
    constructor
    · intro hb; cases hb; rfl
    · intro hb; congr 1; exact Fin.ext hb
  · rename_i h
    constructor
    · intro hb; cases hb
    · intro hb; exact absurd (hb ▸ k.isLt) h

theorem recArg_none {args : Bytes} {i : Nat} : recArg args i = none ↔ 12 ≤ byteAt args i := by
  unfold recArg; split
  · rename_i h; simp; omega
  · rename_i h; simp; omega

theorem entryArg_eq {args : Bytes} {i : Nat} {k : EntryIx} : entryArg args i = some k ↔ byteAt args i = k.val := by
  unfold entryArg
  split
  · rename_i h
    constructor
    · intro hb; cases hb; rfl
    · intro hb; congr 1; exact Fin.ext hb
  · rename_i h
    constructor
    · intro hb; cases hb
    · intro hb; exact absurd (hb ▸ k.isLt) h

theorem entryArg_none {args : Bytes} {i : Nat} : entryArg args i = none ↔ 64 ≤ byteAt args i := by
  unfold entryArg; split
  · rename_i h; simp; omega
  · rename_i h; simp; omega

/-! ### Expiry -/

/-- A share taken ahead of its tick is the block's work on the state with the tick opened, noted as served. -/
theorem serveUnit_eq (bays : List Bay) (u : TickUnit) (s : State) :
    serveUnit bays u s = { tickUnit bays u (openTick s) with tbs := (s.serving u).tbs } := by
  have h : (tickUnit bays u (openTick s)).tbs = (openTick s).tbs := by
    by_cases hu : u = .lfe
    · subst hu
      show (lfeTick bays (openTick s)).tbs = _
      unfold lfeTick; dsimp only
      split
      · rw [(deliverLink_work bays _).tbs]; dsimp only; split <;> rfl
      · split <;> rfl
    · exact (tickUnit_work bays u hu (openTick s)).tbs
  unfold serveUnit; dsimp only; rw [h]
  unfold State.serving openTick
  by_cases hs : s.tbs.served = [] <;> simp [hs]

/-- An expiry that happens. -/
theorem expire_taken {bays : List Bay} {u : TickUnit} {e : Bool} {s : State} (he : e = true) (h : s.awaits u) :
    expire bays u e s = { tickUnit bays u (openTick s) with tbs := (s.serving u).tbs } := by
  rw [← serveUnit_eq]
  unfold expire
  have : u ∉ s.tbs.served := h
  simp [he, this]

/-- Opening a tick changes the cell time at most. -/
theorem openTick_eq (s : State) : ∃ n, openTick s = { s with tbs := { s.tbs with cellTime := n } } := by
  unfold openTick; split
  · exact ⟨_, rfl⟩
  · exact ⟨s.tbs.cellTime, rfl⟩

/-! ### Bays and records -/

/-- Two updates of one bay are one. -/
@[simp] theorem State.updBay_updBay (s : State) (b : Bay) (f g : BayUnit → BayUnit) :
    (s.updBay b f).updBay b g = s.updBay b fun u => g (f u) := by
  have h : (s.updBay b f).bay b = f (s.bay b) := State.bay_updBay_same s b f
  show { s.updBay b f with bays := ((s.updBay b f).bays).set b (g ((s.updBay b f).bay b)) } = _
  rw [h]
  simp [State.updBay]

@[simp] theorem State.updRis_updRis (s : State) (b : Bay) (f g : Ris → Ris) :
    (s.updRis b f).updRis b g = s.updRis b fun r => g (f r) := State.updBay_updBay s b _ _

@[simp] theorem State.updLtu_updLtu (s : State) (b : Bay) (f g : Ltu → Ltu) :
    (s.updLtu b f).updLtu b g = s.updLtu b fun u => g (f u) := State.updBay_updBay s b _ _

@[simp] theorem State.updCtl_updCtl (s : State) (b : Bay) (f g : BayCtl → BayCtl) :
    (s.updCtl b f).updCtl b g = s.updCtl b fun c => g (f c) := State.updBay_updBay s b _ _

@[simp] theorem State.updSpu_updSpu (s : State) (b : Bay) (f g : Spu → Spu) :
    (s.updSpu b f).updSpu b g = s.updSpu b fun p => g (f p) := State.updBay_updBay s b _ _

/-- A write into the record a bay is bound to. -/
theorem writeBound_open {s : State} {b : Bay} {i : RecIx} {r : AxleRecord} (f : AxleRecord → AxleRecord)
    (h : s.bindsOpen b i r) : s.writeBound b f = { s with art := s.art.set i (some (f r)) } := by
  obtain ⟨h1, h2, h3⟩ := h
  simp [State.writeBound, h1, h2, h3]

/-- Without a bound OPEN record a write is discarded. -/
theorem writeBound_none {s : State} {b : Bay} (f : AxleRecord → AxleRecord) (h : ∀ i r, ¬ s.bindsOpen b i r) :
    s.writeBound b f = s := by
  unfold State.writeBound
  split
  · rfl
  · rename_i i hi
    split
    · rename_i r hr
      split
      · rename_i ho; exact absurd ⟨hi, hr, ho⟩ (h i r)
      · rfl
    · rfl

/-! ### Counters -/

/-- An addition never takes a counter above its maximum, and never lowers one that is in its range. -/
theorem Counter.add_value (n : Nat) (c : Counter) : (c.add n).value = min (c.value + n) counterMax := by
  unfold Counter.add; dsimp only; split <;> omega

theorem Counter.add_le (n : Nat) (c : Counter) : (c.add n).value ≤ counterMax := by
  rw [Counter.add_value]; omega

theorem Counter.le_add (n : Nat) {c : Counter} (h : c.value ≤ counterMax) : c.value ≤ (c.add n).value := by
  rw [Counter.add_value]; omega

/-- Emission changes the counters alone. -/
theorem State.emit_counter (s : State) (e : CounterEvt) (i : Fin 8) :
    (s.emit e).stc.counters.get i =
      if (s.stc.counters.get i).passes e then (s.stc.counters.get i).add 1 else s.stc.counters.get i := by
  unfold State.emit; simp

end Sys2Proof.Machine
end

