-- ==== Sys2Proof/WellFormed.lean ====
section
/-! DEFINITION. Which commands are well formed: a frame stands under the row of its kind and ends with its check, and
an order names nothing twice. `exec` is total on the others too (log entry 12). -/

namespace Sys2Proof

open Sys2Proof.Machine

/-- A frame has bytes, and none beyond its check (R172). -/
def frameShape (f : Bytes) : Bool := 1 ≤ f.length && f.length ≤ frameLen f + 12

/-- The check on a command. -/
def Instr.wf : Instr → Bool
  | .powerOn _ => true
  | .msTick units bays => decide units.Nodup && decide bays.Nodup
  | .sampleFrame f tasks => frameShape f && frameKind f == some 1 && decide tasks.Nodup
  | .outputFrame f => frameShape f && frameKind f == some 2
  | .mgmtReqReceive f => frameShape f && frameKind f == some 3
  | .framePassThrough .f f => frameShape f && frameKind f != some 1
  | .framePassThrough .c f => frameShape f && frameKind f != some 2
  | .responseInsert => true
  | .reportPartInsert => true
  | .resetApply => true
  | .identify => true
  | .setCellParams => true
  | .readCellParams => true
  | .loadChannelMap => true
  | .loadOutputMap => true
  | .readChannel => true
  | .recipePage => true
  | .recipeCommit => true
  | .recipeErase => true
  | .recipeStatus => true
  | .bayStart => true
  | .bayAbort => true
  | .bayUnload => true
  | .bayLock => true
  | .bayUnlock => true
  | .ackAlarms => true
  | .readBay => true
  | .readRecord => true
  | .releaseRecord => true
  | .counterSetup => true
  | .counterSnapshot => true
  | .resetPart => true
  | .unknownCommand => true
  | .standstillJudged _ => true
  | .stopTimeout _ => true
  | .linkLoss bays => decide bays.Nodup
  | .settleTimeout _ => true
  | .dwellEnd _ => true
  | .rerunEnd _ => true
  | .maxHoldTime _ => true
  | .laneWaitLimit bays => decide bays.Nodup
  | .windowLimit _ => true
  | .coolWaitLimit _ => true
  | .fillTimeout _ => true
  | .leakSettleEnd _ => true
  | .leakMeasureEnd _ => true
  | .ventEnd _ => true

end Sys2Proof
end

