-- ==== Sys2Proof/Tests/Slice0.lean ====
section
/-! SUPPORT. Tests: the well-formedness checks refuse what they should, worked cases of the spec, and for each statement with
hypotheses a concrete state that meets them. -/

namespace Sys2Proof.Tests

-- One theorem at a time: each waits for the kernel, and waiting threads take memory.
set_option Elab.async false

open Sys2Proof Sys2Proof.Machine

/-! ### Well-formedness -/

/-- A frame of a kind with a payload, correct check. -/
def frame (kind dest : Byte) (seq : Nat) (payload : Bytes) : Bytes :=
  buildFrame kind dest 9 (BitVec.ofNat 16 seq) payload

theorem test_wf_frames : (Instr.sampleFrame (frame 1 0 1 [7]) []).wf = true
    ∧ (Instr.outputFrame (frame 2 0 1 [7])).wf = true ∧ (Instr.mgmtReqReceive (frame 3 5 1 [7])).wf = true
    ∧ (Instr.framePassThrough .f (frame 2 0 1 [7])).wf = true ∧ (Instr.framePassThrough .c (frame 1 0 1 [7])).wf = true := by
  decide +kernel

theorem test_wf_refuses_no_bytes : (Instr.sampleFrame [] []).wf = false ∧ (Instr.outputFrame []).wf = false
    ∧ (Instr.mgmtReqReceive []).wf = false ∧ (Instr.framePassThrough .f []).wf = false
    ∧ (Instr.framePassThrough .c []).wf = false := by decide +kernel

theorem test_wf_refuses_trailing_bytes : (Instr.sampleFrame (frame 1 0 1 [7] ++ [0]) []).wf = false
    ∧ (Instr.outputFrame (frame 2 0 1 [7] ++ [0])).wf = false ∧ (Instr.mgmtReqReceive (frame 3 5 1 [7] ++ [0])).wf = false
    ∧ (Instr.framePassThrough .c (frame 1 0 1 [7] ++ [0])).wf = false := by decide +kernel

theorem test_wf_refuses_wrong_kind : (Instr.sampleFrame (frame 2 0 1 [7]) []).wf = false
    ∧ (Instr.outputFrame (frame 1 0 1 [7])).wf = false ∧ (Instr.mgmtReqReceive (frame 4 5 1 [7])).wf = false
    ∧ (Instr.framePassThrough .f (frame 1 0 1 [7])).wf = false
    ∧ (Instr.framePassThrough .c (frame 2 0 1 [7])).wf = false := by decide +kernel

theorem test_wf_refuses_repeats : (Instr.sampleFrame (frame 1 0 1 [7]) [(0, .ris), (0, .ris)]).wf = false
    ∧ (Instr.msTick [.stc, .stc] []).wf = false ∧ (Instr.msTick [] [1, 1]).wf = false
    ∧ (Instr.linkLoss [2, 2]).wf = false ∧ (Instr.laneWaitLimit [3, 0, 3]).wf = false := by decide +kernel

theorem test_no_word_spells_a_command : decodeTableWord 16 0x1234 = none := rfl

/-! ### Worked cases of the spec -/

/-- R159: the check over the nine ASCII bytes "123456789". -/
theorem test_frame_check : frameCheck [0x31, 0x32, 0x33, 0x34, 0x35, 0x36, 0x37, 0x38, 0x39] = 0xCBF43926 := by
  decide +kernel

/-- The channel entries of section 4.9. -/
def analogEntry (pos len : Nat) (signed : Bool) (gain : Int) : ChannelEntry :=
  { ChannelEntry.cleared with enabled := true, kind := some .analog, bitPos := pos, len := len, signed := signed, gain := gain }

/-- Section 4.9, frames 100 and 104: oil 853 and 4000, torque −4101, pressure 21845. -/
theorem test_analog_conversion :
    convertAnalog (analogEntry 40 16 true 2560) 853 = 8530
    ∧ convertAnalog (analogEntry 40 16 true 2560) 4000 = 32767
    ∧ convertAnalog (analogEntry 56 20 true 64) (2 ^ 20 - 4101) = -1026
    ∧ convertAnalog (analogEntry 1408 16 false 117) 21845 = 9983 := by decide +kernel

/-- Section 4.9, frame 100: the first two samples of the accelerometer. -/
theorem test_vib_conversion : convertSample 12 0x800 = -32768 ∧ convertSample 12 0x7FF = 32752
    ∧ clippedSample (-32768) = true ∧ clippedSample 32752 = false := by decide +kernel

/-- Section 4.9, frame 104: a tacho field with edge time 1012 is invalid, one with 999 is not. -/
theorem test_tacho_validity :
    convertField { ChannelEntry.cleared with kind := some .tacho, len := 28 } (1000 + 1012 * 2 ^ 16 + 2 ^ 27) = none
    ∧ convertField { ChannelEntry.cleared with kind := some .tacho, len := 28 } (1000 + 999 * 2 ^ 16 + 2 ^ 27)
      = some (.tacho { count := 1000, time := 999, reverse := false, edge := true }) := by decide +kernel

/-- Chapter 5: the speed from the gate, the slowest one, and the clamp. -/
theorem test_gate_speed :
    gateSpeed 120 [(0, { count := 1040, time := 300, reverse := false, edge := true }),
      (40, { count := 1000, time := 100, reverse := false, edge := true })] = some 31840
    ∧ gateSpeed 120 [(0, { count := 1, time := 999, reverse := false, edge := true }),
      (63, { count := 0, time := 0, reverse := false, edge := true })] = some 500
    ∧ gateSpeed 1 [(0, { count := 301, time := 30, reverse := false, edge := true }),
      (2, { count := 300, time := 990, reverse := false, edge := true })] = some 65535 := by decide +kernel

/-- Section 8.8: phase step, line step, phase index of sample 3 and block amplitude. -/
theorem test_order_arithmetic : phaseStep 31840 = 4451555 ∧ lineStep 4451555 2816 = 48967105
    ∧ phaseIndex 146901315 = 35 ∧ blockAmplitude 4096 { inPhase := 100000000000, quad := -60000000000, peak := 0 } = 6951 := by
  decide +kernel

/-- Section 8.9: order 240 lies on the band at 64,000 speed counts and below it at 63,999. -/
theorem test_band_limit : overBand (lineStep (phaseStep 64000) (240 * 256)) = true
    ∧ overBand (lineStep (phaseStep 63999) (240 * 256)) = false := by decide +kernel

/-- The seven rows of section 8.8. -/
theorem test_line_states : lineState 7200 128 6951 true (some 9) false = .pass
    ∧ lineState 6951 128 6951 true (some 9) false = .pass ∧ lineState 6800 128 6951 true (some 3000) false = .fail
    ∧ lineState 6800 128 6951 true (some 3500) false = .masked ∧ lineState 6800 128 6951 true (some 3400) false = .masked
    ∧ lineState 6800 128 6951 true (some 3000) true = .masked ∧ lineState 0 128 6951 true (some 9) false = .skipped
    ∧ lineState 6800 128 6951 true none false = .fail := by decide +kernel

/-- A cavity with the limits of section 9.10. -/
def cavity : Cavity :=
  { id := .carrier, pressRole := .press1, tempRole := .housingTemp, pair := 1, fillTarget := 5000, fillTolerance := 30,
    overfillMargin := 100, fillTimeout := 1000, grossMargin := 150, settleTime := 100, measureTime := 20000, decayLimit := 8,
    negDecayLimit := 3, retry := 1, ventTime := 100, maxStartTemp := 3600, coolWaitLimit := 10000 }

/-- Section 9.10: decays, rate and outcomes. -/
theorem test_decay : decayOf 5000 4990 10130 3550 3540 = 6 ∧ rateOf 6 20000 = 18
    ∧ decayOf 5000 4990 10130 3550 3580 = 24 ∧ decayOf 5000 5004 10130 3550 3550 = -4
    ∧ decayOf 5000 4992 10130 3550 3550 = 8 ∧ judgeDecay cavity 6 = .pass ∧ judgeDecay cavity 24 = .fail
    ∧ judgeDecay cavity (-4) = .invalid ∧ judgeDecay cavity 8 = .pass := by decide +kernel

/-- Section 10.5: a counter on SPOOL_DEPTH in EDGE mode and one in THRESHOLD mode over six ticks. -/
theorem test_counter_modes :
    ([2, 3, 4, 3, 2, 3].foldl (fun c x => Counter.tick x c)
      { Counter.reset with event := .spoolDepth, mode := .edge, threshold := 3 }).value = 2
    ∧ ([2, 3, 4, 3, 2, 3].foldl (fun c x => Counter.tick x c)
      { Counter.reset with event := .spoolDepth, mode := .threshold, threshold := 3 }).value = 4 := by decide +kernel

/-- Section 11.3: the sequence cases of the worked sequence. -/
theorem test_sequence_cases : seqCase (some 500) 0 501 = .accept ∧ seqCase (some 503) 0 507 = .gap 3
    ∧ seqCase (some 507) 0 9000 = .refuse ∧ seqCase (some 507) 1 9001 = .refuse ∧ seqCase (some 507) 2 9002 = .resync
    ∧ seqCase (some 500) 0 516 = .gap 15 ∧ seqCase (some 500) 0 517 = .refuse := by decide +kernel

/-! ### A small part under test -/

/-- A step of a kind with a target. -/
def stepOfKind (kind : StepKind) (target : Nat) : Machine.Step :=
  let s : Machine.Step :=
    { kind := kind, loadMode := .fwdDrive, torqueLimit := 1800, rampRate := 300, target := target
      dwell := if kind = .run then 100 else 0
      measureIndex := 0, vibSet := .off, ambient := false, blocks := 0, minBlocks := 0, windowLimit := 0, retry := 0
      rerunOnFail := false, rerunDwell := 0 }
  if kind = .measure then
    { s with vibSet := .a, blocks := 2, minBlocks := 1, windowLimit := 500, retry := 1, rerunOnFail := true, rerunDwell := 50 }
  else s

def recipe : Recipe :=
  { name := List.replicate 16 0x41, version := 7, maxSpeed := 30000, stopRamp := 400, leakOrder := .after,
    stopAtFirstFail := false, ppr := 120, gate := 41, standstillTime := 100, tolerance := 80, settleFrames := 20,
    settleTimeout := 8000, oilWarn := 9000, oilAbort := 10000, hysteresis := 500, maxHold := 1000, overloadMargin := 15,
    overloadFrames := 4, blockExp := 10, laneWaitLimit := 1000, ambientRatio := 128,
    steps := [stepOfKind .run 16000, stepOfKind .measure 16000, stepOfKind .run 8000],
    lines := [{ order := 2816, label := List.replicate 8 0x42 }], limits := [6800, 0, 0, 0, 0, 0, 0, 0],
    cavities := [cavity, { cavity with id := .hubL, pressRole := .press2, pair := 2 }] }

def entry (o : Owner) (r : Role) (pos len : Nat) : ChannelEntry :=
  { enabled := true, owner := o, role := some r, kind := some (kindOfRole r), bitPos := pos, len := len,
    signed := kindOfRole r == .analog, gain := if kindOfRole r = .analog then 256 else 0, offset := 0,
    stride := if kindOfRole r = .vib then 16 else 0 }

/-- Channels of bay 0, one past a short payload, and the barometer. -/
def entries : List ChannelEntry :=
  [entry (.bay 0) .stat 0 3, entry (.bay 0) .tacho 8 28, entry (.bay 0) .oilTemp 40 16, entry (.bay 0) .torque 56 16,
   entry (.bay 0) .press1 72 16, entry (.bay 0) .housingTemp 88 16, entry .cell .baro 104 16,
   entry (.bay 0) .vibA 120 16, entry (.bay 0) .press2 8000 16]

def record : AxleRecord :=
  { state := .opened, serial := [0x37, 0x48], bay := 0, slot := 0, name := recipe.name, version := 7, startTime := 3,
    endTime := none, verdict := none, reasons := none, cause := none, summary := .opening, noise := [], leaks := [] }

/-- Bay 0 in RUNIN. -/
def runinUnit : BayUnit :=
  { BayUnit.reset with
    ctl :=
      { BayCtl.reset with
        state := .running, subPhase := some .runin, plan := [.runin, .leakPost], bound := some 0, slot := some 0,
        roles := [(.stat, 0), (.tacho, 1), (.oilTemp, 2), (.torque, 3), (.press1, 4), (.housingTemp, 5), (.baro, 6),
          (.vibA, 7), (.press2, 8)] }
    spu := { Spu.started recipe.spuParams with standstill := false, speed := 16000, quiet := 99 }
    ris := { Ris.reset with
      phase := .dwell, stepIndex := some 0, cmdSpeed := 16000, driveEnable := true, loadMode := some .fwdDrive,
      torqueLimit := some 1800, phaseTimer := 99 } }

/-- Bay 0 runs the first step; the others are vacant. -/
def part : State :=
  { State.reset with
    lfe := { State.reset.lfe with link := .up, nodeAddr := 5 }
    chx := { State.reset.chx with
      entries := Vector.ofFn fun i => (entries[i.val]?).getD .cleared
      partitions := 1
      latches := Vector.replicate 64 { value := .zero, age := 0 }
      outputMap := State.reset.chx.outputMap.set 0 { enabled := true, offset := 0 } }
    rbk := State.reset.rbk.set 0
      { state := .valid, expected := some 2, presence := 3, pages := [], recipe := some recipe, failure := none, pins := 1 }
    art := State.reset.art.set 0 (some record)
    bays := State.reset.bays.set 0 runinUnit }

/-- The part with another unit at bay 0. -/
def withUnit (f : BayUnit → BayUnit) : State := part.updBay 0 f

def withRis (f : Ris → Ris) : State := part.updRis 0 f

/-- Bay 0 in LEAK_POST at standstill, with a cavity in progress. -/
def leaking (f : Ltu → Ltu) : State :=
  withUnit fun u =>
    { u with
      ctl := { u.ctl with subPhase := some .leakPost }
      spu := { u.spu with standstill := true, speed := 0 }
      ris := .reset
      ltu := f { Ltu.reset with cavityIndex := some 0, startPermitted := true } }

/-- Bay 0 in RUNIN on other steps, with another plan and RIS; its quiet time is 1 below the standstill time. -/
def running (steps : List Machine.Step) (plan : List SubPhase) (x : Ris) : State :=
  { withUnit fun u => { u with ctl := { u.ctl with plan := plan }, ris := x } with
    rbk := part.rbk.set 0 { part.rbk.get 0 with recipe := some { recipe with steps := steps } } }

/-- The RIS of bay 0 in a phase at a commanded speed, its phase timer at 99. -/
def risAt (p : RisPhase) (speed : Nat) : Ris := { (part.bay 0).ris with phase := p, cmdSpeed := speed }

/-- Bay 0 in STOPPING after an abort, the shaft still turning. -/
def stopping (f : BayUnit → BayUnit) : State :=
  withUnit fun u =>
    f { u with
      ctl := { u.ctl with state := .stopping, subPhase := none, cause := some .operator, stoppingTime := 29999 }
      ris := { u.ris with phase := .rundown } }

/-- Bay 0 not in a test, with a controller state. -/
def resting (st : BayState) : State :=
  { part with
    art := State.reset.art
    bays := State.reset.bays.set 0 { BayUnit.reset with ctl := { BayCtl.reset with state := st } }
    rbk := part.rbk.set 0 { part.rbk.get 0 with pins := 0 } }

/-- A request from node 9 with tag 77. -/
def request (code : Nat) (args : Bytes) : MgmtRequest :=
  { source := 9, payload := leBytes 2 code ++ leBytes 2 77 ++ leBytes 2 args.length ++ args }

/-- The state with one request waiting. -/
def asked (code : Nat) (args : Bytes) (s : State) : State :=
  { s with mga := { s.mga with requests := [request code args] } }

/-- The state after a command. -/
def after (c : Instr) (s : State) : State :=
  match exec c s with
  | .next t => t
  | _ => s

/-- Status codes of the responses that wait. -/
def statuses (s : State) : List Status := s.mga.responses.map (·.status)

/-- The payload of a sample frame: STAT, tacho, oil, torque, pressure, housing temperature, barometer, 56 bytes long. -/
def sampleBytes (stat oil torque press : Nat) : Bytes :=
  leBytes 56 (stat + (1000 + 100 * 2 ^ 16 + 2 ^ 27) * 2 ^ 8 + oil * 2 ^ 40 + torque * 2 ^ 56 + press * 2 ^ 72
    + 3550 * 2 ^ 88 + 10130 * 2 ^ 104)

/-- A sample frame with a sequence number. -/
def sample (seq stat oil torque press : Nat) : Bytes := frame 1 0 seq (sampleBytes stat oil torque press)

/-! ### Commands on the small part -/

theorem test_power_on_straps : (after (.powerOn 17) part).lfe.nodeAddr = 17 ∧ (after (.powerOn 17) part).art.get 0 = none := by
  decide +kernel

theorem test_tick_counts : (after (.msTick [] []) part).tbs.cellTime = 1
    ∧ ((after (.msTick [] []) part).bay 0).ris.stepIndex = some 1
    ∧ (((after (.msTick [] []) part).art.get 0).map (·.summary.driveTime)) = some 1 := by decide +kernel

/-- R89's example: 300 rpm/s is 4800 counts/s, so the ramp adds 4, 5, 5, 5, 5 counts in the first five ticks. -/
theorem test_tick_ramps :
    ((List.range 5).foldl (fun p _ => (rampStep 300 24000 30000 p.1 p.2).1 |> fun v =>
      (v, (rampStep 300 24000 30000 p.1 p.2).2)) (0, 0)) = (24, 0) := by decide +kernel

/-- R89: a ramp tick that changes the commanded speed resets the steady counter, also in the run-down of STOPPING. -/
theorem test_rundown_resets_steady :
    let s := stopping fun u => { u with ctl := { u.ctl with stoppingTime := 0 }, spu := { u.spu with steadyCount := 20, quiet := 0 } }
    let t := after (.msTick [] []) s
    ((t.bay 0).ctl.state, (t.bay 0).ris.cmdSpeed, (t.bay 0).spu.steadyCount) = (.stopping, 15994, 0) := by decide +kernel

theorem test_sample_frame_fixture_open : ((after (.sampleFrame (sample 1 1 8000 100 4990) []) part).bay 0).ctl.cause
      = some .fixture := by decide +kernel

/-- R10: a frame that opens the fixture and leaves a role stale latches both flags and keeps the first cause. -/
theorem test_two_faults :
    let s := { part with chx := { part.chx with latches := part.chx.latches.set 8 { value := .zero, age := 8 } } }
    let u := (after (.sampleFrame (sample 1 1 8000 100 4990) []) s).bay 0
    (u.ctl.cause, hasAlarm u.ctl.alarms .fixture, hasAlarm u.ctl.alarms .sensor) = (some .fixture, true, true) := by
  decide +kernel

/-- The frame goes on with bay 0 RUNNING in RUNIN, the link UP and a correct check. -/
theorem test_sample_frame_status_block :
    ((after (.sampleFrame (sample 1 3 8000 100 4990) []) part).ports.sentC.map fun f =>
      (byteAt f 8, byteAt f 56, frameGood f)) = [(2 + 8 * 2, 1, true)] := by decide +kernel

/-- The record of R174: drive enable 1 and FWD_DRIVE, 16000 speed counts, 1800 N·m, no valves, RUNNING. -/
theorem test_output_frame_record :
    ((after (.outputFrame (frame 2 0 1 (List.replicate 13 0xFF))) part).ports.sentF.map fun f => (framePayload f, frameGood f))
      = [([3, 0, 0x80, 0x3E, 0x08, 0x07, 0, 2, 0, 0, 0, 0, 0xFF], true)] := by decide +kernel

theorem test_request_queued : ((after (.mgmtReqReceive (frame 3 5 1 [1, 0, 77, 0, 0, 0])) part).mga.requests)
      = [{ source := 9, payload := [1, 0, 77, 0, 0, 0] }] := by decide +kernel

theorem test_pass_through : (after (.framePassThrough .f (frame 9 0 1 [4])) part).ports.sentC = [frame 9 0 1 [4]]
    ∧ (after (.framePassThrough .c (frame 9 0 1 [4])) part).ports.sentF = [frame 9 0 1 [4]] := by decide +kernel

/-- The response to a BAY_LOCK: header, code 14, tag 77, OK, no results. -/
theorem test_response_insert :
    (((after .responseInsert
        { after .bayLock (asked 14 [1] part) with lfe := { part.lfe with opportunity := some .response } }).ports.sentC).map fun f =>
      (f.take 16, frameGood f))
      = [([4, 9, 5, 0, 0, 0, 8, 0, 14, 0, 77, 0, 0, 0, 0, 0], true)] := by decide +kernel

/-- A short record is one part; after it the record is SENT and the spool empty. -/
theorem test_report_insert :
    let s := { stopping id with
      art := part.art.set 0 (some { record with state := .queued })
      rsp := { part.rsp with spool := [0] }
      lfe := { part.lfe with opportunity := some .report } }
    ((after .reportPartInsert s).rsp.spool, (after .reportPartInsert s).recState 0,
      (after .reportPartInsert s).ports.sentC.map fun f => (byteAt f 0, byteAt f 1, byteAt f 30, byteAt f 31))
      = ([], some .sent, [(5, 255, 0, 1)]) := by decide +kernel

/-- R146: what is placed after the forwarding, or follows another frame on port C, waits for the next opportunity. -/
theorem test_opportunity_passes :
    let f := after (.sampleFrame (sample 1 3 8000 100 4990) []) part
    let g := after (.sampleFrame (sample 1 3 8000 100 4990) []) (after .bayLock (asked 14 [1] part))
    (after .responseInsert (after .bayLock (asked 14 [1] f))).ports.sentC.length = 1
    ∧ (after .responseInsert g).ports.sentC.length = 2
    ∧ (after .responseInsert (after (.framePassThrough .f (frame 9 0 1 [4])) g)).ports.sentC.length = 2 := by decide +kernel

theorem test_reset_apply : (after .resetApply { part with mga := { part.mga with resetDue := true } }).lfe.link = .down
    ∧ ((after .resetApply { part with mga := { part.mga with resetDue := true } }).rbk.get 0).state = .valid := by
  decide +kernel

theorem test_identify : statuses (after .identify (asked 1 [] part)) = [.ok] := by decide +kernel

theorem test_set_cell_params :
    (after .setCellParams (asked 2 [20, 9, 3, 5, 0xE8, 3, 0, 0, 0, 0] part)).mga.params =
      { linkLossTimeout := 20, staleLimit := 9, qualityStopLimit := 3, demandThreshold := 5, stopTimeout := 1000,
        statusOffset := 0 } := by decide +kernel

theorem test_read_cell_params : (after .readCellParams (asked 3 [] part)).mga.responses.map (·.results) =
    [[10, 8, 0, 4, 0x30, 0x75, 0, 0, 0, 0, 1, 5, 0, 0, 0, 0, 0, 0]] := by decide +kernel

/-- Item for entry 3: an ANALOG torque channel of bay 0. -/
def mapItem (index action : Byte) : Bytes := [index, action, 0, 6, 3, 20, 56, 0, 1, 0, 64, 0, 0, 0, 0, 0]

theorem test_load_channel_map :
    let t := after .loadChannelMap (asked 4 ([3, 2] ++ mapItem 3 1 ++ mapItem 8 0) (resting .vacant))
    (statuses t, t.chx.partitions, t.chx.entries.get 3, (t.chx.entries.get 8).enabled)
      = ([.ok], 3,
          { ChannelEntry.cleared with
            enabled := true, role := some .torque, kind := some .analog, bitPos := 56, len := 20, signed := true,
            gain := 64 },
          false) := by decide +kernel

/-- R60: the index named twice is at position 1, and a map request is BUSY while a bay holds roles. -/
theorem test_load_channel_map_refused :
    (after .loadChannelMap (asked 4 ([3, 2] ++ mapItem 3 1 ++ mapItem 3 0) (resting .vacant))).mga.responses.map
      (fun r => (r.status, r.results)) = [(.badArg, [1])]
    ∧ statuses (after .loadChannelMap (asked 4 [3, 0] part)) = [.busy] := by decide +kernel

theorem test_load_output_map :
    let t := after .loadOutputMap (asked 5 [1, 0, 0, 0, 1, 0, 12, 0, 0, 0, 0, 0, 0, 0, 0, 0] (resting .vacant))
    (statuses t, t.chx.outputMap.get 1) = ([.ok], { enabled := true, offset := 12 })
    ∧ statuses (after .loadOutputMap (asked 5 [1, 0, 0, 0, 1, 0, 11, 0, 0, 0, 0, 0, 0, 0, 0, 0] (resting .vacant)))
      = [.badArg] := by decide +kernel

theorem test_read_channel : (after .readChannel (asked 6 [2] part)).mga.responses.map (·.results)
      = [[1, 0, 4, 3, 40, 0, 16, 1, 0, 1, 0, 0, 0, 0, 1, 0, 0, 0]] := by decide +kernel

theorem test_recipe_page :
    let t := after .recipePage (asked 7 ([1, 1, 2, 0] ++ List.replicate 256 7) part)
    (statuses t, (t.slot 1).state, (t.slot 1).presence, (t.slot 1).expected) = ([.ok], .loading, 2, some 2)
    ∧ statuses (after .recipePage (asked 7 ([0, 1, 2, 0] ++ List.replicate 256 7) part)) = [.pinned] := by decide +kernel

/-- A slot being loaded with one page of zeros, whose header fails at stage 1. -/
def loadingZeros (presence : BitVec 8) (expected : Nat) : State :=
  { part with
    rbk := part.rbk.set 1
      { Slot.reset with
        state := .loading, expected := some expected, presence := presence, pages := [(0, List.replicate 256 0)] } }

theorem test_recipe_commit : ((after .recipeCommit (asked 8 [1] (loadingZeros 1 1))).slot 1).state = .invalid
    ∧ (after .recipeCommit (asked 8 [1] (loadingZeros 1 2))).mga.responses.map (fun r => (r.status, r.results))
      = [(.pagesMissing, [1])] := by decide +kernel

theorem test_recipe_erase : statuses (after .recipeErase (asked 9 [0] part)) = [.pinned]
    ∧ ((after .recipeErase (asked 9 [0] (resting .vacant))).slot 0).state = .empty := by decide +kernel

theorem test_recipe_status : ((after .recipeStatus (asked 10 [0] part)).mga.responses.map fun r => r.results.drop 1)
      = [[1, 1, 2, 3, 0, 0, 0] ++ [1] ++ List.replicate 16 0x41 ++ [7, 0] ++ [1, 3, 1, 2, 1]] := by decide +kernel

/-- A serial of two characters, in its 21 bytes. -/
def serialArg : Bytes := [2, 0x37, 0x48] ++ List.replicate 18 0x20

/-- The bay is READY and the recipe's roles resolve but for those the small map lacks: TORQUE is role 6. -/
theorem test_bay_start_mismatch :
    (after .bayStart (asked 11 ([1, 0] ++ serialArg) (resting .vacant))).mga.responses.map (fun r => (r.status, r.results))
      = [(.mapMismatch, [10, 0])] := by decide +kernel

theorem test_bay_start_opens :
    let t := after .bayStart (asked 11 ([0, 0] ++ serialArg) (resting .vacant))
    (statuses t, (t.bay 0).ctl.state, (t.bay 0).ctl.plan, (t.bay 0).ctl.bound, (t.slot 0).pins, t.recState 0)
      = ([.ok], .ready, [.runin, .leakPost], some 0, 1, some .opened) := by decide +kernel

/-- The shaft turns, so the aborted bay stays in STOPPING until it stands. -/
theorem test_bay_abort :
    let t := after .bayAbort (asked 12 [0] part)
    (statuses t, (t.bay 0).ctl.state, (t.bay 0).ctl.cause, (t.bay 0).ris.phase, ((t.art.get 0).map (·.cause)))
      = ([.ok], .stopping, some .operator, .rundown, some (some .operator)) := by decide +kernel

theorem test_bay_unload : ((after .bayUnload (asked 13 [0] (resting .complete))).bay 0).ctl.state = .vacant
    ∧ statuses (after .bayUnload (asked 13 [0] part)) = [.wrongState] := by decide +kernel

theorem test_bay_lock : ((after .bayLock (asked 14 [1] part)).bay 1).ctl.state = .locked
    ∧ ((after .bayLock (asked 14 [0] part)).bay 0).ctl.lockPending = true := by decide +kernel

theorem test_bay_unlock : ((after .bayUnlock (asked 15 [0] (resting .locked))).bay 0).ctl.state = .vacant
    ∧ statuses (after .bayUnlock (asked 15 [1] part)) = [.wrongState] := by decide +kernel

theorem test_ack_alarms :
    let s := part.updCtl 0 fun c => { c with alarms := 0b11 }
    ((after .ackAlarms (asked 16 [0, 2, 0] s)).bay 0).ctl.alarms = 1
    ∧ statuses (after .ackAlarms (asked 16 [0xFF, 0x10, 0] s)) = [.badArg] := by decide +kernel

/-- State RUNNING, sub-phase RUNIN, then the plan (RUNIN, LEAK_POST) and bound record 0. -/
theorem test_read_bay : ((after .readBay (asked 17 [0] part)).mga.responses.map fun r => r.results.take 8)
      = [[2, 1, 2, 2, 2, 3, 1, 0]] := by decide +kernel

/-- In a retry vent the readings of the judged attempt follow: P0 5000, T0 3550, P1 4990, T1 3580, D 24, rate 72 (R137). -/
theorem test_read_bay_retry_vent :
    let s := leaking fun u =>
      { u with phase := .vent, afterVent := some .refill, p0 := some 5000, t0 := some 3550, p1 := some 4990, t1 := some 3580,
               decay := some 24, rate := some 72 }
    ((after .readBay (asked 17 [0] s)).mga.responses.map fun r => r.results.drop (r.results.length - 22))
      = [[1, 0x88, 0x13, 1, 0xDE, 0x0D, 1, 0x7E, 0x13, 1, 0xFC, 0x0D, 1, 24, 0, 0, 0, 1, 72, 0, 0, 0]] := by decide +kernel

theorem test_read_record :
    ((after .readRecord (asked 18 [0, 0] part)).mga.responses.map fun r => (r.status, r.results.take 4, r.results.length))
      = [(.ok, [0, 2, 0x37, 0x48], 26 + 72)]
    ∧ statuses (after .readRecord (asked 18 [0, 1] part)) = [.badArg] := by decide +kernel

theorem test_release_record :
    let s := { resting .vacant with art := part.art.set 0 (some { record with state := .sent }) }
    (after .releaseRecord (asked 19 ([0] ++ serialArg) s)).art.get 0 = none
    ∧ statuses (after .releaseRecord (asked 19 ([0] ++ serialArg) part)) = [.wrongState] := by decide +kernel

theorem test_counter_setup :
    ((after .counterSetup (asked 20 [2, 1, 0, 0, 3, 2, 0xFF, 0, 2, 0, 0, 0] part)).stc.counters.get 2) =
      { Counter.reset with event := .axleDone, baySet := 3, resultSet := 2, alarmLimit := 2 } := by decide +kernel

theorem test_counter_snapshot :
    let s := { part with stc := { part.stc with counters := part.stc.counters.set 1 { Counter.reset with value := 258 } } }
    ((after .counterSnapshot (asked 21 [1] s)).stc.snapshot.values, ((after .counterSnapshot (asked 21 [1] s)).stc.counters.get 1).value)
      = ([0, 258, 0, 0, 0, 0, 0, 0], 0) := by decide +kernel

theorem test_reset_part : (after .resetPart (asked 22 [] part)).mga.resetTaken = true
    ∧ statuses (after .resetPart (asked 22 [] part)) = [.ok] := by decide +kernel

theorem test_unknown_command : statuses (after .unknownCommand (asked 23 [] part)) = [.unknownCommand]
    ∧ statuses (after .unknownCommand (asked 14 [1, 1] part)) = [.badArg] := by decide +kernel

theorem test_standstill_judged :
    ((after (.standstillJudged 0) (stopping fun u => { u with ris := { u.ris with cmdSpeed := 0 } })).bay 0).ctl.state
      = .complete := by decide +kernel

theorem test_stop_timeout :
    let t := after (.stopTimeout 0) (stopping id)
    ((t.bay 0).ctl.state, (t.bay 0).ctl.lockPending, t.recState 0, t.rsp.spool) = (.complete, true, some .queued, [0]) := by
  decide +kernel

theorem test_link_loss :
    let s := { part with lfe := { part.lfe with sampleQuiet := 9 } }
    (((after (.linkLoss []) s).bay 0).ctl.cause, (after (.linkLoss []) s).lfe.link) = (some .link, .lost) := by decide +kernel

theorem test_settle_timeout :
    ((after (.settleTimeout 0) (withRis fun r => { r with phase := .settle, phaseTimer := 7999 })).bay 0).ctl.cause
      = some .settle
    ∧ after (.settleTimeout 0) (withRis fun r => { r with phase := .settle, phaseTimer := 7998 })
      = withRis fun r => { r with phase := .settle, phaseTimer := 7998 } := by decide +kernel

/-- The next step has the target the shaft already runs at, so it settles at once. -/
theorem test_dwell_end : ((after (.dwellEnd 0) part).bay 0).ris.stepIndex = some 1
    ∧ ((after (.dwellEnd 0) part).bay 0).ris.phase = .settle := by decide +kernel

theorem test_rerun_end :
    ((after (.rerunEnd 0) (withRis fun r => { r with phase := .rerun, stepIndex := some 1, phaseTimer := 49 })).bay 0).ris.phase
      = .settle := by decide +kernel

theorem test_max_hold :
    ((after (.maxHoldTime 0) (withRis fun r => { r with hold := true, holdTimer := 999 })).bay 0).ctl.cause
      = some .overtemp := by decide +kernel

/-- Bay 0 waits for lanes in its MEASURE step. -/
def waiting (budget : Nat) : State :=
  { withRis (fun r => { r with phase := .measureWait, stepIndex := some 1, budget := budget, attempts := 1 }) with
    oae := { part.oae with queue := [{ bay := 0, need := 1, wait := 999 }] } }

theorem test_lane_wait_limit :
    let t := after (.laneWaitLimit []) (waiting 1)
    ((t.bay 0).ris.phase, (t.bay 0).ris.budget, t.oae.queue, hasAlarm (t.bay 0).ctl.alarms .laneWait)
      = (.settle, 0, [], true) := by decide +kernel

/-- Bay 0 with an open window on lane 0. -/
def measuring (budget valid : Nat) : State :=
  { withUnit (fun u =>
      { u with
        ris := { u.ris with phase := .measure, stepIndex := some 1, budget := budget, attempts := 1 }
        window := some { Window.opened recipe (stepOfKind .measure 16000) with timer := 499, valid := valid } }) with
    oae := { part.oae with lanes := part.oae.lanes.set 0 (some { bay := 0, role := .vibA }) } }

/-- Without a valid block and without budget the step ends with an INCOMPLETE entry. -/
theorem test_window_limit :
    let t := after (.windowLimit 0) (measuring 0 0)
    (t.bay 0).window.isNone ∧ (t.oae.lanes.get 0).isNone ∧ (t.bay 0).ris.stepIndex = some 2
    ∧ ((t.art.get 0).map fun r => r.noise.map (·.result)) = some [.incomplete]
    ∧ ((t.art.get 0).map fun r => r.noise.map (·.reason)) = some [some .fewBlocks] := by decide +kernel

theorem test_cool_wait_limit :
    let t := after (.coolWaitLimit 0) (leaking fun u => { u with phase := .coolWait, phaseTimer := 9999 })
    ((t.bay 0).ltu.cavityIndex, (t.bay 0).ltu.phase, ((t.art.get 0).map fun r => r.leaks.map (·.result)))
      = (some 1, .fill, some [.incomplete]) := by decide +kernel

theorem test_fill_timeout :
    let t := after (.fillTimeout 0) (leaking fun u => { u with phase := .fill, phaseTimer := 999, fill := 1 })
    ((t.bay 0).ltu.fill, (t.bay 0).ltu.vent, ((t.art.get 0).map fun r => r.leaks.map (·.result)))
      = (0, 1, some [.gross]) := by decide +kernel

theorem test_leak_settle_end :
    ((after (.leakSettleEnd 0) (leaking fun u => { u with phase := .settle, phaseTimer := 99 })).bay 0).ltu.phase
      = .measure := by decide +kernel

/-- Bay 0 at the end of a leak measurement with the readings of section 9.10. -/
def leakMeasured (p1 t1 : Int) (budget : Nat) : State :=
  { leaking (fun u => { u with phase := .measure, phaseTimer := 19999, p0 := some 5000, t0 := some 3550, budget := budget }) with
    chx := { part.chx with latches := ((part.chx.latches.set 4 { value := .analog p1, age := 0 }).set 5
      { value := .analog t1, age := 0 }).set 6 { value := .analog 10130, age := 0 } } }

theorem test_leak_measure_end :
    let t := after (.leakMeasureEnd 0) (leakMeasured 4990 3540 1)
    ((t.bay 0).ltu.decay, (t.bay 0).ltu.rate, ((t.art.get 0).map fun r => r.leaks.map (·.result)))
      = (some 6, some 18, some [.pass])
    ∧ ((after (.leakMeasureEnd 0) (leakMeasured 4990 3580 1)).bay 0).ltu.afterVent = some .refill := by decide +kernel

/-- After the second cavity's vent the leak sub-phase is the last, so the bay is COMPLETE at once, INCOMPLETE without its
entries. -/
theorem test_vent_end :
    let t := after (.ventEnd 0) (leaking fun u =>
      { u with phase := .vent, phaseTimer := 99, cavityIndex := some 1, afterVent := some .next, vent := 2 })
    ((t.bay 0).ctl.state, (t.art.get 0).map (·.verdict)) = (.complete, some (some .incomplete)) := by decide +kernel

/-! ### States that meet the hypotheses of the statements

One theorem for each statement with hypotheses, named after it. -/

theorem witness_StepRunsFrontCommand : ({ part with pending := [.identify] } : State).pending = [.identify]
    ∧ part.pending = [] := ⟨rfl, rfl⟩

/-- The small part with a tick waiting. -/
def ticking : State := { part with pending := [.msTick [] []] }

/-- Bay 0 fills the first cavity, with a tick waiting. -/
def filling : State := { leaking (fun u => { u with phase := .fill, fill := 1 }) with pending := [.msTick [] []] }

theorem filling_lanes : LanesAgree filling := by
  refine ⟨List.nodup_nil, fun q hq => (by cases hq), ?_, ?_⟩
  · intro l u h
    have : ∀ l : LaneIx, filling.oae.lanes.get l = none := by decide +kernel
    rw [this l] at h; cases h
  · intro b h
    have : ∀ b : Bay, (filling.bay b).window.isSome = false := by decide +kernel
    rw [this b] at h; cases h

theorem filling_safe : FillsSafely filling := by
  intro b
  match b with
  | 0 => exact ⟨fun _ _ => ⟨⟨cavity, rfl⟩, .inl rfl⟩, fun _ => ⟨rfl, rfl, fun c h => by
      have : some cavity = some c := h
      cases this; rfl⟩⟩
  | 1 => exact ⟨fun h => absurd rfl h, fun h => absurd rfl h⟩
  | 2 => exact ⟨fun h => absurd rfl h, fun h => absurd rfl h⟩
  | 3 => exact ⟨fun h => absurd rfl h, fun h => absurd rfl h⟩

/-- The record that a bay is bound to is the one record OPEN. -/
theorem boundToSlot_of (s : State) (h : ∀ b : Bay, (s.bay b).ctl.bound = none ∨ (s.bay b).ctl.bound = some 0)
    (g : s.art.get 0 = some record)
    (e : ∀ b : Bay, (s.bay b).ctl.bound = some 0 → b = 0 ∧ (s.bay b).ctl.slot = some 0) : BoundToSlot s := by
  intro b i r hb hr
  rcases h b with hn | hn
  · rw [hn] at hb; cases hb
  · rw [hn] at hb; cases hb; rw [g] at hr; cases hr
    exact ⟨(e b hn).1.symm, (e b hn).2⟩

theorem witness_StepKeepsValvesExclusive : ValvesExclusive ticking ∧ (∃ t, step ticking = .next t)
    ∧ (SpoolMatches filling ∧ PinsMatch filling ∧ PinnedValid filling ∧ BindingsMatch filling ∧ BoundToSlot filling
      ∧ RunInAgrees filling ∧ LanesAgree filling ∧ FillsSafely filling ∧ ∃ t, step filling = .next t) := by
  refine ⟨by unfold ValvesExclusive; decide +kernel, ⟨_, rfl⟩, by unfold SpoolMatches; decide +kernel,
    by unfold PinsMatch; decide +kernel, by unfold PinnedValid; decide +kernel, by unfold BindingsMatch; decide +kernel,
    boundToSlot_of _ (by decide +kernel) (by decide +kernel) (by decide +kernel), by unfold RunInAgrees; decide +kernel,
    filling_lanes, filling_safe, _, rfl⟩

theorem witness_StepKeepsRanges : RangesHold ticking ∧ ∃ t, step ticking = .next t :=
  ⟨by
    unfold RangesHold QueuesBounded FailCountsBounded AgesBounded SpeedUnitsBounded CountersBounded PlacesApart
    decide +kernel, _, rfl⟩

/-- The small part with a second record, QUEUED. -/
def spooling : State :=
  { ticking with
    art := part.art.set 3 (some { record with state := .queued, serial := [0x38] })
    rsp := { part.rsp with spool := [3] } }

theorem spooling_matches : SpoolMatches spooling := by unfold SpoolMatches; decide +kernel

/-- A record of two parts at the head of the spool, the first part sent. -/
def emitting : State :=
  let line : LineResult := { state := .pass, peak := 5, lane := .a, limit := 7, ambient := none }
  let entry (i : Nat) : NoiseEntry :=
    { stepIndex := i, measureIndex := 0, loadMode := .fwdDrive, target := 16000, attempts := 1, result := .pass,
      reason := none, ambient := none, lines := List.replicate 16 line }
  { spooling with
    art := spooling.art.set 3 (some { record with state := .queued, noise := [entry 1, entry 2, entry 3] })
    rsp := { spooling.rsp with emission := some { partCount := 2, nextPart := 1 } } }

theorem emitting_matches : EmissionMatches emitting := by
  intro e h
  have h' : some { partCount := 2, nextPart := 1 } = some e := h
  cases h'
  exact ⟨3, [], _, rfl, rfl, by decide +kernel, by decide, by decide⟩

theorem witness_StepKeepsRecordTable : SpoolMatches spooling ∧ PinsMatch spooling ∧ (∃ t, step spooling = .next t)
    ∧ PinnedValid spooling ∧ SpoolMatches emitting ∧ EmissionMatches emitting ∧ ∃ t, step emitting = .next t :=
  ⟨spooling_matches, by unfold PinsMatch; decide +kernel, ⟨_, rfl⟩, by unfold PinnedValid; decide +kernel,
    by unfold SpoolMatches; decide +kernel, emitting_matches, _, rfl⟩

theorem witness_StepKeepsBindings : SpoolMatches spooling ∧ BindingsMatch spooling ∧ BoundToSlot spooling
    ∧ ∃ t, step spooling = .next t :=
  ⟨spooling_matches, by unfold BindingsMatch; decide +kernel,
    boundToSlot_of _ (by decide +kernel) (by decide +kernel) (by decide +kernel), _, rfl⟩

theorem measuring_lanes (budget valid : Nat) (l : LaneIx) :
    (measuring budget valid).oae.lanes.get l = none
      ∨ (measuring budget valid).oae.lanes.get l = some { bay := 0, role := .vibA } := by
  revert l; show ∀ l : LaneIx, (part.oae.lanes.set 0 _).get l = none ∨ (part.oae.lanes.set 0 _).get l = _
  decide +kernel

theorem measuring_windows (budget valid : Nat) (b : Bay) :
    ((measuring budget valid).bay b).window.isSome = true → ((measuring budget valid).bay b).ris.phase = .measure := by
  revert b; intro b; match b with
  | 0 => exact fun _ => rfl
  | 1 => exact fun h => by cases h
  | 2 => exact fun h => by cases h
  | 3 => exact fun h => by cases h

theorem measuring_lanesAgree (budget valid : Nat) : LanesAgree (measuring budget valid) := by
  refine ⟨List.nodup_nil, ?_, ?_, measuring_windows budget valid⟩
  · intro q hq; cases hq
  · intro l u h
    rcases measuring_lanes budget valid l with hl | hl
    · rw [hl] at h; cases h
    · rw [hl] at h; cases h; exact ⟨rfl, rfl⟩

theorem waiting_lanesAgree (budget : Nat) : LanesAgree (waiting budget) := by
  refine ⟨by unfold OneRequestPerBay; exact List.nodup_singleton _, ?_, ?_, ?_⟩
  · intro q hq; cases hq with
    | head => rfl
    | tail _ h => cases h
  · intro l u h
    have : ∀ l : LaneIx, State.reset.oae.lanes.get l = none := by decide +kernel
    have h' : State.reset.oae.lanes.get l = some u := h
    rw [this l] at h'; cases h'
  · intro b h; match b with
    | 0 => cases h
    | 1 => cases h
    | 2 => cases h
    | 3 => cases h

theorem witness_StepKeepsLanes : RunInAgrees (measuring 1 0) ∧ LanesAgree (measuring 1 0)
    ∧ ∃ t, step { measuring 1 0 with pending := [.windowLimit 0] } = .next t :=
  ⟨by unfold RunInAgrees; decide +kernel, measuring_lanesAgree 1 0, _, rfl⟩

theorem recipe_checked : recipe.checked := by
  unfold Recipe.checked Recipe.headerChecked Step.checked Cavity.checked Printable
  and_intros <;> decide +kernel

theorem witness_StepKeepsRecipes : RecipesChecked ticking ∧ ∃ t, step ticking = .next t := by
  refine ⟨fun k => ⟨fun h => ?_, fun h => ?_⟩, _, rfl⟩
  · have : ∀ j : SlotIx, (ticking.slot j).state = .valid → (ticking.slot j).recipe = some recipe := by decide +kernel
    exact ⟨recipe, this k h, recipe_checked⟩
  · have : ∀ j : SlotIx, (ticking.slot j).state ≠ .valid → (ticking.slot j).recipe = none := by decide +kernel
    exact this k h

theorem notClear (b : Bay) : ¬ ClearsAlarms (.bayUnload) ∧ ¬ ClearsAlarms (.stopTimeout b) := by
  constructor <;> (intro h; rcases h with h | h | ⟨_, h⟩ <;> cases h)

theorem witness_AlarmsStayLatched : (∃ t, exec (.stopTimeout 0) (stopping id) = .next t) ∧ ¬ ClearsAlarms (.stopTimeout 0) :=
  ⟨⟨_, rfl⟩, (notClear 0).2⟩

theorem witness_CountersNeverFall : CountersBounded part ∧ (∃ t, exec (.msTick [] []) part = .next t)
    ∧ ¬ LowersCounters (.msTick [] []) := by
  refine ⟨by unfold CountersBounded; decide +kernel, ⟨_, rfl⟩, ?_⟩
  intro h; rcases h with h | h | h | ⟨_, h⟩ <;> cases h

theorem witness_RecordsFrozen : (∃ t, exec .reportPartInsert spooling = .next t) ∧ ¬ FreesRecords .reportPartInsert
    ∧ ∃ r, spooling.art.get 3 = some r ∧ r.state ≠ .opened := by
  refine ⟨⟨_, rfl⟩, ?_, _, rfl, by decide⟩
  intro h; rcases h with h | h | ⟨_, h⟩ <;> cases h

theorem witness_PinnedSlotKept : (∃ t, exec .recipeErase (asked 9 [0] part) = .next t)
    ∧ 0 < ((asked 9 [0] part).rbk.get 0).pins ∧ ((asked 9 [0] part).rbk.get 0).state = .valid :=
  ⟨⟨_, rfl⟩, by decide +kernel, by decide +kernel⟩

theorem witness_FirstCauseKept : ∃ t, exec (.stopTimeout 0) (stopping id) = .next t ∧ (stopping id).stopped 0
    ∧ t.stopped 0 := ⟨_, rfl, .inl rfl, .inr (by decide +kernel)⟩

theorem witness_ResetPartValues : part.mga.resetDue = false
    ∧ ({ part with mga := { part.mga with resetDue := true } } : State).mga.resetDue = true
    ∧ (loadingZeros 1 1).rbk.get 1 ≠ .reset ∧ ((loadingZeros 1 1).slot 1).state = .loading
    ∧ ((loadingZeros 1 1).slot 0).state = .valid := by decide +kernel

/-- Bay 0 ramps and nothing else is near its end. -/
def ramping (steps : List Machine.Step) (x : Ris) : State :=
  (running steps [.runin, .leakPost] x).updSpu 0 fun p => { p with quiet := 5 }

/-- A bay at its reset values is quiet. -/
theorem resting_quiet (s : State) (b : Bay) (h : s.bay b = .reset) : QuietBay s b := by
  unfold QuietBay State.inRunin State.inLeak State.running State.recipeOf State.cavityOf State.recipeOf
  rw [h]
  exact ⟨nofun, nofun, by rintro _ _ _ _ ⟨⟩, nofun, nofun, nofun, nofun, nofun⟩

/-- A ramp above 0 outside HOLD is quiet, also where it reaches its target. -/
theorem ramping_quiet (steps : List Machine.Step) (x : Ris) (hp : x.phase = .ramp ∨ x.phase = .reverseStop ∨ x.phase = .rundown)
    (h0 : x.cmdSpeed ≠ 0) (hh : x.hold = false) : QuietTick (ramping steps x) := by
  refine ⟨fun _ => (by decide +kernel : part.lfe.sampleQuiet + 1 < part.mga.params.linkLossTimeout
    ∧ part.lfe.outputQuiet + 1 < part.mga.params.linkLossTimeout), fun q hq => (by cases hq), fun b => ?_⟩
  match b with
  | 0 =>
    refine ⟨fun q _ hq _ => ?_, fun r _ h => ?_, fun r st n rate _ _ => ⟨fun _ _ _ => .inr rfl, fun h => ?_⟩, nofun, nofun,
      fun _ h => ?_, nofun, nofun⟩
    · have e : some recipe.spuParams = some q := hq
      cases e; exact (by decide : min 65535 (5 + 1) < 100)
    · exact absurd (hh.symm.trans h) (by decide)
    · have at_ (p : RisPhase) (h : ((ramping steps x).bay 0).ris.phase = p) : x.phase = p := h
      rcases h with ⟨_, h | ⟨h, _⟩, _⟩ | ⟨h, _⟩ | ⟨h, _⟩
      · rcases hp with e | e | e <;> exact absurd (e.symm.trans (at_ _ h)) (by decide)
      · exact absurd h h0
      · rcases hp with e | e | e <;> exact absurd (e.symm.trans (at_ _ h)) (by decide)
      · rcases hp with e | e | e <;> exact absurd (e.symm.trans (at_ _ h)) (by decide)
    · have e : x.phase = .idle := h
      rcases hp with g | g | g <;> exact absurd (g.symm.trans e) (by decide)
  | 1 => exact resting_quiet _ 1 rfl
  | 2 => exact resting_quiet _ 2 rfl
  | 3 => exact resting_quiet _ 3 rfl

theorem witness_TickRaisesCellTime : part.tbs.served = [] ∧ part.lfe.link = .up
    ∧ part.lfe.sampleQuiet + 1 < part.mga.params.linkLossTimeout ∧ part.lfe.outputQuiet + 1 < part.mga.params.linkLossTimeout
    ∧ State.reset.tbs.served = [] ∧ State.reset.lfe.link ≠ .up
    ∧ (ramping recipe.steps (risAt .ramp 100)).tbs.served = [] ∧ QuietTick (ramping recipe.steps (risAt .ramp 100))
    ∧ ((after (.msTick [] []) (ramping recipe.steps (risAt .ramp 100))).bay 0).ris.cmdSpeed = 104
    ∧ (ramping recipe.steps (risAt .ramp 100)).bindsOpen 0 0 record := by
  refine ⟨rfl, rfl, by decide +kernel, by decide +kernel, rfl, by decide, rfl, ramping_quiet _ _ (.inl rfl) (by decide) rfl, ?_⟩
  unfold State.bindsOpen; decide +kernel

/-- Ramps that reach their target: of a RUN step, of a STOP step, of a reverse stop and of a run-down, the latter at 400 rpm/s. -/
theorem witness_TickRaisesCellTime_target :
    let stop := [stepOfKind .stop 0]
    let ends (steps : List Machine.Step) (x : Ris) :=
      let y := ((after (.msTick [] []) (ramping steps x)).bay 0).ris
      (y.phase, y.cmdSpeed, y.rampFrac, y.phaseTimer)
    QuietTick (ramping recipe.steps (risAt .ramp 15999)) ∧ QuietTick (ramping stop (risAt .ramp 3))
      ∧ QuietTick (ramping recipe.steps (risAt .reverseStop 3)) ∧ QuietTick (ramping recipe.steps (risAt .rundown 6))
      ∧ Ramps recipe (stepOfKind .run 16000) (risAt .rundown 6) 0 400 ∧ rampedSpeed recipe 0 400 (risAt .rundown 6) = 0
      ∧ ends recipe.steps (risAt .ramp 15999) = (.settle, 16000, 0, 0) ∧ ends stop (risAt .ramp 3) = (.stopWait, 0, 0, 0)
      ∧ ends recipe.steps (risAt .reverseStop 3) = (.reverseStop, 0, 0, 0)
      ∧ ends recipe.steps (risAt .rundown 6) = (.rundown, 0, 0, 0) := by
  refine ⟨ramping_quiet _ _ (.inl rfl) (by decide) rfl, ramping_quiet _ _ (.inl rfl) (by decide) rfl,
    ramping_quiet _ _ (.inr (.inl rfl)) (by decide) rfl, ramping_quiet _ _ (.inr (.inr rfl)) (by decide) rfl, ?_⟩
  unfold Ramps; decide +kernel

/-- The part with the last sample sequence at a value. -/
def afterSeq (l : BitVec 16) (refused : Nat) : State := { part with lfe := { part.lfe with lastSeq := some l, refusedRun := refused } }

/-- The part with another link, and with another status offset. -/
def withLink (l : LinkState) (sample output : Bool) (s : State) : State :=
  { s with lfe := { s.lfe with link := l, sampleSeen := sample, outputSeen := output } }

def withOffset (n : Nat) (s : State) : State := { s with mga := { s.mga with params := { s.mga.params with statusOffset := n } } }

/-- The first frame of the link, and the one after sequence 65535; a DOWN link, a LOST one that comes back, and one that does not;
a payload one byte too short for the block. -/
theorem witness_SampleAccepted :
    let f := sample 0 3 8000 100 4990
    let back := withLink .lost false true part
    frameKind f = some 1 ∧ frameGood f = true ∧ part.testsSample ∧ part.lfe.lastSeq = none
    ∧ (afterSeq 0xFFFF 0).lfe.lastSeq = some (frameSeq f - 1) ∧ part.mga.params.statusOffset + 56 ≤ frameLen f
    ∧ frameLen f < (withOffset 1 part).mga.params.statusOffset + 56
    ∧ (withLink .down false true part).testsSample ∧ back.testsSample ∧ back.lfe.link = .lost
    ∧ (back.bay 0).spu.active = true ∧ (back.bay 0).spu.params ≠ none ∧ ¬ (withLink .lost true false part).testsSample := by
  unfold State.testsSample; decide +kernel

/-- Distances 0, 17 and 65535; the first and the second refusal, and the third frame, which resynchronizes. -/
theorem witness_SampleRefused :
    let f := sample 0 3 8000 100 4990
    frameKind f = some 1 ∧ frameGood f = true ∧ (afterSeq 0 0).testsSample ∧ (frameSeq f - 0).toNat = 0
    ∧ (frameSeq f - (-17)).toNat = 17 ∧ (frameSeq f - 1).toNat = 65535 ∧ (afterSeq 0 1).lfe.refusedRun < 2
    ∧ 2 ≤ (afterSeq 0 2).lfe.refusedRun ∧ (afterSeq 0 2).testsSample ∧ ((afterSeq 0 2).bay 0).spu.active = true
    ∧ (afterSeq 0 0).mga.params.statusOffset + 56 ≤ frameLen f
    ∧ frameLen f < (withOffset 1 (afterSeq 0 0)).mga.params.statusOffset + 56 := by
  unfold State.testsSample; decide +kernel

/-- A frame whose last check byte is changed, on an UP and on a LOST link. -/
theorem witness_BadSampleForwarded :
    let f := (frame 1 0 1 [7]).take 12 ++ [0xA5]
    frameKind f = some 1 ∧ frameGood f = false ∧ frameWhole f = true ∧ part.lfe.link ≠ .lost
      ∧ ({ part with lfe := { part.lfe with link := .lost } } : State).lfe.link = .lost := by decide +kernel

/-- An OUTPUT frame of just 12 payload bytes, one of 11 and a bad one; a LOST link that stays so, and one that comes back. -/
theorem witness_OutputFrameWritten :
    let f := frame 2 0 1 (List.replicate 12 0xFF)
    let g := frame 2 0 1 (List.replicate 11 0xFF)
    let x := f.take 23 ++ [0xA5]
    frameKind f = some 2 ∧ frameGood f = true ∧ PlacesApart part ∧ (withLink .lost false false part).lfe.sampleSeen = false
      ∧ (withLink .lost true false part).lfe.sampleSeen = true ∧ (part.chx.outputMap.get 0).enabled = true
      ∧ (∀ b : Bay, (part.chx.outputMap.get b).enabled = true → (part.chx.outputMap.get b).offset + 12 ≤ frameLen f)
      ∧ frameGood g = true ∧ frameLen g < (part.chx.outputMap.get 0).offset + 12
      ∧ frameKind x = some 2 ∧ frameGood x = false ∧ frameWhole x = true
      ∧ (after (.outputFrame g) part).mga.alarms = 8 := by
  unfold PlacesApart; decide +kernel

theorem witness_RequestReceived :
    frameKind (frame 3 5 1 [1, 0]) = some 3 ∧ part.lfe.nodeAddr ≠ 0 ∧ frameDest (frame 3 5 1 [1, 0]) = part.lfe.nodeAddr.toNat
    ∧ frameGood (frame 3 5 1 [1, 0]) = true ∧ frameGood ((frame 3 5 1 [1, 0]).take 13) = false
    ∧ frameKind (frame 3 255 1 [1, 0]) = some 3 ∧ frameDest (frame 3 255 1 [1, 0]) = 255
    ∧ frameGood (frame 3 255 1 [1, 0]) = true ∧ 2 ≤ frameLen (frame 3 255 1 [1, 0])
    ∧ natAt (framePayload (frame 3 255 1 [1, 0])) 0 2 = 1
    ∧ frameGood (frame 3 255 1 [2, 0]) = true ∧ natAt (framePayload (frame 3 255 1 [2, 0])) 0 2 ≠ 1
    ∧ frameGood (frame 3 255 1 [1]) = true ∧ frameLen (frame 3 255 1 [1]) < 2
    ∧ frameKind ((frame 3 255 1 [1, 0]).take 13) = some 3 ∧ frameDest ((frame 3 255 1 [1, 0]).take 13) = 255
    ∧ frameGood ((frame 3 255 1 [1, 0]).take 13) = false := by decide +kernel

theorem witness_FramesPass : frameKind (frame 2 0 1 [4]) ≠ some 1 ∧ frameKind (frame 9 0 1 [4]) ≠ some 2
    ∧ frameKind (frame 9 0 1 [4]) ≠ some 3 ∧ frameKind (frame 3 6 1 [4]) = some 3 ∧ frameDest (frame 3 6 1 [4]) ≠ 255
    ∧ frameDest (frame 3 6 1 [4]) ≠ part.lfe.nodeAddr.toNat ∧ State.reset.lfe.nodeAddr = 0 := by decide +kernel

/-- A response waits at an opportunity that is its own, at one for a report, and at none. -/
theorem witness_ResponseInserted :
    let s (o : Option Offer) : State := { after .bayLock (asked 14 [1] part) with lfe := { part.lfe with opportunity := o } }
    (s (some .response)).lfe.opportunity = some .response ∧ (s (some .response)).lfe.link ≠ .lost
      ∧ (s (some .response)).mga.responses.length = 1 ∧ (s (some .report)).lfe.opportunity ≠ some .response
      ∧ (s none).lfe.opportunity ≠ some .response := by decide +kernel

/-- A report at an opportunity that is its own, as its first part and as its last, and at one for a response. -/
theorem witness_ReportPartInserted :
    let s := { spooling with lfe := { part.lfe with opportunity := some .report } }
    let e := { emitting with lfe := { part.lfe with opportunity := some .report } }
    s.lfe.opportunity = some .report ∧ s.lfe.link ≠ .lost ∧ s.rsp.spool = [3] ∧ (s.art.get 3).isSome = true
      ∧ s.rsp.emission = none ∧ e.lfe.opportunity = some .report ∧ e.rsp.spool = [3]
      ∧ (after .reportPartInsert e).recState 3 = some .sent
      ∧ ({ spooling with lfe := { part.lfe with opportunity := some .response } } : State).lfe.opportunity ≠ some .report := by
  decide +kernel

theorem witness_PartAndSlotReadOut : TakenAs .identify (request 1 []) (asked 1 [] part)
    ∧ TakenAs .readCellParams (request 3 []) (asked 3 [] part)
    ∧ TakenAt .recipeStatus (request 10 [0]) 0 (asked 10 [0] part)
    ∧ TakenAt .recipeStatus (request 10 [5]) 5 (asked 10 [5] part)
    ∧ TakenAs .recipeStatus (request 10 [6]) (asked 10 [6] part) ∧ 6 ≤ byteAt (reqArgs (request 10 [6]).payload) 0 := by
  unfold TakenAt TakenAs; decide +kernel

/-- Every parameter at the top of its range; one above it; a new status offset in a test. -/
theorem witness_CellParamsSet :
    TakenAs .setCellParams (request 2 [100, 64, 15, 12, 0xC0, 0xD4, 1, 0, 0xC8, 3])
      (asked 2 [100, 64, 15, 12, 0xC0, 0xD4, 1, 0, 0xC8, 3] State.reset)
    ∧ TakenAs .setCellParams (request 2 [100, 64, 15, 12, 0xC1, 0xD4, 1, 0, 0xC8, 3])
      (asked 2 [100, 64, 15, 12, 0xC1, 0xD4, 1, 0, 0xC8, 3] State.reset)
    ∧ TakenAs .setCellParams (request 2 [2, 1, 0, 1, 0xE8, 3, 0, 0, 1, 0]) (asked 2 [2, 1, 0, 1, 0xE8, 3, 0, 0, 1, 0] part)
    ∧ ((asked 2 [2, 1, 0, 1, 0xE8, 3, 0, 0, 1, 0] part).bay 0).ctl.state = .running := by
  unfold TakenAs; decide +kernel

/-- A map of one written and one cleared entry; one whose second item names the first's entry, one with a bit length of 33, one
with a pressure on the VIB kind, and one of 17 items; one under a test. -/
theorem witness_ChannelMapLoaded :
    let good := [3, 2] ++ mapItem 3 1 ++ mapItem 8 0
    let twice := [3, 2] ++ mapItem 3 1 ++ mapItem 3 0
    let long := [3, 2] ++ mapItem 8 0 ++ [3, 1, 0, 6, 3, 33, 56, 0, 1, 0, 64, 0, 0, 0, 0, 0]
    let odd := [3, 1] ++ [3, 1, 0, 6, 1, 12, 56, 0, 1, 0, 64, 0, 0, 0, 16, 0]
    let many := [3, 17] ++ (List.replicate 17 (List.replicate 16 0)).flatten
    (TakenAs .loadChannelMap (request 4 good) (asked 4 good State.reset) ∧ ∀ i : Nat, ¬ MapFails good i)
      ∧ (∀ b : Bay, ((asked 4 good State.reset).bay b).ctl.roles = [])
      ∧ byteAt (Machine.mapItem good 0) 1 ≠ 0 ∧ byteAt (Machine.mapItem good 1) 1 = 0
      ∧ (TakenAs .loadChannelMap (request 4 twice) (asked 4 twice State.reset) ∧ MapFails twice 1)
      ∧ (TakenAs .loadChannelMap (request 4 long) (asked 4 long State.reset) ∧ MapFails long 1)
      ∧ (TakenAs .loadChannelMap (request 4 odd) (asked 4 odd State.reset) ∧ MapFails odd 0)
      ∧ (TakenAs .loadChannelMap (request 4 many) (asked 4 many State.reset) ∧ MapFails many 16)
      ∧ (TakenAs .loadChannelMap (request 4 good) (asked 4 good part) ∧ ∃ b : Bay, ((asked 4 good part).bay b).ctl.roles ≠ []) := by
  have ok (a : Bytes) (s : State) (h : s.mga = part.mga) (e : envelopeOk (request 4 a).payload = true
      ∧ commandOf (reqCode (request 4 a).payload) = some .loadChannelMap
      ∧ argsFit .loadChannelMap (reqArgs (request 4 a).payload) = true) :
      TakenAs .loadChannelMap (request 4 a) (asked 4 a s) := by
    refine ⟨?_, e⟩
    unfold State.headRequest asked; rw [h]; rfl
  have fails (a : Bytes) (k : Nat) (h : mapFault a = some k) : MapFails a k := (mapFault_some _ _).1 h
  refine ⟨⟨ok _ _ rfl (by decide +kernel), (mapFault_none _).1 (by decide +kernel)⟩, ?roles, by decide +kernel, ?free,
    ⟨ok _ _ rfl (by decide +kernel), fails _ _ (by decide +kernel)⟩,
    ⟨ok _ _ rfl (by decide +kernel), fails _ _ (by decide +kernel)⟩,
    ⟨ok _ _ rfl (by decide +kernel), fails _ _ (by decide +kernel)⟩,
    ⟨ok _ _ rfl (by decide +kernel), fails _ _ (by decide +kernel)⟩, ok _ _ rfl (by decide +kernel), ?held⟩
  all_goals decide +kernel

theorem witness_OutputMapLoaded :
    let a : Bytes := [1, 0, 0, 0, 1, 0, 12, 0, 0, 0, 0, 0, 0, 0, 0, 0]
    TakenAs .loadOutputMap (request 5 a) (asked 5 a State.reset) ∧ TakenAs .loadOutputMap (request 5 a) (asked 5 a part)
      ∧ (asked 5 a State.reset).rolesHeld = false ∧ (asked 5 a part).rolesHeld = true := by unfold TakenAs; decide +kernel

/-- R178: a flag set without a layout is a count byte and its items; flags 0, 2 and 15 of a STAT latch, and none. -/
theorem test_stat_latch : latchBytes (some .stat) { value := .stat 0x8005, age := 0 } = [3, 0, 2, 15]
    ∧ latchBytes (some .stat) { value := .stat 0, age := 0 } = [0] := by decide +kernel

theorem witness_ChannelRead : TakenAs .readChannel (request 6 [63]) (asked 6 [63] part)
    ∧ TakenAs .readChannel (request 6 [64]) (asked 6 [64] part) ∧ 64 ≤ byteAt (reqArgs (request 6 [64]).payload) 0
    ∧ byteAt (reqArgs (request 6 [63]).payload) 0 = (63 : EntryIx).val := by unfold TakenAs; decide +kernel

/-- The last page of eight for an empty slot, a page for the pinned slot, and pages for a load of one page in progress. -/
theorem witness_RecipePageStored :
    let a (k i n : Byte) : Bytes := [k, i, n, 0] ++ List.replicate 256 7
    TakenAt .recipePage (request 7 (a 5 7 8)) 5 (asked 7 (a 5 7 8) part) ∧ ((asked 7 (a 5 7 8) part).slot 5).pins = 0
      ∧ ((asked 7 (a 5 7 8) part).slot 5).state ≠ .loading
      ∧ TakenAt .recipePage (request 7 (a 0 0 1)) 0 (asked 7 (a 0 0 1) part) ∧ 0 < ((asked 7 (a 0 0 1) part).slot 0).pins
      ∧ TakenAt .recipePage (request 7 (a 1 0 1)) 1 (asked 7 (a 1 0 1) (loadingZeros 1 1))
      ∧ TakenAt .recipePage (request 7 (a 1 0 2)) 1 (asked 7 (a 1 0 2) (loadingZeros 1 1))
      ∧ ((loadingZeros 1 1).slot 1).pins = 0 ∧ ((loadingZeros 1 1).slot 1).state = .loading
      ∧ ((loadingZeros 1 1).slot 1).expected = some 1 := by unfold TakenAt TakenAs; decide +kernel

/-- An image of one RUN step, written from the tables of R176. -/
def smallImage : Bytes :=
  List.replicate 16 0x41 ++ [7, 0, 0x30, 0x75, 0x90, 1, 0, 0, 120, 0, 41, 10, 100, 0, 80, 0, 20, 0, 0x40, 0x1F]
    ++ [0x28, 0x23, 0x10, 0x27, 0xF4, 1, 4, 0, 0xE8, 3, 0, 0, 15, 0, 0xE8, 3, 1, 0, 0] ++ List.replicate 9 0
    ++ [1, 1, 8, 7, 0x2C, 1, 0x80, 0x3E, 100, 0, 0, 0] ++ List.replicate 20 0

/-- Slot 1 with that image in its one page. -/
def loadingImage : State :=
  { part with
    rbk := part.rbk.set 1
      { Slot.reset with
        state := .loading, expected := some 1, presence := 1, pages := [(0, smallImage ++ List.replicate 160 0)] } }

theorem test_recipe_commit_valid :
    let r := ((after .recipeCommit (asked 8 [1] loadingImage)).slot 1).recipe
    r.map (·.ppr) = some 120 ∧ r.map (·.oilAbort) = some 10000 ∧ r.map (·.settleTimeout) = some 8000
    ∧ r.map (fun x => x.steps.map (·.torqueLimit)) = some [1800] ∧ r.map (fun x => x.steps.map (·.target)) = some [16000]
    ∧ r.map (fun x => x.steps.map (·.rampRate)) = some [300] ∧ r.map (fun x => x.steps.map (·.vibSet)) = some [.off] := by
  decide +kernel

/-- A slot that is not LOADING, one with a page missing, one whose header fails, and one whose image is sound. -/
theorem witness_RecipeCommitted :
    TakenAt .recipeCommit (request 8 [0]) 0 (asked 8 [0] part) ∧ (part.slot 0).state ≠ .loading
    ∧ TakenAt .recipeCommit (request 8 [1]) 1 (asked 8 [1] (loadingZeros 1 2))
    ∧ ((loadingZeros 1 2).slot 1).state = .loading ∧ ((loadingZeros 1 2).slot 1).expected = some 2
    ∧ ((loadingZeros 1 2).slot 1).presence.getLsbD 1 = false
    ∧ TakenAt .recipeCommit (request 8 [1]) 1 (asked 8 [1] (loadingZeros 1 1))
    ∧ ((loadingZeros 1 1).slot 1).expected = some 1 ∧ ((loadingZeros 1 1).slot 1).presence.getLsbD 0 = true
    ∧ TakenAt .recipeCommit (request 8 [1]) 1 (asked 8 [1] loadingImage) := by unfold TakenAt TakenAs; decide +kernel

/-- An image with one byte changed. -/
def imageWith (at_ : Nat) (v : Byte) : Bytes := smallImage.set at_ v ++ List.replicate 160 0

/-- The image of the part under test is sound; with another byte it fails: RPM gate 3, no step, seven steps in one page, step kind 4, a
MEASURE step without a line, a line of order 0, a cavity of id 0. -/
theorem witness_RecipeCommitted_image :
    (∀ (why : Reason) (item : Nat), ¬ ImageFails (smallImage ++ List.replicate 160 0) 1 why item)
    ∧ ImageFails (imageWith 26 3) 1 .range 0 ∧ ImageFails (imageWith 52 0) 1 .count 0 ∧ ImageFails (imageWith 52 7) 1 .size 2
    ∧ ImageFails (imageWith 64 4) 1 .range 1 ∧ ImageFails (imageWith 64 2) 1 .count 1
    ∧ ImageFails (imageWith 53 1) 1 .range 32 ∧ ImageFails ((imageWith 54 1).set 22 1) 1 .range 64 :=
  ⟨(validation_none _ _).1 (by decide +kernel), (validation_fault _ _ _ _).1 (by decide +kernel),
    (validation_fault _ _ _ _).1 (by decide +kernel), (validation_fault _ _ _ _).1 (by decide +kernel),
    (validation_fault _ _ _ _).1 (by decide +kernel), (validation_fault _ _ _ _).1 (by decide +kernel),
    (validation_fault _ _ _ _).1 (by decide +kernel), (validation_fault _ _ _ _).1 (by decide +kernel)⟩

theorem witness_RecipeErased : TakenAt .recipeErase (request 9 [5]) 5 (asked 9 [5] part)
    ∧ TakenAt .recipeErase (request 9 [0]) 0 (asked 9 [0] part) ∧ 0 < ((asked 9 [0] part).slot 0).pins
    ∧ ((asked 9 [5] part).slot 5).pins = 0
    ∧ TakenAs .recipeErase (request 9 [6]) (asked 9 [6] part) ∧ 6 ≤ byteAt (reqArgs (request 9 [6]).payload) 0 := by
  unfold TakenAt TakenAs; decide +kernel

/-- A start of bay 0 on slot 0. -/
def startArgs : Bytes := [0, 0] ++ serialArg

theorem startFor (s : State) (h : s.mga = part.mga) :
    StartFor (request 11 startArgs) 0 0 [0x37, 0x48] (asked 11 startArgs s) := by
  refine ⟨⟨⟨?_, by decide +kernel⟩, by decide +kernel⟩, by decide +kernel⟩
  unfold State.headRequest asked; rw [h]; rfl

/-- An idle part with a map and a recipe. -/
theorem witness_BayStarted :
    let s := asked 11 startArgs (resting .vacant)
    StartFor (request 11 startArgs) 0 0 [0x37, 0x48] s ∧ (s.bay 0).ctl.state = .vacant ∧ s.lfe.link = .up
      ∧ (s.slot 0).state = .valid ∧ (s.slot 0).recipe = some recipe ∧ ¬ s.holdsSerial [0x37, 0x48]
      ∧ s.lowestFreeRecord 0 ∧ ∃ roles, Resolves s 0 recipe roles := by
  refine ⟨startFor _ rfl, by decide +kernel, by decide +kernel, by decide +kernel, by decide +kernel, ?_, ?_, ?_⟩
  · rintro ⟨i, r, h, _⟩
    have : ∀ j : RecIx, (asked 11 startArgs (resting .vacant)).art.get j = none := by decide +kernel
    rw [this i] at h; cases h
  · exact ⟨by decide +kernel, fun j hj => absurd hj (Fin.not_lt_zero j)⟩
  · exact ⟨_, (resolve_needed _ _ _ _).1 rfl⟩

/-- One state for each check of R4 that fails: locked, in a test, link down, no recipe, the serial in use, the table full, and
a part without channels. -/
theorem witness_BayStartRefused :
    let q := request 11 startArgs
    let locked := asked 11 startArgs (resting .locked)
    let busy := asked 11 startArgs part
    let down : State := { asked 11 startArgs (resting .vacant) with lfe := State.reset.lfe }
    let bare : State := { asked 11 startArgs State.reset with lfe := part.lfe }
    let twice : State := { asked 11 startArgs (resting .vacant) with art := State.reset.art.set 7 (some record) }
    let full : State := { asked 11 startArgs (resting .vacant) with
      art := Vector.replicate 12 (some { record with serial := [0x39] }) }
    let dumb : State := { asked 11 startArgs (resting .vacant) with chx := State.reset.chx }
    (StartFor q 0 0 [0x37, 0x48] locked ∧ (locked.bay 0).ctl.state = .locked)
      ∧ (StartFor q 0 0 [0x37, 0x48] busy ∧ (busy.bay 0).ctl.state = .running)
      ∧ (StartFor q 0 0 [0x37, 0x48] down ∧ (down.bay 0).ctl.state = .vacant ∧ down.lfe.link ≠ .up)
      ∧ (StartFor q 0 0 [0x37, 0x48] bare ∧ bare.lfe.link = .up ∧ (bare.slot 0).state ≠ .valid)
      ∧ (StartFor q 0 0 [0x37, 0x48] twice ∧ (twice.slot 0).recipe = some recipe ∧ twice.holdsSerial [0x37, 0x48])
      ∧ (StartFor q 0 0 [0x37, 0x48] full ∧ ¬ full.holdsSerial [0x37, 0x48] ∧ ∀ i : RecIx, full.art.get i ≠ none)
      ∧ (StartFor q 0 0 [0x37, 0x48] dumb ∧ dumb.art.get 11 = none
        ∧ ResolveFails dumb 0 recipe .stat 0) := by
  refine ⟨⟨startFor _ rfl, by decide +kernel⟩, ⟨startFor _ rfl, by decide +kernel⟩,
    ⟨startFor _ rfl, by decide +kernel, by decide +kernel⟩, ⟨startFor _ rfl, by decide +kernel, by decide +kernel⟩,
    ⟨startFor _ rfl, by decide +kernel, 7, record, by decide +kernel, rfl, by decide⟩,
    ⟨startFor _ rfl, ?_, by decide +kernel⟩, ⟨startFor _ rfl, by decide +kernel, (resolve_needed_error _ _ _ _ _).1 rfl⟩⟩
  rintro ⟨i, r, h, hs, _⟩
  have : ∀ j : RecIx, (Vector.replicate 12 (some { record with serial := [0x39] })).get j
      = some { record with serial := [0x39] } := by decide +kernel
  have h' : some { record with serial := [0x39] } = some r := (this i).symm.trans h
  cases h'; cases hs

/-- A READY bay 0 with its record bound. -/
def readyPart : State := withUnit fun u => { u with ctl := { u.ctl with state := .ready, subPhase := none }, ris := .reset }

theorem witness_BayAborted :
    TakenAs .bayAbort (request 12 [4]) (asked 12 [4] part) ∧ 4 ≤ byteAt (reqArgs (request 12 [4]).payload) 0
    ∧ TakenAs .bayAbort (request 12 [0]) (asked 12 [0] readyPart) ∧ (asked 12 [0] readyPart).bindsOpen 0 0 record
    ∧ ((asked 12 [0] readyPart).bay 0).ctl.state = .ready
    ∧ TakenAs .bayAbort (request 12 [0]) (asked 12 [0] part) ∧ ((asked 12 [0] part).bay 0).ctl.state = .running
    ∧ (asked 12 [0] part).bindsOpen 0 0 record
    ∧ TakenAs .bayAbort (request 12 [0]) (asked 12 [0] (stopping id)) ∧ ((asked 12 [0] (stopping id)).bay 0).ctl.state = .stopping
    ∧ TakenAs .bayAbort (request 12 [3]) (asked 12 [3] part) ∧ ((asked 12 [3] part).bay 3).ctl.state = .vacant
    ∧ byteAt (reqArgs (request 12 [3]).payload) 0 = 3 ∧ ¬ part.restsAtOnce 0
    ∧ (leaking fun u => { u with phase := .coolWait }).restsAtOnce 0 ∧ ¬ filling.restsAtOnce 0 := by
  unfold TakenAs State.bindsOpen State.restsAtOnce; decide +kernel

/-- The abort of a bay that fills a cavity: the valves turn, the entry is INCOMPLETE; of one in COOL_WAIT: COMPLETE at once. -/
theorem test_bay_abort_leak :
    let t := after .bayAbort (asked 12 [0] filling)
    let c := after .bayAbort (asked 12 [0] (leaking fun u => { u with phase := .coolWait }))
    ((t.bay 0).ctl.state, (t.bay 0).ltu.phase, (t.bay 0).ltu.fill, (t.bay 0).ltu.vent,
      (t.art.get 0).map fun r => r.leaks.map (·.result)) = (.stopping, .vent, 0, 1, some [.incomplete])
    ∧ ((c.bay 0).ctl.state, (c.art.get 0).map (·.verdict)) = (.complete, some (some .aborted)) := by decide +kernel

theorem witness_BayServiced :
    TakenFor .bayUnload (request 13 [0]) 0 (asked 13 [0] (resting .complete))
    ∧ TakenFor .bayLock (request 14 [3]) 3 (asked 14 [3] part)
    ∧ TakenFor .bayUnlock (request 15 [0]) 0 (asked 15 [0] (resting .locked))
    ∧ 4 ≤ byteAt (reqArgs (request 13 [4]).payload) 0 ∧ TakenAs .bayUnload (request 13 [4]) (asked 13 [4] part)
    ∧ TakenAs .bayLock (request 14 [4]) (asked 14 [4] part) ∧ TakenAs .bayUnlock (request 15 [4]) (asked 15 [4] part) := by
  unfold TakenFor TakenAs; decide +kernel

/-- All eleven flags of a bay, a twelfth, the cell's flags with a counter's, COUNTER_ALARM, and a bay 4. -/
theorem witness_AlarmsAcknowledged :
    TakenAs .ackAlarms (request 16 [3, 0xFF, 7]) (asked 16 [3, 0xFF, 7] part)
    ∧ bayArg (reqArgs (request 16 [3, 0xFF, 7]).payload) 0 = some 3
    ∧ natAt (reqArgs (request 16 [3, 0xFF, 7]).payload) 1 2 < 2 ^ 11
    ∧ TakenAs .ackAlarms (request 16 [3, 0, 8]) (asked 16 [3, 0, 8] part)
    ∧ ¬ natAt (reqArgs (request 16 [3, 0, 8]).payload) 1 2 < 2 ^ 11
    ∧ TakenAs .ackAlarms (request 16 [0xFF, 0xEF, 0x1F]) (asked 16 [0xFF, 0xEF, 0x1F] part)
    ∧ natAt (reqArgs (request 16 [0xFF, 0xEF, 0x1F]).payload) 1 2 < 2 ^ 13
    ∧ (natAt (reqArgs (request 16 [0xFF, 0xEF, 0x1F]).payload) 1 2).testBit 4 = false
    ∧ TakenAs .ackAlarms (request 16 [4, 0, 0]) (asked 16 [4, 0, 0] part) := by unfold TakenAs; decide +kernel

theorem witness_BayRead : TakenAs .readBay (request 17 [3]) (asked 17 [3] part)
    ∧ TakenAs .readBay (request 17 [4]) (asked 17 [4] part) ∧ 4 ≤ byteAt (reqArgs (request 17 [4]).payload) 0
    ∧ byteAt (reqArgs (request 17 [3]).payload) 0 = (3 : Bay).val := by unfold TakenAs; decide +kernel

/-- Part 0 and part 1 of a record of one part, a FREE record, and an index of 12. -/
theorem witness_RecordPartRead : TakenAs .readRecord (request 18 [0, 0]) (asked 18 [0, 0] part)
    ∧ (asked 18 [0, 0] part).art.get 0 = some record ∧ ((recordBytes 0 record).length + 511) / 512 = 1
    ∧ TakenAs .readRecord (request 18 [0, 1]) (asked 18 [0, 1] part)
    ∧ TakenAs .readRecord (request 18 [11, 0]) (asked 18 [11, 0] part) ∧ (asked 18 [11, 0] part).art.get 11 = none
    ∧ TakenAs .readRecord (request 18 [12, 0]) (asked 18 [12, 0] part) := by unfold TakenAs; decide +kernel

/-- A SENT record, another serial, an OPEN record, a FREE one, an index of 12. -/
theorem witness_RecordReleased :
    let a (i : Byte) : Bytes := [i] ++ serialArg
    let s : State := { part with art := part.art.set 11 (some { record with state := .sent }) }
    TakenAs .releaseRecord (request 19 (a 11)) (asked 19 (a 11) s) ∧ (asked 19 (a 11) s).art.get 11 = some { record with state := .sent }
      ∧ readSerial ((reqArgs (request 19 (a 11)).payload).drop 1) = some record.serial
      ∧ TakenAs .releaseRecord (request 19 (a 3)) (asked 19 (a 3) spooling)
      ∧ (spooling.art.get 3).map (·.serial) = some [0x38]
      ∧ TakenAs .releaseRecord (request 19 (a 0)) (asked 19 (a 0) part) ∧ part.recState 0 = some .opened
      ∧ TakenAs .releaseRecord (request 19 (a 1)) (asked 19 (a 1) part) ∧ part.art.get 1 = none
      ∧ TakenAs .releaseRecord (request 19 (a 12)) (asked 19 (a 12) part) := by unfold TakenAs; decide +kernel

/-- An occupancy event on counter 1 and on counter 2, a threshold of 12 and of 13. -/
theorem witness_CounterSetUp :
    let a (i thr : Byte) : Bytes := [i, 9, 2, thr, 15, 0xFF, 5, 0, 1, 0, 0, 0]
    TakenAs .counterSetup (request 20 (a 1 12)) (asked 20 (a 1 12) part)
      ∧ counterEventOf (byteAt (a 1 12) 1) = some .spoolDepth ∧ counterModeOf (byteAt (a 1 12) 2) = some .edge
      ∧ byteAt (a 1 12) 3 ≤ 12 ∧ byteAt (a 1 12) 4 < 16 ∧ byteAt (a 1 12) 6 = (5 : SlotIx).val
      ∧ TakenAs .counterSetup (request 20 (a 2 12)) (asked 20 (a 2 12) part) ∧ 2 ≤ byteAt (a 2 12) 0
      ∧ TakenAs .counterSetup (request 20 (a 1 13)) (asked 20 (a 1 13) part) ∧ 12 < byteAt (a 1 13) 3 := by
  unfold TakenAs; decide +kernel

theorem witness_SnapshotTaken : TakenAs .counterSnapshot (request 21 [0]) (asked 21 [0] part)
    ∧ TakenAs .counterSnapshot (request 21 [1]) (asked 21 [1] part)
    ∧ TakenAs .counterSnapshot (request 21 [2]) (asked 21 [2] part) := by unfold TakenAs; decide +kernel

theorem witness_ResetPartTaken : TakenAs .resetPart (request 22 []) (asked 22 [] part) := by unfold TakenAs; decide +kernel

/-- A request of 5 bytes, one with a wrong argument length, codes 0 and 23, a BAY_LOCK without its bay, and arguments one
beyond their ranges. -/
theorem witness_RequestRefused :
    let s (p : Bytes) : State := { part with mga := { part.mga with requests := [{ source := 9, payload := p }] } }
    (s [1, 0, 77, 0, 0]).headRequest = some { source := 9, payload := [1, 0, 77, 0, 0] }
      ∧ (s [1, 0, 77, 0, 1, 0]).headRequest = some { source := 9, payload := [1, 0, 77, 0, 1, 0] }
      ∧ (asked 0 [] part).headRequest = some (request 0 []) ∧ (asked 23 [] part).headRequest = some (request 23 [])
      ∧ commandOf 14 = some .bayLock ∧ argsFit .bayLock ((request 14 []).payload.drop 6) = false
      ∧ TakenAs .bayStart (request 11 ([4, 0] ++ serialArg)) (asked 11 ([4, 0] ++ serialArg) part)
      ∧ TakenAs .bayStart (request 11 ([0, 6] ++ serialArg)) (asked 11 ([0, 6] ++ serialArg) part)
      ∧ TakenAs .recipeCommit (request 8 [6]) (asked 8 [6] part)
      ∧ TakenAs .recipePage (request 7 ([0, 1, 1, 0] ++ List.replicate 256 0))
          (asked 7 ([0, 1, 1, 0] ++ List.replicate 256 0) part) := by unfold TakenAs; decide +kernel

/-- Sequence 1 after none and after 65521, the latter with 15 missing. -/
theorem witness_ChannelsExtracted :
    frameKind (sample 1 3 8000 100 4990) = some 1 ∧ frameGood (sample 1 3 8000 100 4990) = true ∧ part.lfe.link = .up
    ∧ part.lfe.lastSeq = none ∧ (afterSeq 65521 0).lfe.lastSeq = some 65521
    ∧ 16 = (frameSeq (sample 1 3 8000 100 4990) - 65521).toNat
    ∧ (part.chx.entries.get 2).kind = some .analog ∧ (part.chx.entries.get 0).kind = some .stat
    ∧ (part.chx.entries.get 1).kind = some .tacho ∧ (part.chx.entries.get 7).kind = some .vib
    ∧ 8 * frameLen (sample 1 3 8000 100 4990) ≤ (part.chx.entries.get 8).bitPos := by decide +kernel

/-- A VIB channel whose eighth sample lies beyond the payload is not updated, although its first samples lie within it (R62). -/
theorem test_vib_beyond_payload :
    let s := { part with chx := { part.chx with
      entries := part.chx.entries.set 7 { entry (.bay 0) .vibA 120 16 with stride := 100 } } }
    let e := s.chx.entries.get 7
    e.kind = some .vib ∧ e.bitPos + 16 ≤ 8 * frameLen (sample 1 3 8000 100 4990)
      ∧ 8 * frameLen (sample 1 3 8000 100 4990) ≤ e.bitPos + 7 * e.stride + e.len - 1
      ∧ (after (.sampleFrame (sample 1 3 8000 100 4990) []) s).latch 7 = { value := .zero, age := 1 } := by decide +kernel

/-- The Speed Unit of bay 0 takes a frame with an edge, the next in sequence; the bay keeps its commanded speed. -/
theorem witness_ChannelsExtracted_speed :
    let t := after (.sampleFrame (sample 1 3 8000 100 4990) []) part
    let e : TachoEntry := { count := 1000, time := 100, reverse := false, edge := true }
    part.lfe.link ≠ .lost ∧ (part.bay 0).spu.active = true ∧ (part.bay 0).spu.params = some recipe.spuParams
      ∧ t.roleEntry 0 .tacho = some 1 ∧ t.latch 1 = { value := .tacho e, age := 0 }
      ∧ (t.bay 0).ris.cmdSpeed = (part.bay 0).ris.cmdSpeed ∧ (t.bay 0).spu.ring.getD 0 none = some e := by decide +kernel

/-- The state after the next sample frame with a STAT word, an oil temperature, a torque and a pressure, taken in the default
order. -/
def framed (stat oil torque press : Nat) (s : State) : State := after (.sampleFrame (sample 1 stat oil torque press) []) s

/-- A RUNNING bay on a sound frame, one with the guard open, and one with a role 9 frames old. -/
theorem witness_FrameSupervises :
    let stale : State := { part with chx := { part.chx with latches := part.chx.latches.set 8 { value := .zero, age := 8 } } }
    frameKind (sample 1 3 8000 100 4990) = some 1 ∧ frameGood (sample 1 3 8000 100 4990) = true ∧ part.testsSample
    ∧ part.lfe.lastSeq = none ∧ ((framed 3 8000 100 4990 part).bay 0).ctl.state = .running
    ∧ ((framed 2 8000 100 4990 part).bay 0).ctl.state = .stopping
    ∧ (framed 1 8000 100 4990 part).fixtureOpen 0 ∧ (part.bay 0).ctl.cause = none
    ∧ ((framed 1 8000 100 4990 part).bay 0).ctl.cause ≠ none
    ∧ ¬ (framed 3 8000 100 4990 stale).fixtureOpen 0 ∧ (framed 3 8000 100 4990 stale).sensorStale 0 := by
  unfold State.testsSample State.fixtureOpen State.sensorStale; decide +kernel

/-- A READY bay on a frame with COUPLED clear, on one with the three flags, and one whose plan begins with a leak sub-phase. -/
theorem witness_FrameSupervises_ready :
    let leakFirst := readyPart.updCtl 0 fun c => { c with plan := [.leakPre, .runin] }
    ¬ (framed 3 8000 100 4990 readyPart).fixtureReady 0 ∧ (framed 7 8000 100 4990 readyPart).fixtureReady 0
    ∧ ¬ (framed 7 8000 100 4990 readyPart).sensorStale 0 ∧ (framed 7 8000 100 4990 readyPart).lfe.link = .up
    ∧ (readyPart.bay 0).ctl.state = .ready ∧ (readyPart.bay 0).ris = .reset ∧ (readyPart.bay 0).ltu = .reset
    ∧ readyPart.recipeOf 0 = some recipe ∧ (readyPart.bay 0).ctl.plan = .runin :: [.leakPost]
    ∧ ((framed 7 8000 100 4990 readyPart).bay 0).ris.phase = .ramp
    ∧ (framed 7 8000 100 4990 leakFirst).fixtureReady 0 ∧ (leakFirst.bay 0).ctl.plan = .leakPre :: [.runin]
    ∧ ((framed 7 8000 100 4990 leakFirst).bay 0).ctl.subPhase = some .leakPre := by
  unfold State.fixtureReady State.sensorStale; decide +kernel

/-- Oil at the abort temperature, at the warning temperature and below; torque one above the threshold 2070 at the fourth frame
and at it; SETTLE with the twentieth steady frame, to DWELL and, with HOLD and without, to MEASURE_WAIT or MEASURE. -/
theorem witness_FrameSupervises_runin :
    let pushed := withRis fun r => { r with overload := 3 }
    let settling (i : Nat) (hold : Bool) := withUnit fun u =>
      { u with spu := { u.spu with steadyCount := 19 }, ris := { u.ris with phase := .settle, stepIndex := some i, hold := hold } }
    part.inRunin 0 = true ∧ ¬ (framed 3 10000 100 4990 part).fixtureOpen 0 ∧ ¬ (framed 3 10000 100 4990 part).sensorStale 0
    ∧ recipe.oilAbort ≤ (framed 3 10000 100 4990 part).roleReading 0 .oilTemp
    ∧ HoldBegins recipe ((framed 3 9000 100 4990 part).roleReading 0 .oilTemp) (part.bay 0).ris
    ∧ Overloads recipe (pushed.bay 0).ris ((framed 3 8000 2071 4990 pushed).roleReading 0 .torque)
    ∧ ¬ Overloads recipe (pushed.bay 0).ris ((framed 3 8000 2070 4990 pushed).roleReading 0 .torque)
    ∧ ((framed 3 8000 100 4990 (settling 0 false)).bay 0).spu.steady = true
    ∧ ((framed 3 8000 100 4990 (settling 0 false)).bay 0).ris.phase = .dwell
    ∧ ((framed 3 9000 100 4990 (settling 1 true)).bay 0).ris.phase = .measureWait
    ∧ ((framed 3 8000 100 4990 (settling 1 false)).bay 0).ris.phase = .measure := by
  unfold State.fixtureOpen State.sensorStale HoldBegins Overloads; decide +kernel

/-- A window on a frame that is steady, and on one that is not with a frame in its block. -/
theorem witness_FrameSupervises_window :
    let s (n : Nat) := (measuring 1 0).updBay 0 fun u =>
      { u with spu := { u.spu with steadyCount := n }, window := u.window.map fun w => { w with block := some 1 } }
    let w : Window := { Window.opened recipe (stepOfKind .measure 16000) with timer := 499, block := some 1 }
    ((s 19).bay 0).window = some w ∧ w.valid < w.step.blocks ∧ (framed 3 8000 100 4990 (s 19)).blockValid 0 w
    ∧ ((framed 3 8000 100 4990 (s 19)).bay 0).window.map (·.block) = some (some 2)
    ∧ ((s 0).bay 0).window = some w ∧ ¬ (framed 3 8000 100 4990 (s 0)).blockValid 0 w
    ∧ (∀ c : Bay, c ≠ 0 → ((s 0).bay c).window = none) := by
  unfold State.blockValid; decide +kernel

/-- A leak sub-phase: COOL_WAIT at the start temperature, FILL at 5100 and at 5101, SETTLE and MEASURE at the gross margin and one
below it, and a vent. -/
theorem witness_FrameSupervises_leak :
    let at_ (p : LtuPhase) := leaking fun u => { u with phase := p, p0 := some 5000, fill := if p = .fill then 1 else 0 }
    let end_ (p : LtuPhase) (press : Nat) := ((framed 3 8000 100 press (at_ p)).bay 0).ltu.phase
    (at_ .fill).inLeak 0 = true ∧ ((at_ .fill).bay 0).ris.phase = .idle ∧ (at_ .fill).cavityOf 0 = some cavity
    ∧ ¬ (framed 3 8000 100 4850 (at_ .settle)).fixtureOpen 0 ∧ ¬ (framed 3 8000 100 4850 (at_ .settle)).sensorStale 0
    ∧ end_ .coolWait 4990 = .fill ∧ end_ .fill 4969 = .fill ∧ end_ .fill 4970 = .settle ∧ end_ .fill 5100 = .settle
    ∧ end_ .fill 5101 = .vent ∧ ((framed 3 8000 100 5101 (at_ .fill)).bay 0).ctl.cause = some .overpressure
    ∧ end_ .settle 4850 = .settle ∧ end_ .settle 4849 = .vent ∧ end_ .measure 4850 = .measure ∧ end_ .measure 4849 = .vent
    ∧ end_ .vent 4990 = .vent ∧ (at_ .settle).bindsOpen 0 0 record := by
  unfold State.fixtureOpen State.sensorStale State.bindsOpen; decide +kernel

/-- Upward short of the target, at it, and downward onto 0. -/
theorem witness_ArithmeticExact : (rampStep 300 24000 30000 0 800).1 = 5 ∧ (rampStep 300 24000 24000 23998 999).1 = 24000
    ∧ (rampStep 300 0 24000 3 0).1 = 0 := by decide +kernel

/-- A RUNNING bay, a bay in a leak sub-phase, and a STOPPING one whose quiet time reaches the standstill time. -/
theorem witness_StandstillJudged :
    let q := recipe.spuParams
    let l := withUnit fun u =>
      { u with ctl := { u.ctl with subPhase := some .leakPost }, ris := .reset
               ltu := { u.ltu with phase := .coolWait, cavityIndex := some 0 } }
    part.awaits (.spu 0) ∧ (part.bay 0).spu.active = true ∧ (part.bay 0).spu.params = some q
      ∧ (part.bay 0).spu.standstill = false ∧ q.standstillTime ≤ min 65535 ((part.bay 0).spu.quiet + 1)
      ∧ l.inLeak 0 = true ∧ (l.bay 0).spu = (part.bay 0).spu ∧ (l.bay 0).ris.driveEnable = false
      ∧ ((stopping id).bay 0).spu = (part.bay 0).spu ∧ ((stopping id).bay 0).ltu = .reset := by
  unfold State.awaits; decide +kernel

/-- Section 6.12, event 3: the phase timer is 0 in the ramp that follows a reverse stop. -/
theorem test_reverse_stop_phase_timer :
    let y := ((after (.standstillJudged 0) (running recipe.steps [.runin, .leakPost]
      { risAt .reverseStop 0 with loadMode := some .revDrive })).bay 0).ris
    (y.phase, y.phaseTimer, y.loadMode) = (.ramp, 0, some .fwdDrive) := by decide +kernel

/-- The ends of REVERSE_STOP, of a STOP step before a second one and a RUN step, of a STOP step that is the last, and of RUNDOWN:
with a leak sub-phase to come, at the end of the plan, and in STOPPING. -/
theorem witness_StandstillJudged_runin :
    let both : List SubPhase := [.runin, .leakPost]
    let stops := [stepOfKind .stop 0, stepOfKind .stop 0, stepOfKind .run 8000]
    let v := running recipe.steps both (risAt .reverseStop 0)
    let w := running stops both (risAt .stopWait 0)
    let l := running [stepOfKind .stop 0] [.runin] (risAt .stopWait 0)
    let d := running recipe.steps both { risAt .rundown 0 with stepIndex := some 2 }
    let e := running recipe.steps [.runin] { risAt .rundown 0 with stepIndex := some 2 }
    let x := stopping fun u => { u with ris := { u.ris with cmdSpeed := 0 } }
    (∀ s ∈ [v, w, l, d, e], s.awaits (.spu 0) ∧ (s.bay 0).spu = (part.bay 0).spu ∧ s.inRunin 0 = true
        ∧ (s.bay 0).ris.cmdSpeed = 0 ∧ s.bindsOpen 0 0 record ∧ (s.bay 0).ltu = .reset)
      ∧ v.stepOf 0 = some (stepOfKind .run 16000) ∧ w.stepOf 0 = some (stepOfKind .stop 0) ∧ w.recipeOf 0 = some { recipe with steps := stops }
      ∧ l.stepOf 0 = some (stepOfKind .stop 0) ∧ (d.bay 0).ctl.planAfter = [.leakPost] ∧ recipe.cavities[0]? = some cavity
      ∧ (e.bay 0).ctl.planAfter = [] ∧ (x.bay 0).spu = (part.bay 0).spu ∧ (x.bay 0).ris.phase = .rundown
      ∧ ((after (.standstillJudged 0) w).bay 0).ris.stepIndex = some 2
      ∧ ((after (.standstillJudged 0) w).art.get 0).map (·.summary.stepsCompleted) = some 2
      ∧ ((after (.standstillJudged 0) l).bay 0).ctl.state = .complete
      ∧ ((after (.standstillJudged 0) d).bay 0).ctl.subPhase = some .leakPost
      ∧ ((after (.standstillJudged 0) e).bay 0).ctl.state = .complete := by
  unfold State.awaits State.bindsOpen; decide +kernel

theorem witness_StopTimedOut : (stopping id).awaits (.byc 0) ∧ ((stopping id).bay 0).ctl.state = .stopping
    ∧ (stopping id).mga.params.stopTimeout ≤ ((stopping id).bay 0).ctl.stoppingTime + 1 := by
  unfold State.awaits; decide +kernel

/-- The record of the bay in STOPPING, with a cause, with a failed entry, with an incomplete one, and complete. -/
theorem witness_RecordFinalized :
    let s (r : AxleRecord) : State := { stopping id with art := part.art.set 0 (some r) }
    let leak (x : LeakResult) : LeakEntry :=
      { id := .carrier, attempts := 1, result := x, p0 := none, t0 := none, p1 := none, t1 := none, decay := none, rate := none }
    let noise (x : NoiseResult) : NoiseEntry :=
      { stepIndex := 1, measureIndex := 0, loadMode := .fwdDrive, target := 16000, attempts := 1, result := x, reason := none,
        ambient := none, lines := [] }
    let aborted : AxleRecord := { record with cause := some .operator }
    let failed : AxleRecord := { record with noise := [noise .incomplete], leaks := [leak .gross] }
    let open_ : AxleRecord := { record with noise := [noise .pass], leaks := [leak .pass] }
    let passed : AxleRecord := { record with noise := [noise .pass], leaks := [leak .pass, { leak .pass with id := .hubL }] }
    (s aborted).bindsOpen 0 0 aborted ∧ (s failed).bindsOpen 0 0 failed ∧ (s open_).bindsOpen 0 0 open_
      ∧ (s passed).bindsOpen 0 0 passed ∧ ((s passed).slot passed.slot).recipe = some recipe
      ∧ (after (.stopTimeout 0) (s open_)).recState 0 = some .queued
      ∧ ((after (.stopTimeout 0) (s open_)).art.get 0).map (·.verdict) = some (some .incomplete)
      ∧ ((after (.stopTimeout 0) (s passed)).art.get 0).map (·.verdict) = some (some .pass)
      ∧ ((after (.stopTimeout 0) (s failed)).art.get 0).map (·.verdict) = some (some .fail)
      ∧ ((after (.stopTimeout 0) (s aborted)).art.get 0).map (·.verdict) = some (some .aborted) := by
  unfold State.bindsOpen; decide +kernel

theorem witness_LinkLost :
    let up (a b : Nat) (s : State) : State := { s with lfe := { s.lfe with sampleQuiet := a, outputQuiet := b } }
    (up 9 0 part).awaits .lfe ∧ (up 9 0 part).lfe.link = .up
      ∧ (up 9 0 part).mga.params.linkLossTimeout ≤ (up 9 0 part).lfe.sampleQuiet + 1
      ∧ (up 0 9 (stopping id)).mga.params.linkLossTimeout ≤ (up 0 9 (stopping id)).lfe.outputQuiet + 1
      ∧ ((up 9 0 part).bay 0).ctl.state = .running ∧ ((up 0 9 (stopping id)).bay 0).ctl.state = .stopping
      ∧ (part.bay 1).ctl.state = .vacant ∧ (up 9 0 part).bindsOpen 0 0 record ∧ ¬ (up 9 0 part).restsAtOnce 0
      ∧ (∀ c : Bay, c ≠ 0 → ((up 9 0 part).bay c).ctl.bound ≠ some 0)
      ∧ (up 9 0 (leaking fun u => { u with phase := .coolWait })).restsAtOnce 0 := by
  unfold State.awaits State.bindsOpen State.restsAtOnce; decide +kernel

theorem witness_RunInTimeoutsAbort :
    let s := withRis fun r => { r with phase := .settle, phaseTimer := 7999 }
    let w := withRis fun r => { r with phase := .stopWait, cmdSpeed := 0, phaseTimer := 7999 }
    let h := withRis fun r => { r with hold := true, holdTimer := 999 }
    (s.bay 0).ctl.state = .running ∧ s.recipeOf 0 = some recipe ∧ s.stepOf 0 = some (stepOfKind .run 16000)
      ∧ s.awaits (.risPhase 0) ∧ recipe.settleTimeout ≤ (s.bay 0).ris.phaseTimer + 1 ∧ (w.bay 0).ris.cmdSpeed = 0
      ∧ ((after (.settleTimeout 0) w).bay 0).ctl.cause = some .settle
      ∧ h.awaits (.risCount 0) ∧ recipe.maxHold ≤ (h.bay 0).ris.holdTimer + 1 ∧ s.bindsOpen 0 0 record
      ∧ h.bindsOpen 0 0 record ∧ ¬ s.restsAtOnce 0 ∧ w.bindsOpen 0 0 record := by
  unfold State.awaits State.bindsOpen State.restsAtOnce; decide +kernel

theorem witness_DwellEnded : part.awaits (.risPhase 0) ∧ part.inRunin 0 = true ∧ part.recipeOf 0 = some recipe
    ∧ (part.bay 0).ris.stepIndex = some 0 ∧ recipe.steps[0]? = some (stepOfKind .run 16000)
    ∧ recipe.steps[1]? = some (stepOfKind .measure 16000) ∧ (part.bay 0).ris.phase = .dwell
    ∧ (part.bay 0).ris.hold = false ∧ 100 ≤ (part.bay 0).ris.phaseTimer + 1 ∧ (part.bay 0).ris.loadMode = some .fwdDrive
    ∧ part.bindsOpen 0 0 record := by
  unfold State.awaits State.bindsOpen; decide +kernel

/-- A next step that needs a reverse stop, a STOP step, and none; and with the shaft at rest a STOP step before a RUN step, and the
last step. -/
theorem witness_DwellEnded_next :
    let both : List SubPhase := [.runin, .leakPost]
    let back := { stepOfKind .run 8000 with loadMode := .revDrive }
    let first := stepOfKind .run 16000
    let v := running [first, back] both (risAt .dwell 16000)
    let w := running [first, stepOfKind .stop 0] both (risAt .dwell 16000)
    let l := running [first] both (risAt .dwell 16000)
    let still (s : State) := s.updSpu 0 fun p => { p with standstill := true }
    let r := still (running [first, stepOfKind .stop 0, back] both (risAt .dwell 0))
    let e := still (running [first] [.runin] (risAt .dwell 0))
    let ris (s : State) := ((after (.dwellEnd 0) s).bay 0).ris
    (∀ s ∈ [v, w, l, r, e], s.awaits (.risPhase 0) ∧ s.inRunin 0 = true ∧ s.stepOf 0 = some first ∧ (s.bay 0).ris.stepIndex = some 0
        ∧ (s.bay 0).ris.phase = .dwell ∧ (s.bay 0).ris.hold = false ∧ first.dwell ≤ (s.bay 0).ris.phaseTimer + 1
        ∧ s.bindsOpen 0 0 record)
      ∧ (v.bay 0).ris.loadMode = some .fwdDrive ∧ back.loadMode.isReverse = true ∧ (v.bay 0).ris.cmdSpeed = 16000
      ∧ (ris v).phase = .reverseStop ∧ (ris v).loadMode = some .fwdDrive ∧ (ris w).phase = .ramp ∧ (ris l).phase = .rundown
      ∧ (r.bay 0).spu.standstill = true ∧ (ris r).stepIndex = some 2 ∧ (ris r).loadMode = some .revDrive
      ∧ (e.bay 0).ctl.planAfter = [] ∧ ((after (.dwellEnd 0) e).bay 0).ctl.state = .complete := by
  unfold State.awaits State.bindsOpen; decide +kernel

theorem witness_RerunAndLeakSettleEnd :
    let s := withRis fun r => { r with phase := .rerun, stepIndex := some 1, phaseTimer := 49 }
    let l := leaking fun u => { u with phase := .settle, phaseTimer := 99 }
    s.awaits (.risPhase 0) ∧ s.recipeOf 0 = some recipe ∧ s.stepOf 0 = some (stepOfKind .measure 16000)
      ∧ (s.bay 0).ris.hold = false ∧ 50 ≤ (s.bay 0).ris.phaseTimer + 1
      ∧ l.awaits (.ltu 0) ∧ l.inLeak 0 = true ∧ l.cavityOf 0 = some cavity
      ∧ cavity.settleTime ≤ (l.bay 0).ltu.phaseTimer + 1 := by unfold State.awaits; decide +kernel

/-- With budget left and without: the only request, which is the head. -/
theorem witness_LaneWaitWithdrawn : LanesAgree (waiting 1) ∧ LanesAgree (waiting 0) ∧ (waiting 1).awaits .alloc
    ∧ { bay := 0, need := 1, wait := 999 } ∈ (waiting 1).oae.queue ∧ (waiting 1).recipeOf 0 = some recipe
    ∧ recipe.laneWaitLimit ≤ 999 + 1 ∧ (waiting 1).inRunin 0 = true ∧ 0 < ((waiting 1).bay 0).ris.budget
    ∧ ((waiting 0).bay 0).ris.stepIndex = some 1 ∧ recipe.steps[1]? = some (stepOfKind .measure 16000)
    ∧ ((waiting 0).bay 0).ris.budget = 0 ∧ (waiting 0).bindsOpen 0 0 record
    ∧ (∀ c : Bay, c ≠ 0 → ((waiting 0).bay c).ctl.bound ≠ some 0)
    ∧ (waiting 0).oae.queue.filter (waiting 0).staysQueued = [] :=
  ⟨waiting_lanesAgree 1, waiting_lanesAgree 0, by unfold State.awaits State.bindsOpen; decide +kernel⟩

/-- The requests of bays 0 and 1 with their wait times, the second with a need. -/
def queued (w0 w1 need : Nat) : State :=
  let s := (waiting 0).updBay 1 fun _ =>
    { runinUnit with
      ctl := { runinUnit.ctl with bound := none }
      ris := { runinUnit.ris with phase := .measureWait, stepIndex := some 1 } }
  { s with oae := { s.oae with queue := [{ bay := 0, need := 1, wait := w0 }, { bay := 1, need := need, wait := w1 }] } }

theorem queued_lanesAgree (w0 w1 need : Nat) : LanesAgree (queued w0 w1 need) := by
  refine ⟨(by decide : [(0 : Bay), 1].Nodup), ?_, ?_, ?_⟩
  · intro q hq
    rcases List.mem_cons.1 hq with rfl | hq
    · rfl
    · rw [List.mem_singleton.1 hq]; rfl
  · intro l u h
    have : ∀ l : LaneIx, State.reset.oae.lanes.get l = none := by decide +kernel
    have h' : State.reset.oae.lanes.get l = some u := h
    rw [this l] at h'; cases h'
  · intro b h; match b with
    | 0 => cases h
    | 1 => cases h
    | 2 => cases h
    | 3 => cases h

/-- The head is withdrawn and the next is granted, or does not fit; and a head that stays. -/
theorem witness_LaneWaitWithdrawn_grant :
    LanesAgree (queued 999 0 1) ∧ LanesAgree (queued 999 0 9) ∧ LanesAgree (queued 0 999 1) ∧ (queued 999 0 1).awaits .alloc
    ∧ (queued 999 0 1).recipeOf 1 = some recipe ∧ (queued 999 0 1).stepOf 1 = some (stepOfKind .measure 16000)
    ∧ (queued 999 0 1).lanesFree.length = 8 ∧ (queued 999 0 9).lanesFree.length < 9
    ∧ ((queued 999 0 1).oae.queue.map (queued 999 0 1).staysQueued) = [false, true]
    ∧ ((queued 0 999 1).oae.queue.map (queued 0 999 1).staysQueued) = [true, false]
    ∧ ((after (.laneWaitLimit []) (queued 999 0 1)).bay 1).ris.phase = .measure
    ∧ (after (.laneWaitLimit []) (queued 999 0 9)).oae.queue = [{ bay := 1, need := 9, wait := 1 }]
    ∧ (after (.laneWaitLimit []) (queued 0 999 1)).oae.queue = [{ bay := 0, need := 1, wait := 1 }] :=
  ⟨queued_lanesAgree _ _ _, queued_lanesAgree _ _ _, queued_lanesAgree _ _ _, by unfold State.awaits; decide +kernel⟩

theorem witness_OnlyGrant : OnlyGrant 1 (queued 999 0 1).lanesFree [] := fun _ _ h => by cases h

/-- With budget left and without. -/
theorem witness_WindowLimitCloses : LanesAgree (measuring 1 0) ∧ LanesAgree (measuring 0 0) ∧ (measuring 1 0).awaits (.window 0)
    ∧ ((measuring 1 0).bay 0).window
      = some { Window.opened recipe (stepOfKind .measure 16000) with timer := 499, valid := 0 }
    ∧ (measuring 1 0).recipeOf 0 = some recipe ∧ (measuring 1 0).inRunin 0 = true
    ∧ ((measuring 1 0).bay 0).ris.stepIndex = some 1 ∧ recipe.steps[1]? = some (stepOfKind .measure 16000)
    ∧ (measuring 0 0).bindsOpen 0 0 record :=
  ⟨measuring_lanesAgree 1 0, measuring_lanesAgree 0 0, by unfold State.awaits State.bindsOpen; decide +kernel⟩

/-- Bay 0 measures and bay 1 waits for lanes. -/
def contending (need : Nat) : State :=
  let s := (measuring 0 1).updBay 1 fun _ => { runinUnit with ris := { runinUnit.ris with phase := .measureWait, stepIndex := some 1 } }
  { s with oae := { s.oae with queue := [{ bay := 1, need := need, wait := 0 }] } }

theorem contending_lanesAgree (need : Nat) : LanesAgree (contending need) := by
  refine ⟨List.nodup_singleton _, ?_, ?_, ?_⟩
  · intro q hq
    cases hq with
    | head => rfl
    | tail _ h => cases h
  · intro l u h
    have h' : (measuring 0 1).oae.lanes.get l = some u := h
    rcases measuring_lanes 0 1 l with hl | hl
    · rw [hl] at h'; cases h'
    · rw [hl] at h'; cases h'; exact ⟨rfl, rfl⟩
  · intro b h
    match b with
    | 0 => rfl
    | 1 => exact absurd h (by intro g; cases g)
    | 2 => exact absurd h (by intro g; cases g)
    | 3 => exact absurd h (by intro g; cases g)

/-- A head request that the lanes freed can meet, one that they cannot, and a window with enough valid blocks. -/
theorem witness_WindowLimitCloses_grant :
    LanesAgree (contending 1) ∧ LanesAgree (contending 9) ∧ (contending 1).awaits (.window 0)
    ∧ (contending 1).recipeOf 0 = some recipe ∧ (contending 1).recipeOf 1 = some recipe
    ∧ (contending 1).stepOf 1 = some (stepOfKind .measure 16000) ∧ ((contending 1).lanesWithout 0).length = 8
    ∧ (lanesFor recipe (stepOfKind .measure 16000)).length = 1
    ∧ ((after (.windowLimit 0) (contending 1)).bay 1).ris.phase = .measure
    ∧ (after (.windowLimit 0) (contending 9)).oae.queue = [{ bay := 1, need := 9, wait := 0 }] :=
  ⟨contending_lanesAgree 1, contending_lanesAgree 9, by unfold State.awaits; decide +kernel⟩

/-- A peak of 6951 against the limit 6800 fails: with budget the step is rerun, without it the entry is FAIL; at 6800 it passes. -/
theorem test_window_judged :
    let s (budget peak : Nat) := (measuring budget 1).updBay 0 fun u => { u with window := u.window.map fun w =>
      { w with lines := w.lines.map fun l => { l with included := true }
               lanes := w.lanes.map fun a => { a with sums := a.sums.map fun y => { y with peak := peak } } } }
    let entry (t : State) := (t.art.get 0).map fun r => r.noise.map fun n => (n.result, n.lines.map (·.state))
    ((after (.windowLimit 0) (s 1 6951)).bay 0).ris.phase = .rerun ∧ entry (after (.windowLimit 0) (s 1 6951)) = some []
    ∧ entry (after (.windowLimit 0) (s 0 6951)) = some [(.fail, [.fail])]
    ∧ entry (after (.windowLimit 0) (s 1 6800)) = some [(.pass, [.pass])]
    ∧ ((after (.windowLimit 0) (s 1 6800)).bay 0).ris.stepIndex = some 2 := by decide +kernel

theorem witness_LeakPhasesTimeOut :
    let w := leaking fun u => { u with phase := .coolWait, phaseTimer := 9999 }
    let f := leaking fun u => { u with phase := .fill, phaseTimer := 999, fill := 1 }
    w.awaits (.ltu 0) ∧ w.inLeak 0 = true ∧ w.cavityOf 0 = some cavity ∧ w.recipeOf 0 = some recipe
      ∧ (w.bay 0).ltu.cavityIndex = some 0 ∧ recipe.cavities.length = 2 ∧ cavity.coolWaitLimit ≤ (w.bay 0).ltu.phaseTimer + 1
      ∧ w.bindsOpen 0 0 record ∧ f.awaits (.ltu 0) ∧ f.cavityOf 0 = some cavity
      ∧ cavity.fillTimeout ≤ (f.bay 0).ltu.phaseTimer + 1 ∧ f.bindsOpen 0 0 record := by
  unfold State.awaits State.bindsOpen; decide +kernel

/-- A decay of 8 at its limit, one of 24 above it with and without budget. -/
theorem witness_LeakMeasureJudged :
    let s := leakMeasured 4992 3550 1
    s.awaits (.ltu 0) ∧ s.inLeak 0 = true ∧ s.cavityOf 0 = some cavity ∧ (s.bay 0).ltu.phase = .measure
      ∧ cavity.measureTime ≤ (s.bay 0).ltu.phaseTimer + 1 ∧ (s.bay 0).ltu.p0 = some 5000 ∧ (s.bay 0).ltu.t0 = some 3550
      ∧ s.roleReading 0 cavity.pressRole = 4992 ∧ s.roleReading 0 cavity.tempRole = 3550 ∧ s.roleReading 0 .baro = 10130
      ∧ s.bindsOpen 0 0 record ∧ ((leakMeasured 4990 3580 0).bay 0).ltu.budget = 0
      ∧ ((after (.leakMeasureEnd 0) (leakMeasured 4990 3580 0)).bay 0).ltu.decay = some 24 := by
  unfold State.awaits State.bindsOpen; decide +kernel

theorem witness_VentEnded :
    let r := leaking fun u => { u with phase := .vent, phaseTimer := 99, afterVent := some .refill, vent := 1 }
    let n := leaking fun u =>
      { u with phase := .vent, phaseTimer := 99, cavityIndex := some 1, afterVent := some .next, vent := 2 }
    let s := stopping fun u => { u with ltu := { u.ltu with phase := .vent, phaseTimer := 99, cavityIndex := some 0, vent := 1 } }
    r.awaits (.ltu 0) ∧ r.cavityOf 0 = some cavity ∧ cavity.ventTime ≤ (r.bay 0).ltu.phaseTimer + 1 ∧ r.inLeak 0 = true
      ∧ n.cavityOf 0 = some { cavity with id := .hubL, pressRole := .press2, pair := 2 } ∧ n.inLeak 0 = true
      ∧ recipe.cavities.length ≤ 1 + 1 ∧ (n.bay 0).ctl.planAfter = [] ∧ (n.bay 0).spu.standstill = true
      ∧ (n.bay 0).ltu.vent = pairBit 2 ∧ n.bindsOpen 0 0 record
      ∧ s.cavityOf 0 = some cavity ∧ (s.bay 0).ctl.state = .stopping := by
  unfold State.awaits State.bindsOpen; decide +kernel

/-- The vent of the first cavity of two with after vent NEXT, and that of the last cavity of LEAK_PRE, at STANDSTILL and not. -/
theorem witness_VentEnded_next :
    let n := leaking fun u => { u with phase := .vent, phaseTimer := 99, afterVent := some .next, vent := 1 }
    let p (still : Bool) := (leaking fun u =>
      { u with phase := .vent, phaseTimer := 99, cavityIndex := some 1, afterVent := some .next, vent := 2 }).updBay 0 fun u =>
        { u with ctl := { u.ctl with subPhase := some .leakPre, plan := [.leakPre, .runin] }, spu := { u.spu with standstill := still } }
    n.awaits (.ltu 0) ∧ n.inLeak 0 = true ∧ n.cavityOf 0 = some cavity ∧ cavity.ventTime ≤ (n.bay 0).ltu.phaseTimer + 1
      ∧ recipe.cavities[1]? = some { cavity with id := .hubL, pressRole := .press2, pair := 2 }
      ∧ ((after (.ventEnd 0) n).bay 0).ltu.cavityIndex = some 1 ∧ ((after (.ventEnd 0) n).bay 0).ltu.phase = .fill
      ∧ (∀ still : Bool, (p still).awaits (.ltu 0) ∧ (p still).inLeak 0 = true ∧ (p still).recipeOf 0 = some recipe
        ∧ ((p still).bay 0).ltu.cavityIndex = some 1 ∧ recipe.cavities.length = 1 + 1
        ∧ (p still).cavityOf 0 = some { cavity with id := .hubL, pressRole := .press2, pair := 2 }
        ∧ ((p still).bay 0).ctl.planAfter = .runin :: [] ∧ ((p still).bay 0).spu.standstill = still
        ∧ recipe.steps[0]? = some (stepOfKind .run 16000) ∧ (p still).bindsOpen 0 0 record
        ∧ ((after (.ventEnd 0) (p still)).bay 0).ctl.subPhase = some .runin
        ∧ ((after (.ventEnd 0) (p still)).bay 0).ris.driveEnable = true
        ∧ ((after (.ventEnd 0) (p still)).bay 0).ris.phase = .ramp) := by
  unfold State.awaits State.bindsOpen; decide +kernel

end Sys2Proof.Tests
end

section
/-! The state after power-on meets the invariants (O3). -/

namespace Sys2Proof.Machine

/-! ### The state after power-on -/

@[simp] theorem State.reset_bay (b : Bay) : State.reset.bay b = .reset := by
  simp [State.bay, State.reset, Vector.get_eq_getElem]

@[simp] theorem State.reset_art (i : RecIx) : State.reset.art.get i = none := by
  simp [State.reset, Vector.get_eq_getElem]

@[simp] theorem State.reset_slot (k : SlotIx) : State.reset.rbk.get k = .reset := by
  simp [State.reset, Vector.get_eq_getElem]

theorem reset_ranges : RangesHold State.reset := by
  refine ⟨⟨by decide, by decide⟩, fun b => by simp [BayUnit.reset, BayCtl.reset], fun e => ?_,
    fun b => by simp [BayUnit.reset, Spu.reset], fun i => ?_, fun b => ?_, fun a b _ ha => ?_⟩
  · simp [State.latch, State.reset, Vector.get_eq_getElem, Latch.cleared]
  · simp [State.reset, Vector.get_eq_getElem, Counter.reset]
  · simp [State.reset, Vector.get_eq_getElem]
  · simp [State.reset, Vector.get_eq_getElem] at ha

theorem reset_lanes : LanesAgree State.reset := by
  refine ⟨by simp [OneRequestPerBay, State.reset], by simp [State.reset], fun l u h => ?_, fun b h => ?_⟩
  · simp [State.reset, Vector.get_eq_getElem] at h
  · simp [BayUnit.reset] at h

/-- Settles O3: every table of power-on values holds no record, no request, no recipe and nothing at work. -/
theorem resetMeetsInvariants : Obligations.ResetMeetsInvariants := by
  refine ⟨fun b => by simp [BayUnit.reset, Ltu.reset], reset_ranges, ?spool, ?pins, ?bindings, fun b => ?runin, reset_lanes,
    fun k => ?recipes, fun k => ?pinned, fun b i r h => ?bound, fun e h => ?emission, fun b => ?fills⟩
  case spool => exact ⟨by simp [State.reset], fun i => by simp [State.recState]; simp [State.reset]⟩
  case pins =>
    intro k
    have h : ∀ i ∈ List.finRange 12, ¬ State.reset.opensSlot k i = true := fun i _ => by simp [State.opensSlot]
    rw [List.countP_eq_zero.mpr h, State.reset_slot]
    rfl
  case bindings => exact ⟨fun b => by simp [BayUnit.reset, BayCtl.reset, BayState.bindsRecord],
    fun b i => by simp [BayUnit.reset, BayCtl.reset, State.openBay]⟩
  case runin => simp [BayUnit.reset, Ris.reset]
  case recipes => simp [State.slot, Slot.reset]
  case pinned => simp [Slot.reset]
  case bound => simp [BayUnit.reset, BayCtl.reset] at h
  case emission => simp [State.reset] at h
  case fills => simp [BayUnit.reset, Ltu.reset]

end Sys2Proof.Machine
end

section
/-! What the work of the bays' units is made of. `Deed s t` lists the elementary changes of the state, each with the condition
under which the model makes it; one lemma per operation says that the operation is a chain of deeds. An invariant of all
this work is then proved once per deed. -/

namespace Sys2Proof.Machine

/-! ### Deeds -/

/-- The values of a Speed Unit lie in their ranges (R75). -/
def Spu.bounded (p : Spu) : Prop := p.ring.length = 64 ∧ p.speed ≤ 65535 ∧ p.quiet ≤ 65535 ∧ p.steadyCount ≤ 400

/-- A controller differs from another at most in sub-phase and stopping time. -/
def BayCtl.softly (c d : BayCtl) : Prop := ∃ (p : Option SubPhase) (n : Nat), d = { c with subPhase := p, stoppingTime := n }

/-- A write changes the content of a record alone: not its state, its bay or its slot. -/
def ContentOnly (f : AxleRecord → AxleRecord) : Prop := ∀ r, (f r).state = r.state ∧ (f r).bay = r.bay ∧ (f r).slot = r.slot

/-- No counter in its range falls or leaves it. -/
def CountersRise (s : State) (cs : Vector Counter 8) : Prop :=
  ∀ i : Fin 8, (s.stc.counters.get i).value ≤ counterMax →
    (s.stc.counters.get i).value ≤ (cs.get i).value ∧ (cs.get i).value ≤ counterMax

/-- A change outside the bays, the lanes, the recipe slots, the records, the spooler and the counters, which keeps the output map,
the ranges of ages and queues, the cell parameters and the waiting commands. -/
structure Outside (s t : State) : Prop where
  bays : t.bays = s.bays
  oae : t.oae = s.oae
  rbk : t.rbk = s.rbk
  art : t.art = s.art
  rsp : t.rsp = s.rsp
  stc : t.stc = s.stc
  outputMap : t.chx.outputMap = s.chx.outputMap
  params : t.mga.params = s.mga.params
  pending : t.pending = s.pending
  ages : AgesBounded s → AgesBounded t
  queues : QueuesBounded s → QueuesBounded t

/-- The elementary changes of the state. -/
inductive Deed (s : State) : State → Prop where
  | ris (b : Bay) (f : Ris → Ris) : Deed s (s.updRis b f)
  | ltu (b : Bay) (f : Ltu → Ltu) : Deed s (s.updLtu b f)
  | spu (b : Bay) (f : Spu → Spu) (h : ∀ p : Spu, p.bounded → (f p).bounded) : Deed s (s.updSpu b f)
  | window (b : Bay) (w : Option Window) : Deed s (s.setWindow b w)
  | lanes (o : Oae) : Deed s { s with oae := o }
  | count (cs : Vector Counter 8) (h : CountersRise s cs) : Deed s { s with stc := { s.stc with counters := cs } }
  | record (b : Bay) (f : AxleRecord → AxleRecord) (h : ContentOnly f) : Deed s (s.writeBound b f)
  | alarm (b : Bay) (a : BayAlarm) : Deed s (s.latchAlarm b a)
  | ctl (b : Bay) (f : BayCtl → BayCtl) (h : ∀ c : BayCtl, c.softly (f c)) : Deed s (s.updCtl b f)
  | lock (b : Bay) : Deed s (s.updCtl b fun c => { c with lockPending := true })
  | run (b : Bay) (h : (s.bay b).ctl.state = .ready) : Deed s (s.updCtl b fun c => { c with state := .running })
  | cause (b : Bay) (c : Cause) (h : (s.bay b).ctl.state = .ready ∨ (s.bay b).ctl.state = .running) : Deed s (setCause b c s)
  | stop (b : Bay) (h : (s.bay b).ctl.state = .running) : Deed s (s.updCtl b BayCtl.stop)
  | complete (b : Bay) (h : (s.bay b).ctl.state = .ready ∨ (s.bay b).ctl.state = .stopping) : Deed s (enterComplete b s)
  | outside {t : State} (h : Outside s t) : Deed s t

/-- A chain of deeds. -/
def Deeds (s t : State) : Prop := Relation.ReflTransGen Deed s t

theorem Deed.one {s t : State} (h : Deed s t) : Deeds s t := Relation.ReflTransGen.single h

theorem Deeds.refl {s : State} : Deeds s s := Relation.ReflTransGen.refl

theorem Deeds.trans {s t u : State} (h : Deeds s t) (g : Deeds t u) : Deeds s u := Relation.ReflTransGen.trans h g

theorem Deeds.ite {s t u : State} {c : Prop} [Decidable c] (h : c → Deeds s t) (g : ¬ c → Deeds s u) :
    Deeds s (if c then t else u) := by
  split
  · next hc => exact h hc
  · next hc => exact g hc

theorem Deeds.foldl {α : Type} (f : State → α → State) (h : ∀ s x, Deeds s (f s x)) (l : List α) (s : State) :
    Deeds s (l.foldl f s) := by
  induction l generalizing s with
  | nil => exact .refl
  | cons x xs ih => exact (h s x).trans (ih _)

/-- What every deed keeps, a chain of deeds keeps. -/
theorem Deeds.keeps {P : State → State → Prop} (hr : ∀ s, P s s) (ht : ∀ {s t u}, P s t → P t u → P s u)
    (hd : ∀ {s t}, Deed s t → P s t) {s t : State} (h : Deeds s t) : P s t := by
  induction h with
  | refl => exact hr _
  | tail _ h ih => exact ht ih (hd h)

section
variable (b : Bay) (s : State)

/-! ### Elementary operations -/

theorem updRis_deeds (f : Ris → Ris) : Deeds s (s.updRis b f) := (Deed.ris b f).one
theorem updLtu_deeds (f : Ltu → Ltu) : Deeds s (s.updLtu b f) := (Deed.ltu b f).one
theorem setWindow_deeds (w : Option Window) : Deeds s (s.setWindow b w) := (Deed.window b w).one
theorem setOae_deeds (o : Oae) : Deeds s { s with oae := o } := (Deed.lanes o).one
theorem latchAlarm_deeds (a : BayAlarm) : Deeds s (s.latchAlarm b a) := (Deed.alarm b a).one

theorem emit_deeds (e : CounterEvt) : Deeds s (s.emit e) := by
  refine (Deed.count _ fun i hi => ?_).one
  rw [show (s.stc.counters.map fun c => if c.passes e then c.add 1 else c) = (s.emit e).stc.counters from rfl,
    State.emit_counter]
  split
  · exact ⟨Counter.le_add 1 hi, Counter.add_le 1 _⟩
  · exact ⟨le_rfl, hi⟩

theorem emitBay_deeds (ev : CounterEvent) (r : Option ResultName) : Deeds s (s.emitBay ev b r) := emit_deeds s _

theorem writeBound_deeds (f : AxleRecord → AxleRecord) (h : ContentOnly f) : Deeds s (s.writeBound b f) :=
  (Deed.record b f h).one

theorem writeSummary_deeds (f : Summary → Summary) : Deeds s (s.writeSummary b f) :=
  writeBound_deeds b s _ fun _ => ⟨rfl, rfl, rfl⟩

theorem offerNoise_deeds (e : NoiseEntry) : Deeds s (s.offerNoise b e) :=
  writeBound_deeds b s _ fun r => by split <;> exact ⟨rfl, rfl, rfl⟩

theorem offerLeak_deeds (e : LeakEntry) : Deeds s (s.offerLeak b e) :=
  writeBound_deeds b s _ fun r => by split <;> exact ⟨rfl, rfl, rfl⟩

theorem updSpu_deeds (f : Spu → Spu) (h : ∀ p : Spu, p.bounded → (f p).bounded) : Deeds s (s.updSpu b f) :=
  (Deed.spu b f h).one

theorem updCtl_deeds (f : BayCtl → BayCtl) (h : ∀ c : BayCtl, c.softly (f c)) : Deeds s (s.updCtl b f) :=
  (Deed.ctl b f h).one

/-- The commanded speed changes; a steady counter set to 0 is in its range. -/
theorem setCmdSpeed_deeds (v : Nat) : Deeds s (s.setCmdSpeed b v) :=
  .ite (fun _ => (updRis_deeds b s _).trans (updSpu_deeds b _ _ fun _ h => ⟨h.1, h.2.1, h.2.2.1, Nat.zero_le _⟩))
    fun _ => updRis_deeds b s _

/-! ### Lanes and windows -/

theorem grantOne_deeds (q : LaneRequest) : Deeds s (grantOne q s) := by
  unfold grantOne
  split
  · exact (((setOae_deeds s _).trans (setWindow_deeds _ _ _)).trans (updRis_deeds _ _ _)).trans (emitBay_deeds _ _ _ _)
  · exact .refl

theorem grantLoop_deeds (l : List LaneRequest) : Deeds s (grantLoop l s) := by
  induction l generalizing s with
  | nil => exact setOae_deeds s _
  | cons q rest ih => exact .ite (fun _ => (grantOne_deeds s q).trans (ih _)) fun _ => setOae_deeds s _

theorem grantTest_deeds : Deeds s s.grantTest := grantLoop_deeds s _

theorem postRequest_deeds (n : Nat) : Deeds s (postRequest b n s) :=
  .ite (fun _ => .refl) fun _ => (setOae_deeds s _).trans (grantTest_deeds _)

theorem dropWindow_deeds : Deeds s (dropWindow b s) := (setOae_deeds s _).trans (setWindow_deeds b _ none)

theorem releaseBay_deeds : Deeds s (releaseBay b s) := by
  unfold releaseBay
  have h1 := setOae_deeds s { s.oae with queue := s.oae.queue.filter fun q => q.bay != b }
  have h2 := h1.trans (Deeds.ite (c := ((s.bay b).window.isSome || s.holdsLanes b) = true)
    (fun _ => dropWindow_deeds b _) fun _ => .refl)
  exact (h2.trans (.ite (fun _ => emitBay_deeds b _ _ _) fun _ => .refl)).trans
    (.ite (fun _ => grantTest_deeds _) fun _ => .refl)

theorem discardBlock_deeds : Deeds s (discardBlock b s) := by
  unfold discardBlock
  split
  · exact .refl
  · split
    · exact .refl
    · exact (setWindow_deeds b s _).trans (.ite (fun _ => emitBay_deeds b _ _ _) fun _ => .refl)

theorem windowFrame_deeds : Deeds s (windowFrame b s) := by
  unfold windowFrame
  split
  · exact (setWindow_deeds b s _).trans (.ite (fun _ => setWindow_deeds b _ _) fun _ => discardBlock_deeds b _)
  · exact .refl

/-! ### Run-in Sequencer -/

theorem stepCompleted_deeds : Deeds s (stepCompleted b s) := writeSummary_deeds b s _
theorem startRamp_deeds (st : Step) : Deeds s (startRamp b st s) := updRis_deeds b s _
theorem rundownTest_deeds : Deeds s (rundownTest b s) := .ite (fun _ => updRis_deeds b s _) fun _ => .refl
theorem enterRundown_deeds : Deeds s (enterRundown b s) := (updRis_deeds b s _).trans (rundownTest_deeds b _)

theorem enterSteps_deeds (l : List Step) (i : Nat) : Deeds s (enterSteps b l i s) := by
  induction l generalizing s i with
  | nil => exact enterRundown_deeds b s
  | cons st rest ih =>
    refine (updRis_deeds b s (Ris.setStep st i)).trans (.ite (fun _ => updRis_deeds b _ _) fun _ => ?_)
    exact (startRamp_deeds b _ st).trans (.ite (fun _ => (stepCompleted_deeds b _).trans (ih _ _)) fun _ => .refl)

theorem nextStep_deeds : Deeds s (nextStep b s) := by
  unfold nextStep
  split
  · exact enterSteps_deeds b s _ _
  · exact .refl

theorem finishStep_deeds : Deeds s (finishStep b s) := (stepCompleted_deeds b s).trans (nextStep_deeds b _)

theorem beginRunin_deeds : Deeds s (beginRunin b s) :=
  ((setCmdSpeed_deeds b s 0).trans (updRis_deeds b _ _)).trans (enterSteps_deeds b _ _ _)

theorem endReverseStop_deeds : Deeds s (endReverseStop b s) := by
  unfold endReverseStop
  split
  · exact (startRamp_deeds b s _).trans (.ite (fun _ => finishStep_deeds b _) fun _ => .refl)
  · exact .refl

theorem standstillTest_deeds : Deeds s (standstillTest b s) := by
  unfold standstillTest
  split
  · split
    · exact endReverseStop_deeds b s
    · exact finishStep_deeds b s
    · exact updRis_deeds b s _
    · exact .refl
  · exact .refl

theorem postAttempt_deeds : Deeds s (postAttempt b s) := by
  unfold postAttempt
  split
  · exact (updRis_deeds b s _).trans (postRequest_deeds b _ _)
  · exact .refl

theorem enterMeasureWait_deeds : Deeds s (enterMeasureWait b s) :=
  (updRis_deeds b s _).trans (.ite (fun _ => .refl) fun _ => postAttempt_deeds b _)

theorem endSettle_deeds : Deeds s (endSettle b s) := by
  unfold endSettle
  split
  · exact .ite (fun _ => enterMeasureWait_deeds b s) fun _ =>
      (updRis_deeds b s _).trans (.ite (fun _ => finishStep_deeds b _) fun _ => .refl)
  · exact .refl

theorem enterSettle_deeds : Deeds s (enterSettle b s) := updRis_deeds b s _
theorem enterRerun_deeds (st : Step) : Deeds s (enterRerun b st s) :=
  .ite (fun _ => enterSettle_deeds b s) fun _ => updRis_deeds b s _
theorem spendBudget_deeds : Deeds s (spendBudget b s) := updRis_deeds b s _

theorem offerNoiseEntry_deeds (st : Step) (x : NoiseResult) (y : Option NomeasReason) (ls : List LineResult)
    (a : Option Bool) : Deeds s (offerNoiseEntry b st x y ls a s) := offerNoise_deeds b s _

theorem actOnResult_deeds (r : Recipe) (st : Step) (w : WindowResult) : Deeds s (actOnResult b r st w s).state := by
  have hfinal (x y) (ls : List LineResult) (a) : Deeds s (finishStep b (offerNoiseEntry b st x y ls a s)) :=
    (offerNoiseEntry_deeds b s st x y ls a).trans (finishStep_deeds b _)
  have hsettle : Deeds s (enterSettle b (spendBudget b s)) := (spendBudget_deeds b s).trans (enterSettle_deeds b _)
  unfold actOnResult
  dsimp only
  split
  case h_1 => exact hfinal _ _ _ _
  case h_2 =>
    split
    · exact (spendBudget_deeds b s).trans (enterRerun_deeds b _ st)
    · split
      · exact (offerNoiseEntry_deeds b s st _ _ _ _).trans (stepCompleted_deeds b _)
      · exact hfinal _ _ _ _
  case h_3 => split; exacts [hsettle, hfinal _ _ _ _]
  case h_4 => split; exacts [hsettle, hfinal _ _ _ _]

theorem takeResult_deeds (w : WindowResult) : Deeds s (takeResult b w s).state := by
  unfold takeResult
  dsimp only
  split
  · split
    · exact actOnResult_deeds b s _ _ w
    · exact .refl
  · exact .refl

theorem stopRundown_deeds : Deeds s (stopRundown b s) := (updRis_deeds b s _).trans (rundownTest_deeds b _)

theorem risAbort_deeds : Deeds s (risAbort b s) := by
  unfold risAbort
  dsimp only
  split
  · exact .refl
  · split
    · split
      · exact (offerNoiseEntry_deeds b s _ _ _ _ _).trans (stopRundown_deeds b _)
      · exact stopRundown_deeds b s
    · exact stopRundown_deeds b s

theorem reachTarget_deeds (st : Step) : Deeds s (reachTarget b st s) := by
  refine (updRis_deeds b s _).trans (.ite (fun _ => ?_) fun _ => (updRis_deeds b _ _).trans (standstillTest_deeds b _))
  exact (updRis_deeds b _ _).trans (.ite (fun _ => finishStep_deeds b _) fun _ => .refl)

theorem rampTick_deeds (r : Recipe) (st : Step) (target rate : Nat) : Deeds s (rampTick b r st target rate s) :=
  ((setCmdSpeed_deeds b s _).trans (updRis_deeds b _ _)).trans (.ite (fun _ => reachTarget_deeds b _ st) fun _ => .refl)

/-! ### Leak Test Unit -/

theorem leakAttempt_deeds (o : ResultName) : Deeds s (leakAttempt b o s) := emitBay_deeds b s _ _

theorem offerLeakEntry_deeds (c : Cavity) (x : LeakResult) : Deeds s (offerLeakEntry b c x s) := by
  unfold offerLeakEntry
  exact (offerLeak_deeds b s _).trans (updLtu_deeds b _ _)

theorem grossEnd_deeds (c : Cavity) : Deeds s (grossEnd b c s) :=
  ((leakAttempt_deeds b s _).trans (offerLeakEntry_deeds b _ c _)).trans (updLtu_deeds b _ _)

theorem incompleteEnd_deeds (c : Cavity) : Deeds s (incompleteEnd b c s) :=
  (leakAttempt_deeds b s _).trans (offerLeakEntry_deeds b _ c _)

theorem actOnDecay_deeds (c : Cavity) (o : DecayOutcome) : Deeds s (actOnDecay b c o s) :=
  (leakAttempt_deeds b s _).trans
    (.ite (fun _ => updLtu_deeds b _ _) fun _ => (offerLeakEntry_deeds b _ c _).trans (updLtu_deeds b _ _))

theorem measureEnd_deeds (c : Cavity) : Deeds s (measureEnd b c s) := (updLtu_deeds b s _).trans (actOnDecay_deeds b _ c _)

theorem settleEnd_deeds (c : Cavity) : Deeds s (settleEnd b c s) := updLtu_deeds b s _
theorem permitStart_deeds : Deeds s (permitStart b s) := .ite (fun _ => updLtu_deeds b s _) fun _ => .refl

theorem enterCavities_deeds (l : List Cavity) (i : Nat) : Deeds s (enterCavities b l i s) := by
  induction l generalizing s i with
  | nil => exact updLtu_deeds b s _
  | cons c rest ih =>
    refine (updLtu_deeds b s (Ltu.enterCavity c i)).trans (.ite (fun _ => updLtu_deeds b _ _) fun _ => ?_)
    exact .ite (fun _ => (incompleteEnd_deeds b _ c).trans (ih _ _)) fun _ => .refl

theorem nextCavity_deeds : Deeds s (nextCavity b s) := by
  unfold nextCavity
  split
  · exact enterCavities_deeds b s _ _
  · exact .refl

theorem beginLeak_deeds : Deeds s (beginLeak b s) :=
  ((updLtu_deeds b s _).trans (permitStart_deeds b _)).trans (enterCavities_deeds b _ _ _)

theorem coolTest_deeds : Deeds s (coolTest b s) := by
  unfold coolTest
  split
  · exact .ite (fun _ => updLtu_deeds b s _) fun _ => .refl
  · exact .refl

theorem coolWaitEnd_deeds (c : Cavity) : Deeds s (coolWaitEnd b c s) :=
  (incompleteEnd_deeds b s c).trans (nextCavity_deeds b _)

theorem leakFrame_deeds (c : Cavity) : Deeds s (leakFrame b c s) := by
  unfold leakFrame
  split
  · exact coolTest_deeds b s
  · exact .ite (fun _ => updLtu_deeds b s _) fun _ => .refl
  · exact .ite (fun _ => grossEnd_deeds b s c) fun _ => .refl
  · exact .ite (fun _ => grossEnd_deeds b s c) fun _ => .refl
  · exact .refl
  · exact .refl
  · exact .refl

theorem ventEnd_deeds (c : Cavity) : Deeds s (ventEnd b c s) := by
  refine (updLtu_deeds b s (Ltu.closeVent c)).trans (.ite (fun _ => ?_) fun _ => updLtu_deeds b _ _)
  split
  · exact updLtu_deeds b _ _
  · exact nextCavity_deeds b _

theorem phaseEnd_deeds (c : Cavity) : Deeds s (phaseEnd b c s) := by
  unfold phaseEnd
  split
  · exact coolWaitEnd_deeds b s c
  · exact grossEnd_deeds b s c
  · exact settleEnd_deeds b s c
  · exact measureEnd_deeds b s c
  · exact ventEnd_deeds b s c
  · exact .refl
  · exact .refl

theorem ltuTick_deeds : Deeds s (ltuTick b s) := by
  unfold ltuTick
  split
  · split
    · exact (updLtu_deeds b s _).trans (.ite (fun _ => phaseEnd_deeds b _ _) fun _ => .refl)
    · exact .refl
  · exact .refl

theorem ltuAbort_deeds : Deeds s (ltuAbort b s) := by
  unfold ltuAbort
  split
  case h_1 c _ =>
    have hend (f : Ltu → Ltu) : Deeds s ((incompleteEnd b c s).updLtu b f) :=
      (incompleteEnd_deeds b s c).trans (updLtu_deeds b _ _)
    split
    · exact .refl
    · exact .refl
    · exact hend _
    · exact hend _
    · exact hend _
    · exact hend _
    · exact .ite (fun _ => .refl) fun _ => offerLeakEntry_deeds b s _ _
  case h_2 => exact .refl

/-! ### Bay Controller -/

theorem testStopped_deeds : Deeds s (testStopped b s) := .ite (fun h => (Deed.complete b (.inr h.1)).one) fun _ => .refl

theorem stop_deeds (h : (s.bay b).ctl.state = .running) : Deeds s (s.updCtl b BayCtl.stop) := (Deed.stop b h).one

theorem running_iff : s.running b = true ↔ (s.bay b).ctl.state = .running := by simp [State.running]

theorem stopNormally_deeds (h : (s.bay b).ctl.state = .running) : Deeds s (stopNormally b s) :=
  ((stop_deeds b s h).trans (releaseBay_deeds b _)).trans (testStopped_deeds b _)

theorem earlyEnd_deeds : Deeds s (earlyEnd b s) :=
  .ite (fun h => (((stop_deeds b s ((running_iff b s).mp h)).trans (releaseBay_deeds b _)).trans
    (stopRundown_deeds b _)).trans (testStopped_deeds b _)) fun _ => .refl

/-- The cause is written into the bay and its record; nothing else of the bay changes. -/
theorem setCause_bay (c : Cause) (x : Bay) :
    (setCause b c s).bay x = if b = x then { s.bay b with ctl := { (s.bay b).ctl with cause := some c } } else s.bay x := by
  have h : ∀ y, (s.writeBound b fun r => { r with cause := some c }).bay y = s.bay y := by
    intro y
    unfold State.writeBound
    repeat' split
    all_goals rfl
  unfold setCause State.updCtl
  rw [State.bay_updBay, h, h]

theorem abortBay_deeds (c : Cause) (h : (s.bay b).ctl.state = .running) : Deeds s (abortBay b c s) := by
  have hc : ((setCause b c s).bay b).ctl.state = .running := by rw [setCause_bay]; simpa using h
  exact (((((Deed.cause b c (.inr h)).one.trans (stop_deeds b _ hc)).trans (risAbort_deeds b _)).trans
    (ltuAbort_deeds b _)).trans (releaseBay_deeds b _)).trans (testStopped_deeds b _)

theorem raiseFault_deeds (c : Cause) : Deeds s (raiseFault b c s) := by
  have habort (t : State) : Deeds t (if t.running b then abortBay b c t else t) :=
    .ite (fun h => abortBay_deeds b t c ((running_iff b t).mp h)) fun _ => .refl
  unfold raiseFault
  split
  · exact (latchAlarm_deeds b s _).trans (habort _)
  · exact habort s

theorem beginSubPhase_deeds (p : SubPhase) : Deeds s (beginSubPhase b p s) := by
  refine (updCtl_deeds b s (fun c => { c with subPhase := some p }) fun c => ⟨some p, c.stoppingTime, rfl⟩).trans ?_
  cases p with
  | leakPre => exact beginLeak_deeds b _
  | runin => exact beginRunin_deeds b _
  | leakPost => exact beginLeak_deeds b _

theorem running_of_subPhaseDone (h : s.subPhaseDone b = true) : (s.bay b).ctl.state = .running := by
  unfold State.subPhaseDone at h
  exact (running_iff b s).mp (Bool.and_eq_true_iff.mp h).1

theorem runPlan_deeds (l : List SubPhase) (h : (s.bay b).ctl.state = .running) : Deeds s (runPlan b l s) := by
  induction l generalizing s with
  | nil => exact stopNormally_deeds b s h
  | cons p rest ih =>
    exact (beginSubPhase_deeds b s p).trans (.ite (fun hd => ih _ (running_of_subPhaseDone b _ hd)) fun _ => .refl)

theorem advance_deeds : Deeds s (advance b s) :=
  .ite (fun h => runPlan_deeds b s _ (running_of_subPhaseDone b s h)) fun _ => .refl

theorem enterRunning_deeds (h : (s.bay b).ctl.state = .ready) : Deeds s (enterRunning b s) :=
  (Deed.run b h).one.trans (runPlan_deeds b _ _ (by simp))

theorem enterTest_deeds : Deeds s (enterTest b s) := by
  unfold enterTest
  split
  · exact .ite (fun h => enterRunning_deeds b s h.1) fun _ => .refl
  · exact .refl

theorem fixtureTest_deeds (s0 : State) : Deeds s (fixtureTest s0 b s) := by
  unfold fixtureTest
  split
  · exact .ite (fun _ => raiseFault_deeds b s _) fun _ => .refl
  · exact .refl

theorem staleTest_deeds (s0 : State) : Deeds s (staleTest s0 b s) := .ite (fun _ => raiseFault_deeds b s _) fun _ => .refl

theorem endHold_deeds : Deeds s (endHold b s) :=
  (updRis_deeds b s _).trans (.ite (fun _ => postAttempt_deeds b _) fun _ => .refl)
theorem beginHold_deeds : Deeds s (beginHold b s) := (updRis_deeds b s _).trans (latchAlarm_deeds b _ _)

theorem actOnOil_deeds (r : Recipe) (v : Int) : Deeds s (actOnOil b r v s) := by
  refine .ite (fun _ => raiseFault_deeds b s _) fun _ => .ite (fun _ => .ite (fun _ => ?_) fun _ => ?_) fun _ => ?_
  · exact .ite (fun _ => endHold_deeds b s) fun _ => .refl
  · exact .ite (fun _ => beginHold_deeds b s) fun _ => .refl
  · exact .ite (fun _ => latchAlarm_deeds b s _) fun _ => .refl

theorem oilFrame_deeds : Deeds s (oilFrame b s) := by
  unfold oilFrame
  split
  · exact .ite (fun _ => (writeSummary_deeds b s _).trans (actOnOil_deeds b _ _ _)) fun _ => .refl
  · exact .refl

theorem torqueFrame_deeds : Deeds s (torqueFrame b s) := by
  unfold torqueFrame
  split
  · exact .ite (fun _ => ((writeSummary_deeds b s _).trans (updRis_deeds b _ _)).trans
      (.ite (fun _ => raiseFault_deeds b _ _) fun _ => .refl)) fun _ => .refl
  · exact .refl

theorem settleFrame_deeds : Deeds s (settleFrame b s) :=
  .ite (fun _ => (endSettle_deeds b s).trans (advance_deeds b _)) fun _ => .refl

theorem risFrame_deeds (x : Bool) : Deeds s (risFrame b x s) :=
  ((oilFrame_deeds b s).trans (torqueFrame_deeds b _)).trans (.ite (fun _ => settleFrame_deeds b _) fun _ => .refl)

theorem ltuFrame_deeds : Deeds s (ltuFrame b s) := by
  unfold ltuFrame
  refine .ite (fun _ => (permitStart_deeds b s).trans ?_) fun _ => .refl
  dsimp only
  split
  · exact .ite (fun _ => (updLtu_deeds b _ _).trans (raiseFault_deeds b _ _)) fun _ =>
      (leakFrame_deeds b _ _).trans (advance_deeds b _)
  · exact .refl

theorem closeWindow_deeds : Deeds s (closeWindow b s) := by
  unfold closeWindow
  split
  · exact ((((dropWindow_deeds b s).trans (takeResult_deeds b _ _)).trans (emitBay_deeds b _ _ _)).trans
      (grantTest_deeds _)).trans (.ite (fun _ => earlyEnd_deeds b _) fun _ => advance_deeds b _)
  · exact .refl

theorem oaeFrame_deeds : Deeds s (oaeFrame b s) :=
  (windowFrame_deeds b s).trans (.ite (fun _ => closeWindow_deeds b _) fun _ => .refl)

end

/-! ### Speed Units -/

theorem Spu.resync_bounded {p : Spu} (h : p.bounded) : p.resync.bounded :=
  ⟨by simp [Spu.resync, emptyRing], h.2.1, h.2.2.1, h.2.2.2⟩

theorem Spu.ringUpdate_bounded (n : BitVec 16) (e : Option TachoEntry) {p : Spu} (h : p.bounded) : (p.ringUpdate n e).bounded := by
  obtain ⟨hring, hspeed, hquiet, hsteady⟩ := h
  have hlen (d : Nat) : ((e :: if d = 0 then p.ring.drop 1 else List.replicate (min (d - 1) 63) none ++ p.ring).take 64).length
      = 64 := by
    rw [List.length_take, List.length_cons]
    split
    · rw [List.length_drop, hring]; rfl
    · rw [List.length_append, hring]; omega
  exact ⟨hlen _, hspeed, hquiet, hsteady⟩

theorem Spu.edgeSeen_bounded (e : Option TachoEntry) {p : Spu} (h : p.bounded) : (p.edgeSeen e).bounded := by
  unfold Spu.edgeSeen
  split
  · split
    · exact ⟨h.1, h.2.1, Nat.zero_le _, h.2.2.2⟩
    · exact h
  · exact h

theorem gateSpeed_le {ppr v : Nat} {edges : List (Nat × TachoEntry)} (h : gateSpeed ppr edges = some v) : v ≤ 65535 := by
  unfold gateSpeed at h
  split at h
  · split at h
    · dsimp only at h
      split at h
      · cases h
      · cases h; exact min_le_left _ _
    · cases h
  · cases h

theorem Spu.setSpeed_bounded (q : SpuParams) {p : Spu} (h : p.bounded) : (p.setSpeed q).bounded := by
  unfold Spu.setSpeed
  split
  · next hv => exact ⟨h.1, gateSpeed_le hv, h.2.2.1, h.2.2.2⟩
  · exact h

theorem Spu.setDirection_bounded {p : Spu} (h : p.bounded) : p.setDirection.bounded := by
  unfold Spu.setDirection
  split
  · exact h
  · exact h

theorem Spu.countSteady_bounded (q : SpuParams) (run : Bool) (cmd : Nat) {p : Spu} (h : p.bounded) :
    (p.countSteady q run cmd).bounded := by
  unfold Spu.countSteady
  split
  · exact ⟨h.1, h.2.1, h.2.2.1, min_le_left _ _⟩
  · exact ⟨h.1, h.2.1, h.2.2.1, Nat.zero_le _⟩

/-- A frame keeps the ranges of R75. -/
theorem Spu.frame_bounded (n : BitVec 16) (e : Option TachoEntry) (run : Bool) (cmd : Nat) {p : Spu} (h : p.bounded) :
    (p.frame n e run cmd).bounded := by
  unfold Spu.frame
  split
  · exact countSteady_bounded _ _ _ (setDirection_bounded (setSpeed_bounded _ (edgeSeen_bounded _ (ringUpdate_bounded _ _ h))))
  · exact h

/-- A tick keeps the ranges of R75. -/
theorem Spu.tick_bounded {p : Spu} (h : p.bounded) : p.tick.bounded := by
  unfold Spu.tick
  split
  · dsimp only
    split
    · exact ⟨by simp [emptyRing], Nat.zero_le _, min_le_left _ _, h.2.2.2⟩
    · exact ⟨h.1, h.2.1, min_le_left _ _, h.2.2.2⟩
  · exact h

theorem Spu.reset_bounded : Spu.reset.bounded := by simp [Spu.bounded, Spu.reset]

theorem spuFrame_deeds (n : BitVec 16) (b : Bay) (s : State) : Deeds s (spuFrame n b s) :=
  updSpu_deeds b s _ fun _ => Spu.frame_bounded n _ _ _

theorem resyncSpus_deeds (s : State) : Deeds s (resyncSpus s) :=
  .foldl _ (fun t b => updSpu_deeds b t _ fun p h => by split; exacts [Spu.resync_bounded h, h]) _ s

/-! ### Frames, missing frames and ticks -/

theorem frameTask_deeds (s0 : State) (x : FrameTask) (s : State) : Deeds s (frameTask s0 x s) := by
  obtain ⟨b, u⟩ := x
  cases u with
  | enter => exact enterTest_deeds b s
  | fixture => exact fixtureTest_deeds b s s0
  | stale => exact staleTest_deeds b s s0
  | ris => exact .ite (fun _ => .refl) fun _ => risFrame_deeds b s _
  | ltu => exact .ite (fun _ => .refl) fun _ => ltuFrame_deeds b s
  | oae => exact .ite (fun _ => oaeFrame_deeds b s) fun _ => .refl

theorem frameTasks_deeds (s0 : State) (l : List FrameTask) (s : State) : Deeds s (frameTasks s0 l s) :=
  .foldl _ (fun t x => frameTask_deeds s0 x t) l s

theorem missingTask_deeds (x : FrameTask) (s : State) : Deeds s (missingTask x s) := by
  obtain ⟨b, u⟩ := x
  cases u with
  | stale => exact staleTest_deeds b s s
  | oae => exact discardBlock_deeds b s
  | enter => exact .refl
  | fixture => exact .refl
  | ris => exact .refl
  | ltu => exact .refl

theorem deliverLink_deeds (l : List Bay) (s : State) : Deeds s (deliverLink l s) :=
  .foldl _ (fun t b => .ite (fun _ => raiseFault_deeds b t _) fun _ => .refl) _ s

theorem standstillSet_deeds (b : Bay) (s : State) : Deeds s (standstillSet b s) :=
  ((((standstillTest_deeds b s).trans (advance_deeds b _)).trans (permitStart_deeds b _)).trans
    (coolTest_deeds b _)).trans (testStopped_deeds b _)

theorem spuTick_deeds (b : Bay) (s : State) : Deeds s (spuTick b s) :=
  (updSpu_deeds b s _ fun _ => Spu.tick_bounded).trans (.ite (fun _ => standstillSet_deeds b _) fun _ => .refl)

theorem holdTick_deeds (b : Bay) (s : State) : Deeds s (holdTick b s) :=
  ((updRis_deeds b s _).trans (writeSummary_deeds b _ _)).trans (emitBay_deeds b _ _ _)

theorem driveTick_deeds (b : Bay) (s : State) : Deeds s (driveTick b s) :=
  .ite (fun _ => writeSummary_deeds b s _) fun _ => .refl

theorem risCountTick_deeds (b : Bay) (s : State) : Deeds s (risCountTick b s) :=
  ((driveTick_deeds b s).trans (.ite (fun _ => holdTick_deeds b _) fun _ => .refl)).trans
    (.ite (fun _ => raiseFault_deeds b _ _) fun _ => .refl)

theorem risPhaseEnd_deeds (b : Bay) (s : State) : Deeds s (risPhaseEnd b s) := by
  refine .ite (fun _ => raiseFault_deeds b s _) fun _ => ?_
  split
  · exact (finishStep_deeds b s).trans (advance_deeds b _)
  · exact enterSettle_deeds b s
  · exact .refl

theorem risPhaseTick_deeds (b : Bay) (s : State) : Deeds s (risPhaseTick b s) := by
  unfold risPhaseTick
  split
  · split
    · exact .ite (fun _ => .refl) fun _ => (rampTick_deeds b s _ _ _ _).trans (advance_deeds b _)
    · split
      · exact (updRis_deeds b s _).trans (.ite (fun _ => risPhaseEnd_deeds b _) fun _ => .refl)
      · exact .refl
  · exact .refl

theorem withdrawRequest_deeds (b : Bay) (s : State) : Deeds s (withdrawRequest b s) :=
  ((((setOae_deeds s _).trans (latchAlarm_deeds b _ _)).trans (emitBay_deeds b _ _ _)).trans
    (takeResult_deeds b _ _)).trans (advance_deeds b _)

theorem allocTick_deeds (l : List Bay) (s : State) : Deeds s (allocTick l s) :=
  ((setOae_deeds s _).trans (.foldl _ (fun t b => .ite (fun _ => withdrawRequest_deeds b t) fun _ => .refl) _ _)).trans
    (.ite (fun _ => grantTest_deeds _) fun _ => .refl)

theorem windowTick_deeds (b : Bay) (s : State) : Deeds s (windowTick b s) := by
  unfold windowTick
  split
  · exact .ite (fun _ => (setWindow_deeds b s _).trans (closeWindow_deeds b _)) fun _ => setWindow_deeds b s _
  · exact .refl

theorem stopTimedOut_deeds (b : Bay) (s : State) (h : (s.bay b).ctl.state = .stopping) : Deeds s (stopTimedOut b s) :=
  ((latchAlarm_deeds b s _).trans (Deed.lock b).one).trans (Deed.complete b (.inr (by simpa [State.latchAlarm] using h))).one

theorem bycTick_deeds (b : Bay) (s : State) : Deeds s (bycTick b s) := by
  unfold bycTick
  by_cases h : (s.bay b).ctl.state = .stopping
  · have hd : Deeds s (s.updCtl b fun c => { c with stoppingTime := c.stoppingTime + 1 }) :=
      updCtl_deeds b s _ fun c => ⟨c.subPhase, c.stoppingTime + 1, rfl⟩
    simp only [h, if_true]
    exact hd.trans (.ite (fun _ => stopTimedOut_deeds b _ (by simpa using h)) fun _ => .refl)
  · simp only [h, if_false, State.stopExpires]
    simp [h]
    exact .refl

theorem leakTick_deeds (b : Bay) (s : State) : Deeds s (leakTick b s) :=
  ((ltuTick_deeds b s).trans (advance_deeds b _)).trans (testStopped_deeds b _)

/-- A change of link state, channels, ports or timebase that keeps the output map and the ranges of ages and queues. -/
theorem outside_deeds {s t : State} (h : Outside s t) : Deeds s t := (Deed.outside h).one

/-- A change of link state, ports, timebase or waiting commands alone. -/
theorem outside_of_eq {s t : State} (hb : t.bays = s.bays) (ho : t.oae = s.oae) (hr : t.rbk = s.rbk) (ha : t.art = s.art)
    (hp : t.rsp = s.rsp) (hs : t.stc = s.stc) (hc : t.chx = s.chx) (hm : t.mga = s.mga)
    (hq : t.pending = s.pending) : Outside s t :=
  ⟨hb, ho, hr, ha, hp, hs, by rw [hc], by rw [hm], hq, fun h e => by unfold State.latch; rw [hc]; exact h e,
    fun h => by unfold QueuesBounded; rw [hm]; exact h⟩

theorem setLfe_deeds (s : State) (l : Lfe) : Deeds s { s with lfe := l } :=
  outside_deeds (outside_of_eq rfl rfl rfl rfl rfl rfl rfl rfl rfl)

theorem setTbs_deeds (s : State) (x : Tbs) : Deeds s { s with tbs := x } :=
  outside_deeds (outside_of_eq rfl rfl rfl rfl rfl rfl rfl rfl rfl)

theorem lfeTick_deeds (l : List Bay) (s : State) : Deeds s (lfeTick l s) := by
  have h : Deeds s (if s.lfe.link = .up then { s with lfe := s.lfe.quieter } else s) :=
    .ite (fun _ => setLfe_deeds s _) fun _ => .refl
  exact h.trans (.ite (fun _ => (setLfe_deeds _ _).trans (deliverLink_deeds l _)) fun _ => .refl)

theorem Counter.tick_value (x : Nat) {c : Counter} (h : c.value ≤ counterMax) :
    c.value ≤ (c.tick x).value ∧ (c.tick x).value ≤ counterMax := by
  have hlevel (d : Counter) : (Counter.setLevel x d).value = d.value := by unfold Counter.setLevel; split <;> rfl
  unfold Counter.tick
  rw [hlevel]
  split
  · exact ⟨Counter.le_add _ h, Counter.add_le _ _⟩
  · exact ⟨le_rfl, h⟩

theorem stcTick_deeds (s : State) : Deeds s (stcTick s) := by
  refine (Deed.count _ fun i hi => ?_).one
  simp only [Vector.get_eq_getElem, Vector.getElem_map] at hi ⊢
  split
  · exact Counter.tick_value _ hi
  · exact Counter.tick_value _ hi
  · exact ⟨le_rfl, hi⟩

theorem tickUnit_deeds (l : List Bay) (u : TickUnit) (s : State) : Deeds s (tickUnit l u s) := by
  cases u with
  | lfe => exact lfeTick_deeds l s
  | risCount b => exact risCountTick_deeds b s
  | risPhase b => exact risPhaseTick_deeds b s
  | spu b => exact spuTick_deeds b s
  | alloc => exact allocTick_deeds l s
  | window b => exact windowTick_deeds b s
  | ltu b => exact leakTick_deeds b s
  | byc b => exact bycTick_deeds b s
  | stc => exact stcTick_deeds s

theorem openTick_deeds (s : State) : Deeds s (openTick s) := .ite (fun _ => setTbs_deeds s _) fun _ => .refl

theorem wholeTick_deeds (units : List TickUnit) (bays : List Bay) (s : State) : Deeds s (wholeTick units bays s) :=
  ((openTick_deeds s).trans (.foldl _ (fun t u => tickUnit_deeds bays u t) _ _)).trans (setTbs_deeds _ _)

theorem expire_deeds (bays : List Bay) (u : TickUnit) (e : Bool) (s : State) : Deeds s (expire bays u e s) :=
  .ite (fun _ => ((openTick_deeds s).trans (tickUnit_deeds bays u _)).trans (setTbs_deeds _ _)) fun _ => .refl

/-! ### Sample and output frames -/

theorem Latch.aged_le (k : Nat) (l : Latch) : (l.aged k).age ≤ 255 := min_le_left _ _

/-- A change of the channels that keeps the output map and brings every age into its range. -/
theorem setChx_deeds (s : State) (l : Lfe) (c : Chx) (hm : c.outputMap = s.chx.outputMap)
    (ha : ∀ e : EntryIx, (c.latches.get e).age ≤ 255) : Deeds s { s with lfe := l, chx := c } :=
  outside_deeds ⟨rfl, rfl, rfl, rfl, rfl, rfl, hm, rfl, rfl, fun _ => ha, id⟩

theorem Chx.missing_ages (c : Chx) (k : Nat) (e : EntryIx) : ((c.missing k).latches.get e).age ≤ 255 := by
  simpa [Chx.missing, Vector.get_eq_getElem] using Latch.aged_le k _

theorem Chx.extract_outputMap (c : Chx) (p : Bytes) : (c.extract p).outputMap = c.outputMap := by
  simp only [Chx.extract]

theorem Chx.extract_ages (c : Chx) (p : Bytes) (e : EntryIx) : ((c.extract p).latches.get e).age ≤ 255 := by
  have h : (c.extract p).latches.get e = c.extractLatch (8 * p.length) (leNat p) e := by
    simp [Chx.extract, Vector.get_eq_getElem]
  rw [h]
  unfold Chx.extractLatch
  dsimp only
  split
  · split
    · exact Nat.zero_le _
    · exact Latch.aged_le 1 _
  · exact Latch.aged_le 1 _

theorem missingFrames_deeds (k : Nat) (l : List FrameTask) (s : State) : Deeds s (missingFrames k l s) :=
  (setChx_deeds s s.lfe (s.chx.missing k) rfl (s.chx.missing_ages k)).trans (.foldl _ (fun t x => missingTask_deeds x t) _ _)

theorem acceptFrame_deeds (f : Bytes) (l : List FrameTask) (s : State) : Deeds s (acceptFrame f l s) := by
  unfold acceptFrame
  refine .trans (.trans (setChx_deeds s { s.lfe with lastSeq := some (frameSeq f), refusedRun := 0 } _
    (s.chx.extract_outputMap (framePayload f)) (s.chx.extract_ages _)) ?_) (frameTasks_deeds _ _ _)
  exact .foldl _ (fun t b => spuFrame_deeds _ b t) _ _

theorem latchCell_deeds (a : CellAlarm) (s : State) : Deeds s (s.latchCell a) :=
  outside_deeds ⟨rfl, rfl, rfl, rfl, rfl, rfl, rfl, rfl, rfl, id, id⟩

theorem seqError_deeds (s : State) : Deeds s (seqError s) := (latchCell_deeds _ s).trans (emit_deeds _ _)

theorem takeSample_deeds (f : Bytes) (l : List FrameTask) (s : State) : Deeds s (takeSample f l s) := by
  unfold takeSample
  split
  · exact acceptFrame_deeds f l s
  · exact (missingFrames_deeds _ l s).trans (acceptFrame_deeds f l _)
  · exact ((seqError_deeds s).trans (missingFrames_deeds 1 l _)).trans (setLfe_deeds _ _)
  · exact ((seqError_deeds s).trans (resyncSpus_deeds _)).trans (acceptFrame_deeds f l _)

theorem goodFrame_deeds (x : Bool) (s : State) : Deeds s (goodFrame x s) := by
  unfold goodFrame
  split
  · exact setLfe_deeds s _
  · exact setLfe_deeds s _
  · exact .ite (fun _ => (setLfe_deeds s _).trans (resyncSpus_deeds _)) fun _ => setLfe_deeds s _

theorem sendC_deeds (f : Bytes) (s : State) : Deeds s (s.sendC f) :=
  outside_deeds (outside_of_eq rfl rfl rfl rfl rfl rfl rfl rfl rfl)

theorem sendF_deeds (f : Bytes) (s : State) : Deeds s (s.sendF f) :=
  outside_deeds (outside_of_eq rfl rfl rfl rfl rfl rfl rfl rfl rfl)

theorem openOpportunity_deeds (s : State) : Deeds s s.openOpportunity := setLfe_deeds s _

theorem forwardSample_deeds (f : Bytes) (s : State) : Deeds s (forwardSample f s) :=
  .ite (fun _ => (sendC_deeds _ s).trans (openOpportunity_deeds _)) fun _ =>
    ((latchCell_deeds _ s).trans (sendC_deeds _ _)).trans (openOpportunity_deeds _)

theorem badSample_deeds (f : Bytes) (l : List FrameTask) (s : State) : Deeds s (badSample f l s) := by
  refine ((emit_deeds s _).trans (.ite (fun _ => .refl) fun _ => ?_)).trans
    ((sendC_deeds _ _).trans (openOpportunity_deeds _))
  exact (setLfe_deeds _ _).trans (missingFrames_deeds 1 l _)

theorem sampleArrives_deeds (f : Bytes) (l : List FrameTask) (s : State) : Deeds s (sampleArrives f l s) := by
  refine .ite (fun _ => (goodFrame_deeds true s).trans (.trans ?_ (forwardSample_deeds f _))) fun _ => badSample_deeds f l s
  exact .ite (fun _ => .refl) fun _ => takeSample_deeds f l _

theorem outputShort_deeds (n : Nat) (s : State) : Deeds s (outputShort n s) :=
  .ite (fun _ => (latchCell_deeds _ s).trans (emit_deeds _ _)) fun _ => .refl

theorem outputArrives_deeds (f : Bytes) (s : State) : Deeds s (outputArrives f s) :=
  .ite (fun _ => ((goodFrame_deeds false s).trans (outputShort_deeds _ _)).trans (sendF_deeds _ _)) fun _ =>
    (emit_deeds s _).trans (sendF_deeds _ _)

/-! ### Requests, responses and frames that pass -/

theorem enqueueRequest_deeds (f : Bytes) (s : State) : Deeds s (enqueueRequest f s) := by
  refine .ite (fun h => outside_deeds ⟨rfl, rfl, rfl, rfl, rfl, rfl, rfl, rfl, rfl, id, fun hq => ⟨?_, hq.2⟩⟩) fun _ =>
    latchCell_deeds _ s
  simpa using h

theorem requestArrives_deeds (f : Bytes) (s : State) : Deeds s (requestArrives f s) := by
  unfold requestArrives
  split
  · exact .ite (fun _ => enqueueRequest_deeds f s) fun _ => emit_deeds s _
  · exact .ite (fun _ => (sendF_deeds f s).trans (enqueueRequest_deeds f _)) fun _ => emit_deeds s _
  · exact .refl
  · exact .refl
  · exact .refl

theorem frameArrives_deeds (p : Port) (f : Bytes) (s : State) : Deeds s (frameArrives p f s) := by
  refine .ite (fun _ => ?_) fun _ => .refl
  cases p with
  | f => exact sendC_deeds f s
  | c => exact sendF_deeds f s

theorem insertResponse_deeds (s : State) : Deeds s (insertResponse s) := by
  unfold insertResponse
  split
  · exact .refl
  · next r rest hr =>
    refine .ite (fun _ => outside_deeds ⟨rfl, rfl, rfl, rfl, rfl, rfl, rfl, rfl, rfl, id, fun hq => ⟨hq.1, ?_⟩⟩) fun _ => .refl
    have := hq.2
    rw [hr, List.length_cons] at this
    exact Nat.le_of_succ_le this

theorem popRequest_deeds (s : State) : Deeds s s.popRequest := by
  refine outside_deeds ⟨rfl, rfl, rfl, rfl, rfl, rfl, rfl, rfl, rfl, id, fun hq => ⟨?_, hq.2⟩⟩
  have := hq.1
  simp only [State.popRequest_requests, List.length_drop]
  omega

/-- An answer joins a response queue that holds fewer than four. -/
theorem respond_deeds (s : State) (q : MgmtRequest) (st : Status) (rs : Bytes) (h : s.mga.responses.length < 4) :
    Deeds s (s.respond q st rs) :=
  outside_deeds ⟨rfl, rfl, rfl, rfl, rfl, rfl, rfl, rfl, rfl, id, fun hq => ⟨hq.1, by simpa using h⟩⟩

theorem answered_deeds {s : State} {q : MgmtRequest} (st : Status) (rs : Bytes) (h : s.headRequest = some q) :
    Deeds s (s.answered q st rs) :=
  (popRequest_deeds s).trans (respond_deeds _ q st rs (headRequest_some h).2.1)

theorem serveRefusal_deeds (s : State) : Deeds s (serveRefusal s) := by
  unfold serveRefusal
  split
  · next q hq =>
    split
    · exact answered_deeds _ _ hq
    · exact .refl
  · exact .refl

end Sys2Proof.Machine
end

section
/-! What a management command can do to the state, and what any command can do: a chain of deeds, power-on, the reset, the
insertion of a report part, or a management command that was taken. -/

namespace Sys2Proof.Machine

/-! ### Management commands -/

/-- The row of a management command. -/
def Command.instr : Command → Instr
  | .identify => .identify | .setCellParams => .setCellParams | .readCellParams => .readCellParams
  | .loadChannelMap => .loadChannelMap | .loadOutputMap => .loadOutputMap | .readChannel => .readChannel
  | .recipePage => .recipePage | .recipeCommit => .recipeCommit | .recipeErase => .recipeErase
  | .recipeStatus => .recipeStatus | .bayStart => .bayStart | .bayAbort => .bayAbort | .bayUnload => .bayUnload
  | .bayLock => .bayLock | .bayUnlock => .bayUnlock | .ackAlarms => .ackAlarms | .readBay => .readBay
  | .readRecord => .readRecord | .releaseRecord => .releaseRecord | .counterSetup => .counterSetup
  | .counterSnapshot => .counterSnapshot | .resetPart => .resetPart

/-- What a management command makes of its arguments. -/
def Command.body : Command → Bytes → State → Reply
  | .identify => doIdentify | .setCellParams => doSetCellParams | .readCellParams => doReadCellParams
  | .loadChannelMap => doLoadChannelMap | .loadOutputMap => doLoadOutputMap | .readChannel => doReadChannel
  | .recipePage => doRecipePage | .recipeCommit => doRecipeCommit | .recipeErase => doRecipeErase
  | .recipeStatus => doRecipeStatus | .bayStart => doBayStart | .bayAbort => doBayAbort | .bayUnload => doBayUnload
  | .bayLock => doBayLock | .bayUnlock => doBayUnlock | .ackAlarms => doAckAlarms | .readBay => doReadBay
  | .readRecord => doReadRecord | .releaseRecord => doReleaseRecord | .counterSetup => doCounterSetup
  | .counterSnapshot => doCounterSnapshot | .resetPart => doResetPart

theorem exec_instr (c : Command) (s : State) : exec c.instr s = .next (serve c c.body s) := by
  cases c <;> rfl

/-- The change a management command makes when its checks pass, with what the checks have found. -/
inductive Served (s : State) : Command → State → Prop where
  | unchanged (c : Command) : Served s c s
  | params (p : CellParams) : Served s .setCellParams { s with mga := { s.mga with params := p } }
  | resetTaken : Served s .resetPart { s with mga := { s.mga with resetTaken := true } }
  | channelMap (l : List (EntryIx × MapItem)) (n : BitVec 4) :
      Served s .loadChannelMap { s with chx := { l.foldl Chx.takeItem s.chx with partitions := n } }
  | outputMap (args : Bytes) (h : placesOk args = true) :
      Served s .loadOutputMap { s with chx := { s.chx with outputMap := placesOf args } }
  | slot (c : Command) (k : SlotIx) (x : Slot) (hx : x.pins = (s.slot k).pins)
      (hk : (s.slot k).pins = 0 ∨ (s.slot k).state = .loading) : Served s c (s.setSlot k x)
  | start (b : Bay) (k : SlotIx) (r : Recipe) (serial : Bytes) (i : RecIx) (roles : List (Role × EntryIx))
      (hb : (s.bay b).ctl.state = .vacant) (hk : s.validRecipe k = some r) (hi : s.freeRecord = some i) :
      Served s .bayStart (openTest b k r serial i roles s)
  | abortReady (b : Bay) (h : (s.bay b).ctl.state = .ready) : Served s .bayAbort (enterComplete b (setCause b .operator s))
  | abortRunning (b : Bay) (h : (s.bay b).ctl.state = .running) : Served s .bayAbort (abortBay b .operator s)
  | unload (b : Bay) (h : (s.bay b).ctl.state = .complete) : Served s .bayUnload (unloadBay b s)
  | lock (b : Bay) : Served s .bayLock (s.updCtl b BayCtl.lock)
  | unlock (b : Bay) (h : (s.bay b).ctl.state = .locked) : Served s .bayUnlock (s.updCtl b BayCtl.unlock)
  | ackBay (b : Bay) (mask : Nat) : Served s .ackAlarms (s.updCtl b (ackBay mask))
  | ackCell (mask : Nat) : Served s .ackAlarms (ackCell mask s)
  | release (i : RecIx) (r : AxleRecord) (hi : s.art.get i = some r) (hr : r.state = .sent) :
      Served s .releaseRecord { s with art := s.art.set i none }
  | counter (i : Fin 8) (c : Counter) (h : c.value = 0) :
      Served s .counterSetup { s with stc := { s.stc with counters := s.stc.counters.set i c } }
  | snapshot (clear : Bool) : Served s .counterSnapshot { s with stc := s.stc.takeSnapshot s.tbs.cellTime clear }

@[simp] theorem Reply.ok_state (s : State) (rs : Bytes) : (Reply.ok s rs).state = s := rfl
@[simp] theorem Reply.ok_status (s : State) (rs : Bytes) : (Reply.ok s rs).status = .ok := rfl
@[simp] theorem Reply.ok_results (s : State) (rs : Bytes) : (Reply.ok s rs).results = rs := rfl

section
variable (args : Bytes) (s : State)

theorem doSetCellParams_served : Served s .setCellParams (doSetCellParams args s).state := by
  unfold doSetCellParams
  dsimp only
  split
  · exact .unchanged _
  · split
    · exact .unchanged _
    · exact .params _

theorem doLoadChannelMap_served : Served s .loadChannelMap (doLoadChannelMap args s).state := by
  unfold doLoadChannelMap
  dsimp only
  split
  · exact .unchanged _
  · split
    · exact .unchanged _
    · exact .channelMap _ _

theorem doLoadOutputMap_served : Served s .loadOutputMap (doLoadOutputMap args s).state := by
  unfold doLoadOutputMap
  split
  · exact .unchanged _
  · split
    · next h => exact .outputMap args h
    · exact .unchanged _

theorem doReadChannel_served : Served s .readChannel (doReadChannel args s).state := by
  unfold doReadChannel
  split <;> exact .unchanged _

theorem Slot.openLoad_pins (n : Nat) (k : Slot) : (k.openLoad n).pins = k.pins := by
  unfold Slot.openLoad
  split <;> rfl

theorem Slot.commit_pins (k : Slot) : k.commit.pins = k.pins := by
  unfold Slot.commit
  split <;> rfl

theorem doRecipePage_served : Served s .recipePage (doRecipePage args s).state := by
  unfold doRecipePage
  split
  · exact .unchanged _
  · next k _ =>
    dsimp only
    split
    · exact .unchanged _
    · split
      · exact .unchanged _
      · split
        · exact .unchanged _
        · next hp =>
          split
          · exact .unchanged _
          · exact .slot _ k _ (Slot.openLoad_pins _ _) (.inl (Nat.eq_zero_of_not_pos hp))

theorem doRecipeCommit_served : Served s .recipeCommit (doRecipeCommit args s).state := by
  unfold doRecipeCommit
  split
  · exact .unchanged _
  · next k _ =>
    dsimp only
    split
    · exact .unchanged _
    · next hl =>
      split
      · exact .slot _ k _ (Slot.commit_pins _) (.inr (not_not.mp hl))
      · exact .unchanged _

theorem doRecipeErase_served : Served s .recipeErase (doRecipeErase args s).state := by
  unfold doRecipeErase
  split
  · exact .unchanged _
  · next k _ =>
    split
    · exact .unchanged _
    · next hp =>
      have h0 := Nat.eq_zero_of_not_pos hp
      exact .slot _ k _ h0.symm (.inl h0)

theorem doRecipeStatus_served : Served s .recipeStatus (doRecipeStatus args s).state := by
  unfold doRecipeStatus
  split <;> exact .unchanged _

theorem startBay_served (b : Bay) (k : SlotIx) (serial : Bytes) : Served s .bayStart (startBay b k serial s).state := by
  unfold startBay
  split
  · exact .unchanged _
  split
  · exact .unchanged _
  next hb =>
  split
  · exact .unchanged _
  split
  · exact .unchanged _
  next r hr =>
  split
  · exact .unchanged _
  split
  · exact .unchanged _
  next i hi =>
  split
  · exact .unchanged _
  · exact .start b k r serial i _ (not_not.mp hb) hr hi

theorem doBayStart_served : Served s .bayStart (doBayStart args s).state := by
  unfold doBayStart
  split
  · exact startBay_served s _ _ _
  · exact .unchanged _

/-- A command that carries a bay serves when it serves every bay. -/
theorem withBay_served {c : Command} {f : Bay → Reply} (h : ∀ b, Served s c (f b).state) :
    Served s c (withBay args s f).state := by
  unfold withBay
  split
  · exact h _
  · exact .unchanged _

theorem abortRequest_served (b : Bay) : Served s .bayAbort (abortRequest b s).state := by
  unfold abortRequest
  split
  · next h => rw [Reply.ok_state]; exact .abortReady b h
  · next h => rw [Reply.ok_state]; exact .abortRunning b h
  all_goals exact .unchanged _

theorem unloadRequest_served (b : Bay) : Served s .bayUnload (unloadRequest b s).state := by
  unfold unloadRequest
  split
  · next h => exact .unload b h
  all_goals exact .unchanged _

theorem unlockRequest_served (b : Bay) : Served s .bayUnlock (unlockRequest b s).state := by
  unfold unlockRequest
  split
  · next h => exact .unlock b h
  · exact .unchanged _

theorem doAckAlarms_served : Served s .ackAlarms (doAckAlarms args s).state := by
  unfold doAckAlarms
  dsimp only
  split
  · split
    · exact .ackCell _
    · exact .unchanged _
  · split
    · split
      · exact .ackBay _ _
      · exact .unchanged _
    · exact .unchanged _

theorem doReadRecord_served : Served s .readRecord (doReadRecord args s).state := by
  unfold doReadRecord
  split
  · exact .unchanged _
  · split
    · exact .unchanged _
    · dsimp only
      split <;> exact .unchanged _

theorem doReleaseRecord_served : Served s .releaseRecord (doReleaseRecord args s).state := by
  unfold doReleaseRecord
  split
  · split
    · exact .unchanged _
    · next r hr =>
      split
      · exact .unchanged _
      · split
        · exact .unchanged _
        · next hs => exact .release _ r hr (not_not.mp hs)
  · exact .unchanged _

theorem setupCounter_value {i : Nat} {c : Counter} (h : setupCounter i args = some c) : c.value = 0 := by
  unfold setupCounter at h
  split at h
  · split at h
    · cases h; rfl
    · cases h
  · cases h

theorem doCounterSetup_served : Served s .counterSetup (doCounterSetup args s).state := by
  unfold doCounterSetup
  split
  · exact .unchanged _
  · split
    · exact .unchanged _
    · next h => exact .counter _ _ (setupCounter_value args h)

theorem doCounterSnapshot_served : Served s .counterSnapshot (doCounterSnapshot args s).state := by
  unfold doCounterSnapshot
  split
  · exact .unchanged _
  · exact .snapshot _

/-- Every management command makes one of the listed changes. -/
theorem body_served (c : Command) : Served s c (c.body args s).state := by
  cases c with
  | identify => exact .unchanged _
  | setCellParams => exact doSetCellParams_served args s
  | readCellParams => exact .unchanged _
  | loadChannelMap => exact doLoadChannelMap_served args s
  | loadOutputMap => exact doLoadOutputMap_served args s
  | readChannel => exact doReadChannel_served args s
  | recipePage => exact doRecipePage_served args s
  | recipeCommit => exact doRecipeCommit_served args s
  | recipeErase => exact doRecipeErase_served args s
  | recipeStatus => exact doRecipeStatus_served args s
  | bayStart => exact doBayStart_served args s
  | bayAbort => exact withBay_served args s fun b => abortRequest_served s b
  | bayUnload => exact withBay_served args s fun b => unloadRequest_served s b
  | bayLock => exact withBay_served args s fun b => .lock b
  | bayUnlock => exact withBay_served args s fun b => unlockRequest_served s b
  | ackAlarms => exact doAckAlarms_served args s
  | readBay => exact withBay_served args s fun _ => .unchanged _
  | readRecord => exact doReadRecord_served args s
  | releaseRecord => exact doReleaseRecord_served args s
  | counterSetup => exact doCounterSetup_served args s
  | counterSnapshot => exact doCounterSnapshot_served args s
  | resetPart => exact .resetTaken

end

/-! ### Every command -/

/-- What a command makes of the state. -/
inductive Outcome (s : State) : Instr → State → Prop where
  | deeds (c : Instr) {t : State} (h : Deeds s t) : Outcome s c t
  | powerOn (strap : BitVec 6) : Outcome s (.powerOn strap) (powerOn strap s)
  | reset : Outcome s .resetApply s.resetPart
  | report : Outcome s .reportPartInsert (insertReportPart s)
  | served (c : Command) {q : MgmtRequest} {t : State} (st : Status) (rs : Bytes) (hq : s.headRequest = some q)
      (h : Served s.popRequest c t) : Outcome s c.instr (t.respond q st rs)

theorem serve_outcome (c : Command) (s : State) : Outcome s c.instr (serve c c.body s) := by
  obtain h | ⟨q, hq, h⟩ | ⟨q, hq, h⟩ := serve_cases c c.body s
  · rw [h]; exact .deeds _ .refl
  · rw [h]; exact .deeds _ (answered_deeds _ _ hq)
  · rw [h]; exact .served c _ _ hq.1 (body_served _ _ c)

/-- Every command has a next state, of one of the listed kinds. -/
theorem exec_outcome (c : Instr) (s : State) : ∃ t, exec c s = .next t ∧ Outcome s c t := by
  have hserve (m : Command) : ∃ t, exec m.instr s = .next t ∧ Outcome s m.instr t :=
    ⟨_, exec_instr m s, serve_outcome m s⟩
  have hexpire (i : Instr) (bays : List Bay) (u : TickUnit) (e : Bool) (hi : exec i s = .next (expire bays u e s)) :
      ∃ t, exec i s = .next t ∧ Outcome s i t := ⟨_, hi, .deeds _ (expire_deeds bays u e s)⟩
  cases c with
  | powerOn strap => exact ⟨_, rfl, .powerOn strap⟩
  | msTick units bays => exact ⟨_, rfl, .deeds _ (wholeTick_deeds units bays s)⟩
  | sampleFrame f l => exact ⟨_, rfl, .deeds _ (.ite (fun _ => sampleArrives_deeds f l s) fun _ => .refl)⟩
  | outputFrame f => exact ⟨_, rfl, .deeds _ (.ite (fun _ => outputArrives_deeds f s) fun _ => .refl)⟩
  | mgmtReqReceive f => exact ⟨_, rfl, .deeds _ (requestArrives_deeds f s)⟩
  | framePassThrough p f => exact ⟨_, rfl, .deeds _ (frameArrives_deeds p f s)⟩
  | responseInsert => exact ⟨_, rfl, .deeds _ (insertResponse_deeds s)⟩
  | reportPartInsert => exact ⟨_, rfl, .report⟩
  | resetApply =>
    refine ⟨_, rfl, ?_⟩
    unfold applyReset
    split
    · exact .reset
    · exact .deeds _ .refl
  | unknownCommand => exact ⟨_, rfl, .deeds _ (serveRefusal_deeds s)⟩
  | identify => exact hserve .identify
  | setCellParams => exact hserve .setCellParams
  | readCellParams => exact hserve .readCellParams
  | loadChannelMap => exact hserve .loadChannelMap
  | loadOutputMap => exact hserve .loadOutputMap
  | readChannel => exact hserve .readChannel
  | recipePage => exact hserve .recipePage
  | recipeCommit => exact hserve .recipeCommit
  | recipeErase => exact hserve .recipeErase
  | recipeStatus => exact hserve .recipeStatus
  | bayStart => exact hserve .bayStart
  | bayAbort => exact hserve .bayAbort
  | bayUnload => exact hserve .bayUnload
  | bayLock => exact hserve .bayLock
  | bayUnlock => exact hserve .bayUnlock
  | ackAlarms => exact hserve .ackAlarms
  | readBay => exact hserve .readBay
  | readRecord => exact hserve .readRecord
  | releaseRecord => exact hserve .releaseRecord
  | counterSetup => exact hserve .counterSetup
  | counterSnapshot => exact hserve .counterSnapshot
  | resetPart => exact hserve .resetPart
  | standstillJudged b => exact hexpire _ _ _ _ rfl
  | stopTimeout b => exact hexpire _ _ _ _ rfl
  | linkLoss bays => exact hexpire _ _ _ _ rfl
  | settleTimeout b => exact hexpire _ _ _ _ rfl
  | dwellEnd b => exact hexpire _ _ _ _ rfl
  | rerunEnd b => exact hexpire _ _ _ _ rfl
  | maxHoldTime b => exact hexpire _ _ _ _ rfl
  | laneWaitLimit bays => exact hexpire _ _ _ _ rfl
  | windowLimit b => exact hexpire _ _ _ _ rfl
  | coolWaitLimit b => exact hexpire _ _ _ _ rfl
  | fillTimeout b => exact hexpire _ _ _ _ rfl
  | leakSettleEnd b => exact hexpire _ _ _ _ rfl
  | leakMeasureEnd b => exact hexpire _ _ _ _ rfl
  | ventEnd b => exact hexpire _ _ _ _ rfl

theorem exec_next {c : Instr} {s t : State} (h : exec c s = .next t) : Outcome s c t := by
  obtain ⟨u, hu, ho⟩ := exec_outcome c s
  rw [hu] at h
  cases h
  exact ho

/-- A step takes no command or the outcome of the command at the front, on the state with the rest of the queue. -/
theorem step_next {s t : State} (h : step s = .next t) :
    t = s ∨ ∃ c rest, s.pending = c :: rest ∧ Outcome { s with pending := rest } c t := by
  unfold step at h
  split at h
  · cases h; exact .inl rfl
  · next c rest hp => exact .inr ⟨c, rest, hp, exec_next h⟩

end Sys2Proof.Machine
end

section
/-! What grants, a release and an entry to COMPLETE make of bays and records. -/

namespace Sys2Proof.Machine

/-! ### Writes into records -/

@[simp] theorem State.writeBound_bays (s : State) (b : Bay) (f : AxleRecord → AxleRecord) : (s.writeBound b f).bays = s.bays := by
  unfold State.writeBound
  repeat' split
  all_goals rfl

@[simp] theorem State.writeBound_bay (s : State) (b c : Bay) (f : AxleRecord → AxleRecord) :
    (s.writeBound b f).bay c = s.bay c := s.bay_eq_of_bays (s.writeBound_bays b f) c

/-- A write into the bound record leaves every other record, and a record that is not OPEN, as it is. -/
theorem State.writeBound_art (s : State) (b : Bay) (f : AxleRecord → AxleRecord) (i : RecIx) :
    (s.writeBound b f).art.get i = s.art.get i ∨
      ∃ r, s.bindsOpen b i r ∧ (s.writeBound b f).art.get i = some (f r) := by
  unfold State.writeBound
  split
  · exact .inl rfl
  next j hj =>
  split
  next r hr =>
    split
    · next ho =>
      simp only [Vector.get_eq_getElem, Vector.getElem_set]
      split
      · next he => exact .inr ⟨r, by rw [← Fin.ext he]; exact ⟨hj, hr, ho⟩, rfl⟩
      · exact .inl rfl
    · exact .inl rfl
  · exact .inl rfl

/-! ### Grants -/

/-- Records, slots and spooler are the same. -/
structure SameBooks (s t : State) : Prop where
  art : t.art = s.art
  rbk : t.rbk = s.rbk
  rsp : t.rsp = s.rsp

theorem SameBooks.refl (s : State) : SameBooks s s := ⟨rfl, rfl, rfl⟩

theorem SameBooks.trans {s t u : State} (h : SameBooks s t) (g : SameBooks t u) : SameBooks s u :=
  ⟨g.art.trans h.art, g.rbk.trans h.rbk, g.rsp.trans h.rsp⟩

theorem grantOne_books (q : LaneRequest) (s : State) : SameBooks s (grantOne q s) := by
  unfold grantOne
  split
  · exact ⟨rfl, rfl, rfl⟩
  · exact .refl s

theorem grantLoop_books (l : List LaneRequest) (s : State) : SameBooks s (grantLoop l s) := by
  induction l generalizing s with
  | nil => exact ⟨rfl, rfl, rfl⟩
  | cons q rest ih =>
    unfold grantLoop
    split
    · exact (grantOne_books q s).trans (ih _)
    · exact ⟨rfl, rfl, rfl⟩

/-- A grant touches the bay of its request alone. -/
theorem grantOne_bay {q : LaneRequest} {b : Bay} (h : q.bay ≠ b) (s : State) : (grantOne q s).bay b = s.bay b := by
  unfold grantOne
  split
  · rw [State.emitBay_bay, State.updRis_ne _ h, State.setWindow_ne _ h]; rfl
  · rfl

/-- Grants touch the bays of the queue alone. -/
theorem grantLoop_bay {l : List LaneRequest} {b : Bay} (h : ∀ q ∈ l, q.bay ≠ b) (s : State) :
    (grantLoop l s).bay b = s.bay b := by
  induction l generalizing s with
  | nil => rfl
  | cons q rest ih =>
    unfold grantLoop
    split
    · rw [ih fun x hx => h x (List.mem_cons_of_mem q hx), grantOne_bay (h q List.mem_cons_self)]
    · rfl

/-! ### Release -/

theorem dropWindow_bay (b c : Bay) (s : State) :
    (dropWindow b s).bay c = if b = c then { s.bay b with window := none } else s.bay c := by
  unfold dropWindow State.setWindow
  rw [State.bay_updBay]
  rfl

theorem releaseBay_books (b : Bay) (s : State) : SameBooks s (releaseBay b s) := by
  have hdrop (t : State) : SameBooks t (dropWindow b t) := ⟨rfl, rfl, rfl⟩
  have hemit (t : State) : SameBooks t (t.emitBay .noiseAttempt b (some .nomeas)) := ⟨rfl, rfl, rfl⟩
  have hgrant (t : State) : SameBooks t t.grantTest := grantLoop_books _ t
  have hq : SameBooks s { s with oae := { s.oae with queue := s.oae.queue.filter fun q => q.bay != b } } := ⟨rfl, rfl, rfl⟩
  have hite {c : Prop} [Decidable c] {t u : State} (h : SameBooks t u) : SameBooks t (if c then u else t) := by
    split
    · exact h
    · exact .refl t
  exact ((hq.trans (hite (hdrop _))).trans (hite (hemit _))).trans (hite (hgrant _))

/-- A released bay is as it was, without a window. -/
theorem releaseBay_bay (b : Bay) (s : State) : (releaseBay b s).bay b = { s.bay b with window := none } := by
  unfold releaseBay
  dsimp only
  have hq : ∀ q ∈ s.oae.queue.filter fun q => q.bay != b, q.bay ≠ b := fun q hq => by simpa using (List.mem_filter.mp hq).2
  generalize hs1 : ({ s with oae := { s.oae with queue := s.oae.queue.filter fun q => q.bay != b } } : State) = s1
  have hq1 : ∀ q ∈ s1.oae.queue, q.bay ≠ b := by rw [← hs1]; exact hq
  have hb1 : s1.bay b = s.bay b := by rw [← hs1]; rfl
  generalize hs2 : (if ((s.bay b).window.isSome || s.holdsLanes b) = true then dropWindow b s1 else s1) = s2
  have hq2 : ∀ q ∈ s2.oae.queue, q.bay ≠ b := by rw [← hs2]; split <;> exact hq1
  have hb2 : s2.bay b = { s.bay b with window := none } := by
    rw [← hs2]
    split
    · rw [dropWindow_bay, if_pos rfl, hb1]
    · next hw =>
      have hn : (s.bay b).window = none := by
        simp only [Bool.or_eq_true, not_or, Bool.not_eq_true, Option.isSome_eq_false_iff, Option.isNone_iff_eq_none] at hw
        exact hw.1
      rw [hb1, ← hn]
  generalize hs3 : (if (s.hasRequest b || ((s.bay b).window.isSome || s.holdsLanes b)) = true
    then s2.emitBay .noiseAttempt b (some .nomeas) else s2) = s3
  have hq3 : ∀ q ∈ s3.oae.queue, q.bay ≠ b := by rw [← hs3]; split <;> exact hq2
  have hb3 : s3.bay b = s2.bay b := by rw [← hs3]; split <;> rfl
  split
  · exact (grantLoop_bay hq3 s3).trans (hb3.trans hb2)
  · exact hb3.trans hb2

/-- A release changes no controller, Speed Unit or Leak Test Unit of any bay. -/
theorem releaseBay_same (b c : Bay) (s : State) : ((releaseBay b s).bay c).same (s.bay c) :=
  (releaseBay_work (B := fun _ => False) b s).other c id

/-! ### Entry to COMPLETE -/

/-- The verdict that finalization gives the bay's bound record, if it is OPEN. -/
def State.verdictAt (s : State) (b : Bay) : Option Verdict := (s.openRecord b).map fun x => (finalize x.1 x.2 s).2

/-- The controller after a verdict (R17). -/
def BayCtl.judged (limit : Nat) (v : Option Verdict) (c : BayCtl) : BayCtl :=
  match v with
  | some v => c.qualityStop limit v
  | none => c

/-- The controller of a bay that is COMPLETE (R16, R17). -/
def BayCtl.completed (limit : Nat) (v : Option Verdict) (c : BayCtl) : BayCtl :=
  { (c.unbind.judged limit v) with state := .complete, subPhase := none }

/-- The state with the bay's bound record finalized, if it is OPEN (R34). -/
def State.finalizedAt (s : State) (b : Bay) : State :=
  match s.openRecord b with
  | some (i, r) => (finalize i r s).1
  | none => s

theorem enterComplete_eq (b : Bay) (s : State) :
    enterComplete b s =
      ((releaseBay b ((s.finalizedAt b).updCtl b BayCtl.unbind)).updCtl b
        (BayCtl.judged s.mga.params.qualityStopLimit (s.verdictAt b))).updBay b BayUnit.complete := by
  have hp (t : State) : (releaseBay b t).mga = t.mga := (releaseBay_work (B := anyBay) b t).mga
  unfold enterComplete State.finalizedAt State.verdictAt
  cases h : s.openRecord b with
  | none => simp only [State.updCtl, Option.map_none, State.updBay_updBay]; rfl
  | some x =>
    obtain ⟨i, r⟩ := x
    have hm : (finalize i r s).1.mga = s.mga := rfl
    simp only [Option.map_some, hp, State.updCtl_mga, hm]
    rfl

theorem finalize_bays (i : RecIx) (r : AxleRecord) (s : State) : (finalize i r s).1.bays = s.bays := rfl

theorem State.finalizedAt_bay (s : State) (b c : Bay) : (s.finalizedAt b).bay c = s.bay c := by
  unfold State.finalizedAt
  split
  · exact s.bay_eq_of_bays (finalize_bays _ _ s) c
  · rfl

/-- The whole of a bay that has entered COMPLETE (R16). -/
theorem enterComplete_bay (b : Bay) (s : State) :
    (enterComplete b s).bay b =
      { ctl := (s.bay b).ctl.completed s.mga.params.qualityStopLimit (s.verdictAt b), spu := (s.bay b).spu, ris := .reset,
        ltu := .reset, window := none } := by
  rw [enterComplete_eq, State.bay_updBay_same, State.updCtl, State.bay_updBay_same, releaseBay_bay, State.updCtl,
    State.bay_updBay_same, State.finalizedAt_bay]
  rfl

theorem enterComplete_books (b : Bay) (s : State) : SameBooks (s.finalizedAt b) (enterComplete b s) := by
  rw [enterComplete_eq]
  obtain ⟨ha, hr, hp⟩ := releaseBay_books b ((s.finalizedAt b).updCtl b BayCtl.unbind)
  exact ⟨ha, hr, hp⟩

theorem openRecord_eq_some {s : State} {b : Bay} {i : RecIx} {r : AxleRecord} :
    s.openRecord b = some (i, r) ↔ s.bindsOpen b i r := by
  unfold State.openRecord State.bindsOpen
  constructor
  · intro h
    split at h
    · cases h
    next j hj =>
    split at h
    · next x hx =>
      split at h
      · next ho => cases h; exact ⟨hj, hx, ho⟩
      · cases h
    · cases h
  · rintro ⟨h1, h2, h3⟩
    simp [h1, h2, h3]

/-- The bound record of a bay that enters COMPLETE is finalized, and every other record is as it was (R34). -/
theorem enterComplete_art {b : Bay} {s : State} {i : RecIx} {r : AxleRecord} (h : s.bindsOpen b i r) :
    ∃ v, (enterComplete b s).art = s.art.set i (some (finalized s.tbs.cellTime v r)) := by
  rw [(enterComplete_books b s).art, State.finalizedAt, openRecord_eq_some.mpr h]
  exact ⟨_, rfl⟩

end Sys2Proof.Machine
end

section
/-! Rules over all commands: the queue of commands is left alone (O2), alarms stay latched (O10), the first cause is kept
(O14), the ranges hold (O5), and bays and OPEN records correspond (O7). -/

namespace Sys2Proof.Machine

/-! ### What a deed leaves alone -/

/-- A deed is work of the bays' units, or lies outside them. -/
theorem Deed.work {s t : State} (h : Deed s t) : BayWork anyBay s t ∨ Outside s t := by
  cases h with
  | ris b f => exact .inl (updRis_work b s f)
  | ltu b f => exact .inl (updLtu_work b s f).any
  | spu b f h => exact .inl (updSpu_work b s f).any
  | window b w => exact .inl (setWindow_work b s w)
  | lanes o => exact .inl (setOae_work s o)
  | count cs h => exact .inl ⟨rfl, rfl, rfl, rfl, rfl, rfl, rfl, rfl, rfl, fun _ => rfl, fun _ _ => ⟨rfl, rfl, rfl⟩⟩
  | record b f h => exact .inl (writeBound_work b s f)
  | alarm b a => exact .inl (latchAlarm_work b s a).any
  | ctl b f h => exact .inl (updCtl_work b s f).any
  | lock b => exact .inl (updCtl_work b s _).any
  | run b h => exact .inl (updCtl_work b s _).any
  | cause b c h => exact .inl (setCause_work b s c).any
  | stop b h => exact .inl (updCtl_work b s _).any
  | complete b h => exact .inl (enterComplete_work b s).any
  | outside h => exact .inr h

theorem Deeds.pending {s t : State} (h : Deeds s t) : t.pending = s.pending := by
  refine h.keeps (P := fun s t => t.pending = s.pending) (fun _ => rfl) (fun h g => g.trans h) fun h => ?_
  obtain hw | ho := h.work
  · exact hw.pending
  · exact ho.pending

theorem Served.pending {s t : State} {c : Command} (h : Served s c t) : t.pending = s.pending := by
  cases h with
  | abortReady b h => exact ((setCause_work b s .operator).trans (enterComplete_work b _)).pending
  | abortRunning b h => exact (abortBay_work b s .operator).pending
  | _ => rfl

theorem insertReportPart_pending (s : State) : (insertReportPart s).pending = s.pending := by
  unfold insertReportPart
  split
  · rfl
  split
  · rfl
  split
  · dsimp only
    split <;> rfl
  · rfl

theorem Outcome.pending {s t : State} {c : Instr} (h : Outcome s c t) : t.pending = s.pending := by
  cases h with
  | deeds _ h => exact h.pending
  | powerOn strap => rfl
  | reset => rfl
  | report => exact insertReportPart_pending s
  | served m st rs hq h => exact h.pending

/-- Settles O2: every command's outcome is a chain of deeds, power-on, a reset, a report part or a request taken. -/
theorem everyCommandCompletes : Obligations.EveryCommandCompletes := by
  intro c s
  obtain ⟨t, ht, ho⟩ := exec_outcome c s
  exact ⟨t, ht, ho.pending⟩

/-! ### What a deed does to a bay's controller -/

/-- The changes of a controller by deeds. -/
inductive CtlDeed (c : BayCtl) : BayCtl → Prop where
  | same : CtlDeed c c
  | alarm (a : BayAlarm) : CtlDeed c { c with alarms := withAlarm c.alarms a }
  | soft {d : BayCtl} (h : c.softly d) : CtlDeed c d
  | lock : CtlDeed c { c with lockPending := true }
  | run (h : c.state = .ready) : CtlDeed c { c with state := .running }
  | cause (k : Cause) (h : c.state = .ready ∨ c.state = .running) : CtlDeed c { c with cause := some k }
  | stop (h : c.state = .running) : CtlDeed c c.stop
  | complete (limit : Nat) (v : Option Verdict) (h : c.state = .ready ∨ c.state = .stopping) : CtlDeed c (c.completed limit v)

/-- An update of one controller is a controller deed of every bay when it is one of the bay written. -/
theorem CtlDeed.of_updCtl {s : State} {a : Bay} {f : BayCtl → BayCtl} (h : CtlDeed (s.bay a).ctl (f (s.bay a).ctl)) (b : Bay) :
    CtlDeed (s.bay b).ctl ((s.updCtl a f).bay b).ctl := by
  by_cases hab : a = b
  · subst hab; simpa using h
  · rw [State.updCtl_ne _ hab]; exact .same

theorem CtlDeed.of_eq {c d : BayCtl} (h : d = c) : CtlDeed c d := h ▸ .same

theorem Deed.ctlDeed {s t : State} (h : Deed s t) (b : Bay) : CtlDeed (s.bay b).ctl (t.bay b).ctl := by
  cases h with
  | ris a f => exact .of_eq (s.updRis_ctl a b f)
  | ltu a f => exact .of_eq (s.updLtu_ctl a b f)
  | spu a f h => exact .of_eq (s.updSpu_ctl a b f)
  | window a w => exact .of_eq (s.setWindow_ctl a b w)
  | lanes o => exact .same
  | count cs h => exact .same
  | record a f h => exact .of_eq (by rw [State.writeBound_bay])
  | alarm a x => exact .of_updCtl (.alarm x) b
  | ctl a f h => exact .of_updCtl (.soft (h _)) b
  | lock a => exact .of_updCtl .lock b
  | run a h => exact .of_updCtl (.run h) b
  | cause a k h =>
    rw [setCause_bay]
    split
    · next hab => subst hab; exact .cause k h
    · exact .same
  | stop a h => exact .of_updCtl (.stop h) b
  | complete a h =>
    by_cases hab : a = b
    · subst hab; rw [enterComplete_bay]; exact .complete _ _ h
    · exact .of_eq ((enterComplete_work a s).other b fun h => hab h.symm).1
  | outside h => exact .of_eq (by rw [s.bay_eq_of_bays h.bays])

/-- The changes of a bay's controller by a management command: deeds, or one of its own. -/
inductive CtlServed (c : BayCtl) : Command → BayCtl → Prop where
  | deed (m : Command) {d : BayCtl} (h : CtlDeed c d) : CtlServed c m d
  | abort {d : BayCtl} (h : Relation.ReflTransGen CtlDeed c d) : CtlServed c .bayAbort d
  | start (h : c.state = .vacant) (k : SlotIx) (plan : List SubPhase) (roles : List (Role × EntryIx)) (i : RecIx) :
      CtlServed c .bayStart (c.start k plan roles i)
  | unload (h : c.state = .complete) : CtlServed c .bayUnload c.unload
  | lock : CtlServed c .bayLock c.lock
  | unlock (h : c.state = .locked) : CtlServed c .bayUnlock c.unlock
  | ack (mask : Nat) : CtlServed c .ackAlarms (ackBay mask c)

theorem Deeds.ctl {s t : State} (h : Deeds s t) (b : Bay) : Relation.ReflTransGen CtlDeed (s.bay b).ctl (t.bay b).ctl :=
  h.keeps (P := fun s t => Relation.ReflTransGen CtlDeed (s.bay b).ctl (t.bay b).ctl) (fun _ => .refl) (fun h g => h.trans g)
    fun h => .single (h.ctlDeed b)

theorem CtlServed.of_updCtl {s : State} {a : Bay} {f : BayCtl → BayCtl} {m : Command}
    (h : CtlServed (s.bay a).ctl m (f (s.bay a).ctl)) (b : Bay) : CtlServed (s.bay b).ctl m ((s.updCtl a f).bay b).ctl := by
  by_cases hab : a = b
  · subst hab; simpa using h
  · rw [State.updCtl_ne _ hab]; exact .deed _ .same

theorem abortReady_deeds (b : Bay) (s : State) (c : Cause) (h : (s.bay b).ctl.state = .ready) :
    Deeds s (enterComplete b (setCause b c s)) :=
  (Deed.cause b c (.inl h)).one.trans (Deed.complete b (.inl (by rw [setCause_bay]; simpa using h))).one

theorem Served.ctl {s t : State} {m : Command} (h : Served s m t) (b : Bay) : CtlServed (s.bay b).ctl m (t.bay b).ctl := by
  cases h with
  | abortReady a h => exact .abort ((abortReady_deeds a s _ h).ctl b)
  | abortRunning a h => exact .abort ((abortBay_deeds a s _ h).ctl b)
  | start a k r serial i roles hb hk hi =>
    unfold openTest
    rw [State.updSpu_ctl]
    exact CtlServed.of_updCtl (s := State.pin _ k) (.start hb k r.plan roles i) b
  | unload a h =>
    unfold unloadBay
    rw [State.updSpu_ctl]
    exact CtlServed.of_updCtl (.unload h) b
  | lock a => exact CtlServed.of_updCtl .lock b
  | unlock a h => exact CtlServed.of_updCtl (.unlock h) b
  | ackBay a mask => exact CtlServed.of_updCtl (.ack mask) b
  | _ => exact .deed _ .same

theorem insertReportPart_bays (s : State) : (insertReportPart s).bays = s.bays := by
  unfold insertReportPart
  split
  · rfl
  split
  · rfl
  split
  · dsimp only
    split <;> rfl
  · rfl

/-- What a command makes of a bay's controller. -/
theorem Outcome.ctl {s t : State} {c : Instr} (h : Outcome s c t) (b : Bay) :
    Relation.ReflTransGen CtlDeed (s.bay b).ctl (t.bay b).ctl
      ∨ (t.bay b).ctl = .reset ∧ (c = .resetApply ∨ ∃ strap, c = .powerOn strap)
      ∨ ∃ m : Command, c = m.instr ∧ CtlServed (s.bay b).ctl m (t.bay b).ctl := by
  cases h with
  | deeds _ h => exact .inl (h.ctl b)
  | powerOn strap => exact .inr (.inl ⟨congrArg BayUnit.ctl (State.reset_bay b), .inr ⟨strap, rfl⟩⟩)
  | reset => exact .inr (.inl ⟨congrArg BayUnit.ctl (State.reset_bay b), .inl rfl⟩)
  | report => exact .inl (by rw [s.bay_eq_of_bays (insertReportPart_bays s)])
  | served m st rs hq h => exact .inr (.inr ⟨m, rfl, h.ctl b⟩)

/-! ### Alarm flags -/

theorem alarmsWithin_refl (v : BitVec 11) : alarmsWithin v v := BitVec.and_self

theorem alarmsWithin_or (v w : BitVec 11) : alarmsWithin v (v ||| w) := by
  unfold alarmsWithin
  ext i
  simp
  tauto

theorem alarmsWithin_trans {u v w : BitVec 11} (h : alarmsWithin u v) (g : alarmsWithin v w) : alarmsWithin u w := by
  unfold alarmsWithin at *
  rw [← h, BitVec.and_assoc, g]

/-- A verdict raises or clears the fail count, and may latch QSTOP and set lock-pending (R17). -/
theorem BayCtl.judged_eq (limit : Nat) (v : Option Verdict) (c : BayCtl) : ∃ n a l,
    c.judged limit v = { c with failCount := n, alarms := a, lockPending := l } ∧ alarmsWithin c.alarms a
      ∧ (c.failCount ≤ 15 → n ≤ 15) := by
  have hsame : ∃ n a l, c = { c with failCount := n, alarms := a, lockPending := l } ∧ alarmsWithin c.alarms a
      ∧ (c.failCount ≤ 15 → n ≤ 15) := ⟨c.failCount, c.alarms, c.lockPending, rfl, alarmsWithin_refl _, id⟩
  cases v with
  | none => exact hsame
  | some v =>
    cases v with
    | pass => exact ⟨0, c.alarms, c.lockPending, rfl, alarmsWithin_refl _, fun _ => Nat.zero_le _⟩
    | fail =>
      unfold BayCtl.judged BayCtl.qualityStop
      dsimp only
      split
      · exact ⟨_, _, _, rfl, alarmsWithin_or _ _, fun _ => min_le_left _ _⟩
      · exact ⟨_, _, _, rfl, alarmsWithin_refl _, fun _ => min_le_left _ _⟩
    | incomplete => exact hsame
    | aborted => exact hsame

theorem CtlDeed.alarms {c d : BayCtl} (h : CtlDeed c d) : alarmsWithin c.alarms d.alarms := by
  cases h with
  | alarm a => exact alarmsWithin_or _ _
  | soft h => obtain ⟨p, n, rfl⟩ := h; exact alarmsWithin_refl _
  | complete limit v h =>
    obtain ⟨n, a, l, he, ha, _⟩ := c.unbind.judged_eq limit v
    unfold BayCtl.completed
    rw [he]
    exact ha
  | _ => exact alarmsWithin_refl _

theorem CtlDeed.chain_alarms {c d : BayCtl} (h : Relation.ReflTransGen CtlDeed c d) : alarmsWithin c.alarms d.alarms := by
  induction h with
  | refl => exact alarmsWithin_refl _
  | tail _ h ih => exact alarmsWithin_trans ih h.alarms

theorem BayCtl.lock_alarms (c : BayCtl) : c.lock.alarms = c.alarms := by
  unfold BayCtl.lock
  split <;> rfl

theorem CtlServed.alarms {c d : BayCtl} {m : Command} (h : CtlServed c m d) (hm : m ≠ .ackAlarms) :
    alarmsWithin c.alarms d.alarms := by
  cases h with
  | deed _ h => exact h.alarms
  | abort h => exact CtlDeed.chain_alarms h
  | lock => rw [BayCtl.lock_alarms]; exact alarmsWithin_refl _
  | ack mask => exact absurd rfl hm
  | _ => exact alarmsWithin_refl _

/-- Settles O10: only ACK_ALARMS, a reset and power-on take flags away. -/
theorem alarmsStayLatched : Obligations.AlarmsStayLatched := by
  intro c s t h hc b
  obtain hd | ⟨_, hr⟩ | ⟨m, rfl, hm⟩ := (exec_next h).ctl b
  · exact CtlDeed.chain_alarms hd
  · exact absurd (.inr hr) hc
  · exact hm.alarms fun he => hc (.inl (by rw [he]; rfl))

/-! ### The first cause -/

/-- The controller is STOPPING or COMPLETE. -/
def BayCtl.stopped (c : BayCtl) : Prop := c.state = .stopping ∨ c.state = .complete

/-- A bay that is STOPPING or COMPLETE stays so under a deed, with its cause. -/
theorem CtlDeed.cause_kept {c d : BayCtl} (h : CtlDeed c d) (hs : c.stopped) : d.stopped ∧ d.cause = c.cause := by
  have hready : c.state ≠ .ready := fun h => by simp [BayCtl.stopped, h] at hs
  have hrunning : c.state ≠ .running := fun h => by simp [BayCtl.stopped, h] at hs
  cases h with
  | same => exact ⟨hs, rfl⟩
  | alarm a => exact ⟨hs, rfl⟩
  | soft h => obtain ⟨p, n, rfl⟩ := h; exact ⟨hs, rfl⟩
  | lock => exact ⟨hs, rfl⟩
  | run h => exact absurd h hready
  | cause k h => exact (h.elim hready hrunning).elim
  | stop h => exact absurd h hrunning
  | complete limit v h =>
    obtain ⟨n, a, l, he, _⟩ := c.unbind.judged_eq limit v
    exact ⟨.inr rfl, by unfold BayCtl.completed; rw [he]; rfl⟩

theorem CtlDeed.chain_cause {c d : BayCtl} (h : Relation.ReflTransGen CtlDeed c d) (hs : c.stopped) :
    d.stopped ∧ d.cause = c.cause := by
  induction h with
  | refl => exact ⟨hs, rfl⟩
  | tail _ h ih => exact ⟨(h.cause_kept ih.1).1, (h.cause_kept ih.1).2.trans ih.2⟩

theorem BayCtl.lock_cause (c : BayCtl) : c.lock.cause = c.cause := by
  unfold BayCtl.lock
  split <;> rfl

theorem CtlServed.cause_kept {c d : BayCtl} {m : Command} (h : CtlServed c m d) (hs : c.stopped) (ht : d.stopped) :
    d.cause = c.cause := by
  cases h with
  | deed _ h => exact (h.cause_kept hs).2
  | abort h => exact (CtlDeed.chain_cause h hs).2
  | start h k plan roles i => simp [BayCtl.stopped, h] at hs
  | unload h =>
    unfold BayCtl.stopped BayCtl.unload at ht
    dsimp only at ht
    split at ht <;> simp at ht
  | lock => exact c.lock_cause
  | unlock h => simp [BayCtl.stopped, h] at hs
  | ack mask => rfl

/-- Settles O14: a cause is set in READY and RUNNING alone, and a bay that has left those two comes back to them only by way
of VACANT. -/
theorem firstCauseKept : Obligations.FirstCauseKept := by
  intro c s t h b hs ht
  obtain hd | ⟨hr, _⟩ | ⟨m, _, hm⟩ := (exec_next h).ctl b
  · exact (CtlDeed.chain_cause hd hs).2
  · simp [State.stopped, hr, BayCtl.reset] at ht
  · exact hm.cause_kept hs ht

end Sys2Proof.Machine
end

section
/-! The ranges of R17, R67, R71, R75, R154 and R163 (O5). -/

namespace Sys2Proof.Machine

/-! ### Ranges under deeds -/

theorem Deed.queues {s t : State} (h : Deed s t) : QueuesBounded s → QueuesBounded t := by
  obtain hw | ho := h.work
  · unfold QueuesBounded; rw [hw.mga]; exact id
  · exact ho.queues

theorem Deed.ages {s t : State} (h : Deed s t) : AgesBounded s → AgesBounded t := by
  obtain hw | ho := h.work
  · unfold AgesBounded State.latch; rw [hw.chx]; exact id
  · exact ho.ages

theorem Deed.places {s t : State} (h : Deed s t) : PlacesApart s → PlacesApart t := by
  have he : t.chx.outputMap = s.chx.outputMap := by
    obtain hw | ho := h.work
    · rw [hw.chx]
    · exact ho.outputMap
  unfold PlacesApart
  rw [he]
  exact id

theorem CtlDeed.failCount {c d : BayCtl} (h : CtlDeed c d) : c.failCount ≤ 15 → d.failCount ≤ 15 := by
  cases h with
  | soft h => obtain ⟨p, n, rfl⟩ := h; exact id
  | complete limit v h =>
    obtain ⟨n, a, l, he, _, hn⟩ := c.unbind.judged_eq limit v
    unfold BayCtl.completed
    rw [he]
    exact hn
  | _ => exact id

theorem CtlDeed.chain_failCount {c d : BayCtl} (h : Relation.ReflTransGen CtlDeed c d) : c.failCount ≤ 15 → d.failCount ≤ 15 := by
  induction h with
  | refl => exact id
  | tail _ h ih => exact fun hc => h.failCount (ih hc)

theorem CtlServed.failCount {c d : BayCtl} {m : Command} (h : CtlServed c m d) : c.failCount ≤ 15 → d.failCount ≤ 15 := by
  cases h with
  | deed _ h => exact h.failCount
  | abort h => exact CtlDeed.chain_failCount h
  | lock =>
    unfold BayCtl.lock
    split <;> exact id
  | unlock h => exact fun _ => Nat.zero_le _
  | _ => exact id

theorem SpeedUnitsBounded.of_eq {s t : State} (h : ∀ b, (t.bay b).spu = (s.bay b).spu) : SpeedUnitsBounded s → SpeedUnitsBounded t :=
  fun hs b => by rw [h b]; exact hs b

theorem updSpu_speeds {s : State} {b : Bay} {f : Spu → Spu} (h : (s.bay b).spu.bounded → (f (s.bay b).spu).bounded) :
    SpeedUnitsBounded s → SpeedUnitsBounded (s.updSpu b f) := by
  intro hs c
  by_cases hbc : b = c
  · subst hbc; rw [State.updSpu_spu_same]; exact h (hs b)
  · rw [State.updSpu_ne _ hbc]; exact hs c

theorem enterComplete_spu (b c : Bay) (s : State) : ((enterComplete b s).bay c).spu = (s.bay c).spu := by
  by_cases h : c = b
  · subst h; rw [enterComplete_bay]
  · exact ((enterComplete_work b s).other c h).2.1

theorem setCause_spu (b x : Bay) (c : Cause) (s : State) : ((setCause b c s).bay x).spu = (s.bay x).spu := by
  rw [setCause_bay]
  split
  · next h => subst h; rfl
  · rfl

theorem Deed.speeds {s t : State} (h : Deed s t) : SpeedUnitsBounded s → SpeedUnitsBounded t := by
  cases h with
  | ris a f => exact .of_eq fun c => s.updRis_spu a c f
  | ltu a f => exact .of_eq fun c => s.updLtu_spu a c f
  | spu a f h => exact updSpu_speeds (h _)
  | window a w => exact .of_eq fun c => s.setWindow_spu a c w
  | lanes o => exact .of_eq fun _ => rfl
  | count cs h => exact .of_eq fun _ => rfl
  | record a f h => exact .of_eq fun c => by rw [State.writeBound_bay]
  | cause a k h => exact .of_eq fun c => setCause_spu a c k s
  | complete a h => exact .of_eq fun c => enterComplete_spu a c s
  | outside h => exact .of_eq fun c => by rw [s.bay_eq_of_bays h.bays]
  | alarm a x => exact .of_eq fun c => s.updCtl_spu a c _
  | ctl a f h => exact .of_eq fun c => s.updCtl_spu a c _
  | lock a => exact .of_eq fun c => s.updCtl_spu a c _
  | run a h => exact .of_eq fun c => s.updCtl_spu a c _
  | stop a h => exact .of_eq fun c => s.updCtl_spu a c _

theorem emit_counters (s : State) (e : CounterEvt) : CountersBounded s → CountersBounded (s.emit e) := by
  intro hs i
  rw [State.emit_counter]
  split
  · exact Counter.add_le 1 _
  · exact hs i

/-- Grants count at most. -/
theorem grantLoop_counters (l : List LaneRequest) (s : State) : CountersBounded s → CountersBounded (grantLoop l s) := by
  induction l generalizing s with
  | nil => exact id
  | cons q rest ih =>
    unfold grantLoop
    split
    · intro hs
      refine ih _ ?_
      unfold grantOne
      split
      · exact emit_counters _ _ hs
      · exact hs
    · exact id

theorem releaseBay_counters (b : Bay) (s : State) : CountersBounded s → CountersBounded (releaseBay b s) := by
  have hite {c : Prop} [Decidable c] {t u : State} (h : CountersBounded t → CountersBounded u) :
      CountersBounded t → CountersBounded (if c then u else t) := by
    split
    · exact h
    · exact id
  intro hs
  exact hite (grantLoop_counters _ _) (hite (emit_counters _ _) (hite id hs))

theorem enterComplete_counters (b : Bay) (s : State) : CountersBounded s → CountersBounded (enterComplete b s) := by
  intro hs
  rw [enterComplete_eq]
  refine releaseBay_counters b ((s.finalizedAt b).updCtl b BayCtl.unbind) ?_
  show CountersBounded (s.finalizedAt b)
  unfold State.finalizedAt
  split
  · exact emit_counters _ _ hs
  · exact hs

theorem Deed.counters {s t : State} (h : Deed s t) : CountersBounded s → CountersBounded t := by
  have hw (a : Bay) (f : AxleRecord → AxleRecord) : (s.writeBound a f).stc = s.stc := by
    unfold State.writeBound
    repeat' split
    all_goals rfl
  cases h with
  | count cs h => exact fun hs i => (h i (hs i)).2
  | record a f h => unfold CountersBounded; rw [hw]; exact id
  | cause a k h => exact fun hs => (by unfold CountersBounded; rw [hw]; exact hs : CountersBounded (s.writeBound a _))
  | complete a h => exact enterComplete_counters a s
  | outside h => unfold CountersBounded; rw [h.stc]; exact id
  | _ => exact id

/-- Every deed keeps the ranges. -/
theorem Deeds.ranges {s t : State} (h : Deeds s t) : RangesHold s → RangesHold t := by
  refine h.keeps (P := fun s t => RangesHold s → RangesHold t) (fun _ => id) (fun h g hs => g (h hs)) fun h hs => ?_
  obtain ⟨hq, hf, ha, hv, hc, hp⟩ := hs
  exact ⟨h.queues hq, fun b => (h.ctlDeed b).failCount (hf b), h.ages ha, h.speeds hv, h.counters hc, h.places hp⟩

/-! ### Ranges under management commands -/

theorem takeItem_ages (c : Chx) (x : EntryIx × MapItem) (h : ∀ e : EntryIx, (c.latches.get e).age ≤ 255) (e : EntryIx) :
    ((c.takeItem x).latches.get e).age ≤ 255 := by
  unfold Chx.takeItem
  simp only [Vector.get_eq_getElem, Vector.getElem_set]
  split
  · exact le_rfl
  · exact h e

theorem takeItems_ages (l : List (EntryIx × MapItem)) (c : Chx) (h : ∀ e : EntryIx, (c.latches.get e).age ≤ 255) :
    ∀ e : EntryIx, ((l.foldl Chx.takeItem c).latches.get e).age ≤ 255 := by
  induction l generalizing c with
  | nil => exact h
  | cons x xs ih => exact ih _ (takeItem_ages c x h)

theorem takeItems_outputMap (l : List (EntryIx × MapItem)) (c : Chx) : (l.foldl Chx.takeItem c).outputMap = c.outputMap := by
  induction l generalizing c with
  | nil => rfl
  | cons x xs ih => exact ih _

theorem mem_allBays (b : Bay) : b ∈ allBays := by
  revert b
  decide

/-- An output map that passes the checks of R71 is apart. -/
theorem placesApart_of_ok {args : Bytes} (h : placesOk args = true) (s : State) :
    PlacesApart { s with chx := { s.chx with outputMap := placesOf args } } := by
  unfold placesOk at h
  obtain ⟨h1, h3⟩ := Bool.and_eq_true_iff.mp h
  have h2 := (Bool.and_eq_true_iff.mp h1).2
  refine ⟨fun b => by simpa using List.all_eq_true.mp h2 b (mem_allBays b), fun a b hab ha hb => ?_⟩
  have hap := List.all_eq_true.mp (List.all_eq_true.mp h3 a (mem_allBays a)) b (mem_allBays b)
  simpa [OutputPlace.apart, hab, show ((placesOf args).get a).enabled = true from ha,
    show ((placesOf args).get b).enabled = true from hb] using hap

theorem Spu.started_bounded (q : SpuParams) : (Spu.started q).bounded := by simp [Spu.bounded, Spu.started, Spu.reset]

/-- Every management command keeps the ranges. -/
theorem Served.ranges {s t : State} {m : Command} (h : Served s m t) (hs : RangesHold s) : RangesHold t := by
  have hf : FailCountsBounded t := fun b => (h.ctl b).failCount (hs.2.1 b)
  obtain ⟨hq, _, ha, hv, hc, hp⟩ := id hs
  cases h with
  | abortReady a h => exact (abortReady_deeds a s _ h).ranges hs
  | abortRunning a h => exact (abortBay_deeds a s _ h).ranges hs
  | channelMap l n =>
    refine ⟨hq, hf, takeItems_ages l _ ha, hv, hc, ?_⟩
    unfold PlacesApart
    simp only [takeItems_outputMap]
    exact hp
  | outputMap args h => exact ⟨hq, hf, ha, hv, hc, placesApart_of_ok h s⟩
  | start a k r serial i roles hb hk hi =>
    exact ⟨hq, hf, ha, updSpu_speeds (fun _ => Spu.started_bounded _)
      (SpeedUnitsBounded.of_eq (fun c => State.updCtl_spu _ a c _) hv), hc, hp⟩
  | unload a h =>
    exact ⟨hq, hf, ha, updSpu_speeds (fun _ => Spu.reset_bounded)
      (SpeedUnitsBounded.of_eq (fun c => State.updCtl_spu _ a c _) hv), hc, hp⟩
  | lock a => exact ⟨hq, hf, ha, .of_eq (fun c => State.updCtl_spu _ a c _) hv, hc, hp⟩
  | unlock a h => exact ⟨hq, hf, ha, .of_eq (fun c => State.updCtl_spu _ a c _) hv, hc, hp⟩
  | ackBay a mask => exact ⟨hq, hf, ha, .of_eq (fun c => State.updCtl_spu _ a c _) hv, hc, hp⟩
  | ackCell mask =>
    refine ⟨hq, hf, ha, hv, fun i => ?_, hp⟩
    have hi := hc i
    unfold Machine.ackCell ackCounters
    simp only [Vector.get_eq_getElem, Vector.getElem_ofFn] at hi ⊢
    split <;> exact hi
  | counter i c h =>
    refine ⟨hq, hf, ha, hv, fun j => ?_, hp⟩
    have hj := hc j
    simp only [Vector.get_eq_getElem, Vector.getElem_set] at hj ⊢
    split
    · rw [h]; exact Nat.zero_le _
    · exact hj
  | snapshot clear =>
    refine ⟨hq, hf, ha, hv, fun j => ?_, hp⟩
    have hj := hc j
    unfold Stc.takeSnapshot
    dsimp only
    split
    · simp [Vector.get_eq_getElem, Counter.clear]
    · exact hj
  | _ => exact ⟨hq, hf, ha, hv, hc, hp⟩

theorem insertReportPart_ranges {s : State} (hs : RangesHold s) : RangesHold (insertReportPart s) := by
  have h : (insertReportPart s).mga = s.mga ∧ (insertReportPart s).chx = s.chx ∧ (insertReportPart s).stc = s.stc := by
    unfold insertReportPart
    split
    · exact ⟨rfl, rfl, rfl⟩
    split
    · exact ⟨rfl, rfl, rfl⟩
    split
    · dsimp only
      split <;> exact ⟨rfl, rfl, rfl⟩
    · exact ⟨rfl, rfl, rfl⟩
  obtain ⟨hm, hx, ht⟩ := h
  unfold RangesHold QueuesBounded FailCountsBounded AgesBounded SpeedUnitsBounded CountersBounded PlacesApart State.latch State.bay
  rw [hm, hx, ht, insertReportPart_bays]
  exact hs

theorem resetPart_ranges {s : State} (hs : RangesHold s) : RangesHold s.resetPart := by
  obtain ⟨_, _, _, _, _, hp⟩ := hs
  obtain ⟨_, hf, _, hv, _, _⟩ := reset_ranges
  refine ⟨⟨Nat.zero_le _, Nat.zero_le _⟩, hf, fun e => ?_, hv, fun i => ?_, hp⟩
  · simp [State.latch, State.resetPart, Vector.get_eq_getElem, Latch.resetPart]
  · simp [State.resetPart, Vector.get_eq_getElem, Counter.resetPart]

theorem Served.responses {s t : State} {m : Command} (h : Served s m t) : t.mga.responses = s.mga.responses := by
  cases h with
  | abortReady b h => rw [((setCause_work b s .operator).trans (enterComplete_work b _)).mga]
  | abortRunning b h => rw [(abortBay_work b s .operator).mga]
  | _ => rfl

theorem Outcome.ranges {s t : State} {c : Instr} (h : Outcome s c t) (hs : RangesHold s) : RangesHold t := by
  cases h with
  | deeds _ h => exact h.ranges hs
  | powerOn strap => exact reset_ranges
  | reset => exact resetPart_ranges hs
  | report => exact insertReportPart_ranges hs
  | @served m q u st rs hq h =>
    have hu := h.ranges ((popRequest_deeds s).ranges hs)
    refine (respond_deeds u q st rs ?_).ranges hu
    rw [h.responses]
    exact (headRequest_some hq).2.1

/-- Settles O5. -/
theorem stepKeepsRanges : Obligations.StepKeepsRanges := by
  intro s t hs h
  obtain rfl | ⟨c, rest, hp, ho⟩ := step_next h
  · exact hs
  · exact ho.ranges hs

end Sys2Proof.Machine
end

section
/-! Bays in a test and OPEN records correspond one to one (O7). -/

namespace Sys2Proof.Machine

/-- What ties records to bays: state, bay and slot of a record. -/
def State.recTie (s : State) (i : RecIx) : Option (RecState × Bay × SlotIx) :=
  (s.art.get i).map fun r => (r.state, r.bay, r.slot)

theorem openBay_iff {s : State} {i : RecIx} {b : Bay} :
    s.openBay i = some b ↔ ∃ r, s.art.get i = some r ∧ r.state = .opened ∧ r.bay = b := by
  unfold State.openBay
  constructor
  · intro h
    split at h
    · next r hr =>
      split at h
      · next ho => cases h; exact ⟨r, hr, ho, rfl⟩
      · cases h
    · cases h
  · rintro ⟨r, hr, ho, rfl⟩
    simp [hr, ho]

theorem openBay_iff_tie {s : State} {i : RecIx} {b : Bay} : s.openBay i = some b ↔ ∃ k, s.recTie i = some (.opened, b, k) := by
  rw [openBay_iff]
  unfold State.recTie
  constructor
  · rintro ⟨r, hr, ho, rfl⟩
    exact ⟨r.slot, by simp [hr, ho]⟩
  · rintro ⟨k, hk⟩
    cases h : s.art.get i with
    | none => simp [h] at hk
    | some r => simp [h] at hk; exact ⟨r, rfl, hk.1, hk.2.1⟩

/-- Bound records, slots, and what ties records to bays are the same, and each bay is in a test as before. -/
structure TiesKept (s t : State) : Prop where
  bound : ∀ b, (t.bay b).ctl.bound = (s.bay b).ctl.bound
  slot : ∀ b, (t.bay b).ctl.slot = (s.bay b).ctl.slot
  state : ∀ b, (t.bay b).ctl.state.bindsRecord = (s.bay b).ctl.state.bindsRecord
  tie : ∀ i, t.recTie i = s.recTie i

theorem TiesKept.of_bays_art {s t : State} (hb : t.bays = s.bays) (ha : t.art = s.art) : TiesKept s t := by
  have h := s.bay_eq_of_bays hb
  exact ⟨fun b => by rw [h], fun b => by rw [h], fun b => by rw [h], fun i => by unfold State.recTie; rw [ha]⟩

theorem TiesKept.of_ctl {s t : State} (hc : ∀ b, (t.bay b).ctl = (s.bay b).ctl) (ha : t.art = s.art) : TiesKept s t :=
  ⟨fun b => by rw [hc], fun b => by rw [hc], fun b => by rw [hc], fun i => by unfold State.recTie; rw [ha]⟩

/-- One controller is written, with bound record and slot kept, the bay in a test as before. -/
theorem TiesKept.of_updCtl (s : State) (a : Bay) (f : BayCtl → BayCtl) (hb : (f (s.bay a).ctl).bound = (s.bay a).ctl.bound)
    (hk : (f (s.bay a).ctl).slot = (s.bay a).ctl.slot)
    (hs : (f (s.bay a).ctl).state.bindsRecord = (s.bay a).ctl.state.bindsRecord) : TiesKept s (s.updCtl a f) := by
  refine ⟨fun b => ?_, fun b => ?_, fun b => ?_, fun i => rfl⟩
  all_goals
    by_cases h : a = b
    · subst h; simpa using ‹_›
    · rw [State.updCtl_ne _ h]

theorem TiesKept.of_writeBound (s : State) (a : Bay) (f : AxleRecord → AxleRecord) (h : ContentOnly f) :
    TiesKept s (s.writeBound a f) := by
  refine ⟨fun b => by rw [State.writeBound_bay], fun b => by rw [State.writeBound_bay],
    fun b => by rw [State.writeBound_bay], fun i => ?_⟩
  unfold State.recTie
  obtain he | ⟨r, ⟨_, hr, _⟩, he⟩ := s.writeBound_art a f i
  · rw [he]
  · obtain ⟨h1, h2, h3⟩ := h r
    simp [he, hr, h1, h2, h3]

theorem TiesKept.trans {s t u : State} (h : TiesKept s t) (g : TiesKept t u) : TiesKept s u :=
  ⟨fun b => (g.bound b).trans (h.bound b), fun b => (g.slot b).trans (h.slot b), fun b => (g.state b).trans (h.state b),
    fun i => (g.tie i).trans (h.tie i)⟩

/-- Bays and records correspond in t when they do in s, and bound records then name the slots. -/
def BindingsStay (s t : State) : Prop := BindingsMatch s → BindingsMatch t ∧ (BoundToSlot s → BoundToSlot t)

theorem BindingsStay.refl (s : State) : BindingsStay s s := fun h => ⟨h, id⟩

theorem BindingsStay.trans {s t u : State} (h : BindingsStay s t) (g : BindingsStay t u) : BindingsStay s u := fun hs =>
  ⟨(g (h hs).1).1, fun hb => (g (h hs).1).2 ((h hs).2 hb)⟩

theorem TiesKept.bindings {s t : State} (h : TiesKept s t) : BindingsStay s t := by
  intro ⟨h1, h2⟩
  have hopen (i : RecIx) (b : Bay) : t.openBay i = some b ↔ s.openBay i = some b := by
    rw [openBay_iff_tie, openBay_iff_tie, h.tie]
  refine ⟨⟨fun b => by rw [h.bound, h.state, h1], fun b i => by rw [h.bound, h2, hopen]⟩, fun hs b i r hb hr => ?_⟩
  have ht := h.tie i
  unfold State.recTie at ht
  rw [hr] at ht
  cases hr' : s.art.get i with
  | none => rw [hr'] at ht; cases ht
  | some r' =>
    rw [hr'] at ht
    simp only [Option.map_some, Option.some.injEq, Prod.mk.injEq] at ht
    obtain ⟨_, hbay, hslot⟩ := ht
    obtain ⟨g1, g2⟩ := hs b i r' (by rw [← h.bound b]; exact hb) hr'
    exact ⟨hbay.trans g1, by rw [h.slot, g2, hslot]⟩

/-! ### Entry to COMPLETE -/

theorem BayCtl.completed_eq (limit : Nat) (v : Option Verdict) (c : BayCtl) :
    (c.completed limit v).state = .complete ∧ (c.completed limit v).bound = none := by
  obtain ⟨n, a, l, he, _⟩ := c.unbind.judged_eq limit v
  exact ⟨rfl, by unfold BayCtl.completed; rw [he]; rfl⟩

/-- A bay in a test is bound to an OPEN record that names it. -/
theorem BindingsMatch.bindsOpen {s : State} (h : BindingsMatch s) {b : Bay}
    (hb : (s.bay b).ctl.state.bindsRecord = true) : ∃ i r, s.bindsOpen b i r ∧ r.bay = b := by
  obtain ⟨h1, h2⟩ := h
  obtain ⟨i, hi⟩ := Option.isSome_iff_exists.mp ((h1 b).trans hb)
  obtain ⟨r, hr, ho, hrb⟩ := openBay_iff.mp ((h2 b i).mp hi)
  exact ⟨i, r, ⟨hi, hr, ho⟩, hrb⟩

theorem get_set_art (v : Vector (Option AxleRecord) 12) (i j : RecIx) (x : Option AxleRecord) :
    (v.set i x).get j = if i = j then x else v.get j := by
  simp only [Vector.get_eq_getElem, Vector.getElem_set, Fin.ext_iff]

theorem enterComplete_bindings {b : Bay} {s : State} (hb : (s.bay b).ctl.state = .ready ∨ (s.bay b).ctl.state = .stopping) :
    BindingsStay s (enterComplete b s) := by
  intro h
  have hbind : (s.bay b).ctl.state.bindsRecord = true := by obtain h | h := hb <;> rw [h] <;> rfl
  obtain ⟨i, r, hi, hrb⟩ := h.bindsOpen hbind
  obtain ⟨v, ha⟩ := enterComplete_art hi
  obtain ⟨hbound, hr, ho⟩ := hi
  obtain ⟨h1, h2⟩ := h
  obtain ⟨hstate, hnone⟩ := (s.bay b).ctl.completed_eq s.mga.params.qualityStopLimit (s.verdictAt b)
  have hbay : ((enterComplete b s).bay b).ctl = (s.bay b).ctl.completed s.mga.params.qualityStopLimit (s.verdictAt b) := by
    rw [enterComplete_bay]
  have hother (c : Bay) (hc : c ≠ b) : ((enterComplete b s).bay c).ctl = (s.bay c).ctl := ((enterComplete_work b s).other c hc).1
  have hart (j : RecIx) : (enterComplete b s).art.get j = if i = j then some (finalized s.tbs.cellTime v r) else s.art.get j := by
    rw [ha, get_set_art]
  have hopen (j : RecIx) (c : Bay) : (enterComplete b s).openBay j = some c ↔ j ≠ i ∧ s.openBay j = some c := by
    rw [openBay_iff, openBay_iff, hart]
    by_cases hj : i = j
    · subst hj; simp [finalized]
    · simp [hj, Ne.symm hj]
  refine ⟨⟨fun c => ?_, fun c j => ?_⟩, fun hs c j x hc hx => ?_⟩
  · by_cases hcb : c = b
    · subst hcb; rw [hbay, hstate, hnone]; rfl
    · rw [hother c hcb]; exact h1 c
  · rw [hopen]
    by_cases hcb : c = b
    · subst hcb
      rw [hbay, hnone]
      constructor
      · intro h; cases h
      · rintro ⟨hji, hj⟩
        rw [← h2 c j, hbound] at hj
        cases hj
        exact absurd rfl hji
    · rw [hother c hcb, h2 c j]
      refine ⟨fun hj => ⟨fun hji => hcb ?_, hj⟩, fun hj => hj.2⟩
      subst hji
      rw [(h2 b j).mp hbound] at hj
      cases hj
      rfl
  · by_cases hcb : c = b
    · subst hcb; rw [hbay, hnone] at hc; cases hc
    · rw [hother c hcb] at hc ⊢
      have hji : i ≠ j := fun hij => by
        subst hij
        have := (h2 c i).mp hc
        rw [(h2 b i).mp hbound] at this
        exact hcb (Option.some.inj this).symm
      rw [hart, if_neg hji] at hx
      exact hs c j x hc hx

/-! ### Every command -/

theorem Deed.bindings {s t : State} (h : Deed s t) : BindingsStay s t := by
  cases h with
  | ris a f => exact (TiesKept.of_ctl (fun c => s.updRis_ctl a c f) rfl).bindings
  | ltu a f => exact (TiesKept.of_ctl (fun c => s.updLtu_ctl a c f) rfl).bindings
  | spu a f h => exact (TiesKept.of_ctl (fun c => s.updSpu_ctl a c f) rfl).bindings
  | window a w => exact (TiesKept.of_ctl (fun c => s.setWindow_ctl a c w) rfl).bindings
  | lanes o => exact (TiesKept.of_bays_art rfl rfl).bindings
  | count cs h => exact (TiesKept.of_bays_art rfl rfl).bindings
  | record a f h => exact (TiesKept.of_writeBound s a f h).bindings
  | alarm a x => exact (TiesKept.of_updCtl s a _ rfl rfl rfl).bindings
  | ctl a f h =>
    obtain ⟨p, n, he⟩ := h (s.bay a).ctl
    exact (TiesKept.of_updCtl s a f (by rw [he]) (by rw [he]) (by rw [he])).bindings
  | lock a => exact (TiesKept.of_updCtl s a _ rfl rfl rfl).bindings
  | run a h => exact (TiesKept.of_updCtl s a _ rfl rfl (by rw [h]; rfl)).bindings
  | cause a k h =>
    have hw := TiesKept.of_writeBound s a (fun r => { r with cause := some k }) fun _ => ⟨rfl, rfl, rfl⟩
    exact (hw.trans (TiesKept.of_updCtl _ a (fun c => { c with cause := some k }) rfl rfl rfl)).bindings
  | stop a h => exact (TiesKept.of_updCtl s a _ rfl rfl (by rw [h]; rfl)).bindings
  | complete a h => exact enterComplete_bindings h
  | outside h => exact (TiesKept.of_bays_art h.bays h.art).bindings

theorem Deeds.bindings {s t : State} (h : Deeds s t) : BindingsStay s t :=
  h.keeps BindingsStay.refl BindingsStay.trans Deed.bindings

theorem freeRecord_free {s : State} {i : RecIx} (h : s.freeRecord = some i) : s.art.get i = none := by
  simpa using List.find?_some h

theorem openTest_bay (b c : Bay) (k : SlotIx) (r : Recipe) (serial : Bytes) (i : RecIx) (roles : List (Role × EntryIx)) (s : State) :
    ((openTest b k r serial i roles s).bay c).ctl =
      if b = c then (s.bay b).ctl.start k r.plan roles i else (s.bay c).ctl := by
  unfold openTest
  rw [State.updSpu_ctl]
  split
  · next h => subst h; rw [State.updCtl_ctl_same]; rfl
  · next h => rw [State.updCtl_ne _ h]; rfl

/-- A started bay was bound to nothing and its record was FREE. -/
theorem openTest_bindings {b : Bay} {k : SlotIx} {r : Recipe} {serial : Bytes} {i : RecIx} {roles : List (Role × EntryIx)}
    {s : State} (hb : (s.bay b).ctl.state = .vacant) (hi : s.freeRecord = some i) :
    BindingsStay s (openTest b k r serial i roles s) := by
  intro ⟨h1, h2⟩
  have hfree := freeRecord_free hi
  have hnone : (s.bay b).ctl.bound = none := by
    have := h1 b
    rw [hb] at this
    simpa [BayState.bindsRecord] using this
  have hart (j : RecIx) : (openTest b k r serial i roles s).art.get j =
      if i = j then some (openingRecord s b k r serial) else s.art.get j := get_set_art _ _ _ _
  refine ⟨⟨fun c => ?_, fun c j => ?_⟩, fun hs c j x hc hx => ?_⟩
  · rw [openTest_bay]
    split
    · rfl
    · exact h1 c
  · rw [openTest_bay, openBay_iff, hart]
    by_cases hij : i = j
    · subst hij
      rw [if_pos rfl]
      have hc : (s.bay c).ctl.bound ≠ some i := fun h => by
        obtain ⟨x, hx, _⟩ := openBay_iff.mp ((h2 c i).mp h)
        rw [hfree] at hx
        cases hx
      by_cases hbc : b = c
      · subst hbc; simp [BayCtl.start, openingRecord]
      · simp [hbc, hc, openingRecord]
    · rw [if_neg hij, ← openBay_iff, ← h2 c j]
      by_cases hbc : b = c
      · subst hbc; simp [BayCtl.start, hnone, hij]
      · rw [if_neg hbc]
  · rw [openTest_bay] at hc ⊢
    rw [hart] at hx
    by_cases hbc : b = c
    · subst hbc
      rw [if_pos rfl] at hc ⊢
      simp only [BayCtl.start, Option.some.injEq] at hc
      rw [if_pos hc] at hx
      cases hx
      exact ⟨rfl, rfl⟩
    · rw [if_neg hbc] at hc ⊢
      have hij : i ≠ j := fun hij => by
        subst hij
        obtain ⟨y, hy, _⟩ := openBay_iff.mp ((h2 c i).mp hc)
        rw [hfree] at hy
        cases hy
      rw [if_neg hij] at hx
      exact hs c j x hc hx

/-- A bay that is bound to nothing, and stays out of a test, may change its slot. -/
theorem updCtl_bindings {s : State} {a : Bay} {f : BayCtl → BayCtl} (h0 : (s.bay a).ctl.state.bindsRecord = false)
    (hb : (f (s.bay a).ctl).bound = (s.bay a).ctl.bound) (hf : (f (s.bay a).ctl).state.bindsRecord = false) :
    BindingsStay s (s.updCtl a f) := by
  intro ⟨h1, h2⟩
  have hnone : (s.bay a).ctl.bound = none := by simpa [h0] using h1 a
  have hbound (c : Bay) : ((s.updCtl a f).bay c).ctl.bound = (s.bay c).ctl.bound := by
    by_cases hac : a = c
    · subst hac; rw [State.updCtl_ctl_same, hb]
    · rw [State.updCtl_ne _ hac]
  refine ⟨⟨fun c => ?_, fun c j => by rw [hbound]; exact h2 c j⟩, fun hs c j x hc hx => ?_⟩
  · rw [hbound]
    by_cases hac : a = c
    · subst hac; rw [State.updCtl_ctl_same, hf, h1, h0]
    · rw [State.updCtl_ne _ hac]; exact h1 c
  · rw [hbound] at hc
    have hac : a ≠ c := fun hac => by subst hac; rw [hnone] at hc; cases hc
    rw [State.updCtl_ne _ hac]
    exact hs c j x hc hx

theorem BayCtl.lock_kept (c : BayCtl) :
    c.lock.bound = c.bound ∧ c.lock.slot = c.slot ∧ c.lock.state.bindsRecord = c.state.bindsRecord := by
  unfold BayCtl.lock
  split
  · next h => exact ⟨rfl, rfl, by rw [h]; rfl⟩
  all_goals exact ⟨rfl, rfl, rfl⟩

theorem BayCtl.unload_state (c : BayCtl) : c.unload.state.bindsRecord = false := by
  unfold BayCtl.unload
  dsimp only
  split <;> rfl

/-- A record that is not OPEN is written, or freed, without changing what is OPEN. -/
theorem setArt_bindings {s t : State} {i : RecIx} {r : AxleRecord} {x : Option AxleRecord} (hb : t.bays = s.bays)
    (ha : t.art = s.art.set i x) (hr : s.art.get i = some r) (ho : r.state ≠ .opened)
    (hx : ∀ y, x = some y → y.state ≠ .opened) : BindingsStay s t := by
  intro ⟨h1, h2⟩
  have hbay := s.bay_eq_of_bays hb
  have hopen (j : RecIx) (c : Bay) : t.openBay j = some c ↔ s.openBay j = some c := by
    rw [openBay_iff, openBay_iff, ha, get_set_art]
    by_cases hij : i = j
    · subst hij
      rw [if_pos rfl, hr]
      refine ⟨fun ⟨y, hy, hyo, _⟩ => absurd hyo (hx y hy), fun ⟨y, hy, hyo, _⟩ => ?_⟩
      cases hy
      exact absurd hyo ho
    · rw [if_neg hij]
  refine ⟨⟨fun c => by rw [hbay]; exact h1 c, fun c j => by rw [hbay, hopen]; exact h2 c j⟩, fun hs c j y hc hy => ?_⟩
  rw [hbay] at hc ⊢
  have hij : i ≠ j := fun hij => by
    subst hij
    obtain ⟨z, hz, hzo, _⟩ := openBay_iff.mp ((h2 c i).mp hc)
    rw [hr] at hz
    cases hz
    exact ho hzo
  rw [ha, get_set_art, if_neg hij] at hy
  exact hs c j y hc hy

theorem Served.bindings {s t : State} {m : Command} (h : Served s m t) : BindingsStay s t := by
  cases h with
  | abortReady a h => exact (abortReady_deeds a s _ h).bindings
  | abortRunning a h => exact (abortBay_deeds a s _ h).bindings
  | start a k r serial i roles hb hk hi => exact openTest_bindings hb hi
  | unload a h =>
    exact (updCtl_bindings (by rw [h]; rfl) rfl (BayCtl.unload_state _)).trans
      (TiesKept.of_ctl (fun c => State.updSpu_ctl _ a c _) rfl).bindings
  | lock a =>
    obtain ⟨h1, h2, h3⟩ := (s.bay a).ctl.lock_kept
    exact (TiesKept.of_updCtl s a _ h1 h2 h3).bindings
  | unlock a h => exact updCtl_bindings (by rw [h]; rfl) rfl rfl
  | ackBay a mask => exact (TiesKept.of_updCtl s a _ rfl rfl rfl).bindings
  | release i r hi hr => exact setArt_bindings rfl rfl hi (by rw [hr]; exact nofun) fun _ h => by cases h
  | _ => exact (TiesKept.of_bays_art rfl rfl).bindings

/-- The record a report part carries is QUEUED, and SENT after the last part. -/
theorem insertReportPart_bindings {s : State} (hs : SpoolMatches s) : BindingsStay s (insertReportPart s) := by
  unfold insertReportPart
  split
  · exact .refl s
  next i rest hsp =>
  split
  · exact .refl s
  next r hr =>
  split
  · have hq : r.state = .queued := by
      have := (hs.2 i).mp (by rw [hsp]; exact List.mem_cons_self)
      simpa [State.recState, hr] using this
    dsimp only
    split
    · exact setArt_bindings rfl rfl hr (by rw [hq]; exact nofun) fun y h => by cases h; exact nofun
    · exact (TiesKept.of_bays_art rfl rfl).bindings
  · exact .refl s

/-- Without a test and without a record there is nothing to match. -/
theorem bindings_of_reset {t : State} (hb : ∀ b, t.bay b = .reset) (ha : ∀ i, t.art.get i = none) :
    BindingsMatch t ∧ BoundToSlot t := by
  refine ⟨⟨fun b => by rw [hb]; rfl, fun b i => ?_⟩, fun b i r h _ => by rw [hb] at h; cases h⟩
  rw [hb, openBay_iff, ha]
  simp [BayUnit.reset, BayCtl.reset]

theorem Outcome.bindings {s t : State} {c : Instr} (h : Outcome s c t) (hs : SpoolMatches s) : BindingsStay s t := by
  cases h with
  | deeds _ h => exact h.bindings
  | powerOn strap =>
    obtain ⟨h1, h2⟩ := bindings_of_reset (t := Machine.powerOn strap s) State.reset_bay State.reset_art
    exact fun _ => ⟨h1, fun _ => h2⟩
  | reset =>
    obtain ⟨h1, h2⟩ := bindings_of_reset (t := s.resetPart) State.reset_bay State.reset_art
    exact fun _ => ⟨h1, fun _ => h2⟩
  | report => exact insertReportPart_bindings hs
  | @served m q u st rs hq h =>
    exact ((popRequest_deeds s).bindings.trans h.bindings).trans (TiesKept.of_bays_art rfl rfl).bindings

/-- Settles O7. -/
theorem stepKeepsBindings : Obligations.StepKeepsBindings := by
  intro s t hs hb h
  obtain rfl | ⟨c, rest, hp, ho⟩ := step_next h
  · exact BindingsStay.refl _ hb
  · exact (ho.bindings (s := { s with pending := rest }) hs) hb

end Sys2Proof.Machine
end

section
/-! Requests on bays: BAY_START (O34, O35), unload and locks (O37), ACK_ALARMS (O38), READ_BAY (O39), and requests that are
refused (O45). -/

namespace Sys2Proof.Machine

/-! ### The checks of BAY_START -/

theorem serialInUse_iff (s : State) (serial : Bytes) : s.serialInUse serial = true ↔ s.holdsSerial serial := by
  unfold State.serialInUse State.holdsSerial
  rw [List.any_eq_true]
  constructor
  · rintro ⟨o, ho, h⟩
    obtain ⟨i, hi, rfl⟩ := List.getElem_of_mem ho
    rw [Vector.length_toList] at hi
    rw [Vector.getElem_toList] at h
    cases hr : s.art[i] with
    | none => rw [hr] at h; cases h
    | some r =>
      rw [hr] at h
      simp only [Bool.and_eq_true, beq_iff_eq, bne_iff_ne] at h
      exact ⟨⟨i, hi⟩, r, hr, h⟩
  · rintro ⟨i, r, hr, h1, h2⟩
    refine ⟨some r, ?_, by simp [h1, h2]⟩
    rw [← hr]
    exact Vector.mem_toList_iff.mpr (Vector.getElem_mem i.isLt)

theorem freeRecord_eq_none {s : State} : s.freeRecord = none ↔ ∀ i : RecIx, s.art.get i ≠ none := by
  simp [State.freeRecord]

theorem freeRecord_of_lowest {s : State} {i : RecIx} (h : s.lowestFreeRecord i) : s.freeRecord = some i := by
  obtain ⟨hi, hl⟩ := h
  cases hf : s.freeRecord with
  | none => exact absurd hi (freeRecord_eq_none.mp hf i)
  | some j =>
    obtain ⟨hj, k, hk, hkj, hlt⟩ := List.find?_eq_some_iff_getElem.mp hf
    simp only [List.getElem_finRange, Fin.cast_mk] at hkj hlt
    obtain h | h | h := lt_trichotomy i j
    · have := hlt i.val (by subst hkj; exact h)
      simp [hi] at this
    · rw [h]
    · simp at hj
      exact absurd hj (hl j h)

/-- The recipe a BAY_START finds in a slot. -/
theorem validRecipe_some {s : State} {k : SlotIx} {r : Recipe} (hv : (s.slot k).state = .valid) (hr : (s.slot k).recipe = some r) :
    s.validRecipe k = some r := by simp [State.validRecipe, hv, hr]

/-- Taken for a bay, a slot and a serial, BAY_START makes its checks. -/
theorem exec_start {q : MgmtRequest} {b : Bay} {k : SlotIx} {serial : Bytes} {s : State} (h : StartFor q b k serial s) :
    exec .bayStart s = .next ((startBay b k serial s.popRequest).state.respond q (startBay b k serial s.popRequest).status
      (startBay b k serial s.popRequest).results) := by
  obtain ⟨⟨ht, hb⟩, hk, hs⟩ := h
  have hbody : doBayStart (reqArgs q.payload) s.popRequest = startBay b k serial s.popRequest := by
    simp [doBayStart, hb, hk, hs]
  show Host.Outcome.next (serve .bayStart doBayStart s) = _
  rw [serve_taken doBayStart ht, hbody]

/-- A BAY_START that fails a check is answered, and nothing else happens. -/
theorem exec_start_of {q : MgmtRequest} {b : Bay} {k : SlotIx} {serial : Bytes} {s : State} (h : StartFor q b k serial s) {r : Reply}
    (hr : startBay b k serial s.popRequest = r) : exec .bayStart s = .next (r.state.respond q r.status r.results) := by
  rw [exec_start h, hr]

theorem Recipe.plan_eq (r : Recipe) : r.plan = match r.leakOrder with
    | .none => [.runin]
    | .before => [.leakPre, .runin]
    | .after => [.runin, .leakPost] := by
  unfold Recipe.plan
  cases r.leakOrder <;> rfl

/-- Settles O34. -/
theorem bayStarted : Obligations.BayStarted := by
  intro q b k serial r i roles s hq hb hl hv hr hs hi hroles
  have hfree : s.popRequest.freeRecord = some i := freeRecord_of_lowest (s := s.popRequest) hi
  have hserial : s.popRequest.serialInUse serial = false := by
    simpa using mt (serialInUse_iff s.popRequest serial).mp hs
  have hval : s.popRequest.validRecipe k = some r := validRecipe_some (s := s.popRequest) hv hr
  have hres : s.chx.resolve b r.neededRoles = .ok roles := (resolve_needed s b r roles).mpr hroles
  have hstart : startBay b k serial s.popRequest = .ok (openTest b k r serial i roles s.popRequest) (leBytes 1 i.val) := by
    simp [startBay, hb, hl, hval, hserial, hfree, hres]
  rw [exec_start_of hq hstart, openTest, State.updCtl, State.updSpu, State.updBay_updBay]
  unfold BayCtl.start
  rw [Recipe.plan_eq]
  cases r.leakOrder <;> rfl

/-- Settles O35. -/
theorem bayStartRefused : Obligations.BayStartRefused := by
  intro q b k serial s hq
  refine ⟨fun hb => ?_, fun hl hv => ?_, fun hb hl => ?_, fun hb hl hv => ?_, fun r hb hl hv hr => ?_⟩
  · exact exec_start_of hq (r := .refuse s.popRequest .locked) (by simp [startBay, hb])
  · exact exec_start_of hq (r := .refuse s.popRequest .wrongState) (by simp [startBay, hl, hv])
  · exact exec_start_of hq (r := .refuse s.popRequest .linkDown) (by simp [startBay, hb, hl])
  · have hval : s.popRequest.validRecipe k = none := by simp [State.validRecipe, hv]
    exact exec_start_of hq (r := .refuse s.popRequest .noRecipe) (by simp [startBay, hb, hl, hval])
  have hval : s.popRequest.validRecipe k = some r := validRecipe_some (s := s.popRequest) hv hr
  have hfresh (h : ¬ s.holdsSerial serial) : s.popRequest.serialInUse serial = false := by
    simpa using mt (serialInUse_iff s.popRequest serial).mp h
  refine ⟨fun hs => ?_, fun hs hf => ?_, fun i role n hs hi hn => ?_⟩
  · have hser : s.popRequest.serialInUse serial = true := (serialInUse_iff s.popRequest serial).mpr hs
    exact exec_start_of hq (r := .refuse s.popRequest .duplicate) (by simp [startBay, hb, hl, hval, hser])
  · have hfree : s.popRequest.freeRecord = none := freeRecord_eq_none.mpr hf
    exact exec_start_of hq (r := .refuse s.popRequest .tableFull) (by simp [startBay, hb, hl, hval, hfresh hs, hfree])
  · have hres : s.chx.resolve b r.neededRoles = .error (role, n) := (resolve_needed_error s b r role n).mpr hn
    cases hfree : s.popRequest.freeRecord with
    | none => exact absurd hi (freeRecord_eq_none.mp hfree i)
    | some j =>
      exact exec_start_of hq (r := ⟨s.popRequest, .mapMismatch, leBytes 1 (roleCode role) ++ leBytes 1 n⟩)
        (by simp [startBay, hb, hl, hval, hfresh hs, hfree, hres])

/-! ### Commands that carry a bay -/

/-- A command that carries a bay in range does what it does for that bay. -/
theorem serve_withBay {c : Command} {q : MgmtRequest} {s : State} {b : Bay} (f : Bay → State → Reply) (h : TakenAs c q s)
    (hb : byteAt (reqArgs q.payload) 0 = b.val) :
    serve c (fun args s => withBay args s fun b => f b s) s =
      (f b s.popRequest).state.respond q (f b s.popRequest).status (f b s.popRequest).results := by
  rw [serve_taken _ h]
  unfold withBay
  rw [bayArg_eq.mpr hb]

/-- A command that carries a bay out of range is BAD_ARG. -/
theorem serve_withBay_none {c : Command} {q : MgmtRequest} {s : State} (f : Bay → State → Reply) (h : TakenAs c q s)
    (hb : 4 ≤ byteAt (reqArgs q.payload) 0) :
    serve c (fun args s => withBay args s fun b => f b s) s = s.answered q .badArg [] :=
  serve_refused h (by unfold withBay; rw [bayArg_none.mpr hb])

theorem BayCtl.lock_eq (c : BayCtl) : c.lock =
    if c.state = .vacant then { c with state := .locked } else if c.state = .locked then c else { c with lockPending := true } := by
  unfold BayCtl.lock
  cases h : c.state <;> simp

/-- Settles O37. -/
theorem bayServiced : Obligations.BayServiced := by
  intro q s
  refine ⟨fun hb => ⟨fun h => ?_, fun h => ?_, fun h => ?_⟩, fun b => ⟨fun h => ?_, fun h => ?_, fun h => ?_⟩⟩
  · exact congrArg Host.Outcome.next (serve_withBay_none unloadRequest h hb)
  · exact congrArg Host.Outcome.next (serve_withBay_none lockRequest h hb)
  · exact congrArg Host.Outcome.next (serve_withBay_none unlockRequest h hb)
  · refine congrArg Host.Outcome.next ((serve_withBay unloadRequest h.1 (bayArg_eq.mp h.2)).trans ?_)
    unfold unloadRequest
    split
    · next hs => rw [if_pos (show (s.bay b).ctl.state = .complete from hs)]; rfl
    all_goals
      next hs =>
        rw [if_neg (show ¬ (s.bay b).ctl.state = .complete from fun hc => BayState.noConfusion (hs.symm.trans hc))]
        rfl
  · refine congrArg Host.Outcome.next ((serve_withBay lockRequest h.1 (bayArg_eq.mp h.2)).trans ?_)
    unfold lockRequest
    rw [show BayCtl.lock = _ from funext BayCtl.lock_eq]
    rfl
  · refine congrArg Host.Outcome.next ((serve_withBay unlockRequest h.1 (bayArg_eq.mp h.2)).trans ?_)
    unfold unlockRequest
    by_cases hs : (s.bay b).ctl.state = .locked
    · rw [if_pos (show (s.popRequest.bay b).ctl.state = .locked from hs), if_pos hs]; rfl
    · rw [if_neg (show ¬ (s.popRequest.bay b).ctl.state = .locked from hs), if_neg hs]; rfl

/-! ### ACK_ALARMS -/

/-- A cleared flag is its old value without the bit named. -/
theorem ackCounters_eq (mask : Nat) (cs : Vector Counter 8) : ackCounters mask cs =
    Vector.ofFn fun i => { cs.get i with alarm := (cs.get i).alarm && !mask.testBit (5 + i.val) } := by
  unfold ackCounters
  congr 1
  funext i
  cases mask.testBit (5 + i.val) <;> simp

/-- Settles O38. -/
theorem alarmsAcknowledged : Obligations.AlarmsAcknowledged := by
  intro q mask s h hm
  have hex : exec .ackAlarms s = .next ((doAckAlarms (reqArgs q.payload) s.popRequest).state.respond q
      (doAckAlarms (reqArgs q.payload) s.popRequest).status (doAckAlarms (reqArgs q.payload) s.popRequest).results) :=
    congrArg Host.Outcome.next (serve_taken doAckAlarms h)
  rw [hex]
  unfold doAckAlarms
  rw [← hm]
  refine ⟨fun b hb => ?_, fun hc => ?_, fun hb hc => ?_⟩
  · have hne : byteAt (reqArgs q.payload) 0 ≠ cellDesignation := by
      rw [bayArg_eq.mp hb]; exact ne_of_lt (lt_trans b.isLt (by decide))
    rw [if_neg hne, hb]
    dsimp only
    split <;> rfl
  · rw [if_pos (show _ = cellDesignation from hc)]
    unfold cellMaskOk ackCell
    rw [ackCounters_eq]
    by_cases h1 : mask < 2 ^ 13 ∧ mask.testBit 4 = false
    · rw [if_pos h1, if_pos (by simpa using h1)]; rfl
    · rw [if_neg h1, if_neg (by simpa using h1)]; rfl
  · rw [if_neg (show _ ≠ cellDesignation from hc), bayArg_none.mpr hb]
    rfl

/-! ### READ_BAY -/

theorem leBytes_one (v : Nat) : leBytes 1 v = [BitVec.ofNat 8 v] := rfl

theorem optByte_eq {α : Type} (x : Option α) (code : Option α → Nat) :
    optByte x.isSome (code x) = optBytes 1 (x.map fun p => [BitVec.ofNat 8 (code (some p))]) := by
  cases x <;> rfl

theorem listBytes_map {α : Type} (f : α → Bytes) (l : List α) : listBytes (l.map f) = BitVec.ofNat 8 l.length :: l.flatMap f := by
  simp [listBytes, List.flatMap]

theorem listBytes_singletons {α : Type} (f : α → Byte) (l : List α) :
    listBytes (l.map fun x => [f x]) = BitVec.ofNat 8 l.length :: l.map f := by
  rw [listBytes_map, List.map_eq_flatMap]

theorem commandBytes_eq (lost : Bool) (u : BayUnit) : u.commandBytes lost =
    [BitVec.ofNat 8 (flagBit 0 (u.ris.driveEnable && !lost) + 2 * loadModeOptCode u.ris.loadMode), 0]
      ++ leBytes 2 u.ris.cmdSpeed ++ leBytes 2 (u.ris.torqueLimit.getD 0)
      ++ [BitVec.ofNat 8 ((if lost then 0 else u.ltu.fill.toNat) + 8 * u.ltu.vent.toNat),
          if u.ctl.state = .running then 2 else 3, 0, 0, 0, 0] := by
  have hdrive : (if u.ris.driveEnable = true ∧ lost = false then 1 else 0) = flagBit 0 (u.ris.driveEnable && !lost) := by
    cases u.ris.driveEnable <;> cases lost <;> rfl
  unfold BayUnit.commandBytes
  rw [hdrive]
  cases u.ris.loadMode with
  | none => rfl
  | some m => cases m <;> rfl

/-- The 12 bytes of the command record of a bay, with the override of a LOST link (R23, R72, R174). -/
theorem command_bytes (s : State) (b : Bay) (link : LinkState) : ((s.command b).override link).bytes =
    if (s.bay b).ctl.state ≠ .running ∧ (s.bay b).ctl.state ≠ .stopping then
      [0, 0, 0, 0, 0, 0, 0, BitVec.ofNat 8 (bayStateCode (s.bay b).ctl.state), 0, 0, 0, 0]
    else (s.bay b).commandBytes (decide (link = .lost)) := by
  rw [commandBytes_eq]
  unfold State.command State.testing CommandRecord.override CommandRecord.bytes
  by_cases hr : (s.bay b).ctl.state = .running
  · by_cases hl : link = .lost <;> simp [hr, hl, bayStateCode]
  by_cases hs : (s.bay b).ctl.state = .stopping
  · by_cases hl : link = .lost <;> simp [hs, hl, bayStateCode]
  · by_cases hl : link = .lost <;> simp [hr, hs, hl, flagBit, loadModeOptCode, leBytes]

theorem showsLtu_iff (s : State) (b : Bay) :
    s.showsLtu b = true ↔ s.inLeak b = true ∨ ((s.bay b).ctl.state = .stopping ∧ (s.bay b).ltu.phase = .vent) := by
  simp [State.showsLtu]

/-- Settles O39. -/
theorem bayRead : Obligations.BayRead := by
  intro q s h
  refine ⟨fun hb => congrArg Host.Outcome.next (serve_withBay_none (fun b s => .ok s (readBayBytes s b)) h hb),
    fun b u hb hu => ?_⟩
  subst hu
  refine congrArg Host.Outcome.next ((serve_withBay (fun b s => .ok s (readBayBytes s b)) h hb).trans
    (congrArg (s.answered q .ok) (?_ : readBayBytes s b = _)))
  have hris : optGroup (s.showsRis b) (leBytes 1 (s.risView b).1 ++ leBytes 1 (risPhaseCode (s.risView b).2)) =
      if (s.bay b).ris.phase = .idle then [0, 0, 0]
      else [1, BitVec.ofNat 8 ((s.bay b).ris.stepIndex.getD 0), BitVec.ofNat 8 (risPhaseCode (s.bay b).ris.phase)] := by
    unfold State.risView
    by_cases h : (s.bay b).ris.phase = .idle <;> simp [State.showsRis, h, optGroup, optBytes, leBytes]
  have hltu : optGroup (s.showsLtu b) (leBytes 1 (s.ltuView b).1 ++ leBytes 1 (ltuPhaseCode (s.ltuView b).2)) =
      if s.inLeak b = true ∨ ((s.bay b).ctl.state = .stopping ∧ (s.bay b).ltu.phase = .vent) then
        [1, BitVec.ofNat 8 ((s.bay b).ltu.cavityIndex.getD 0), BitVec.ofNat 8 (ltuPhaseCode (s.bay b).ltu.phase)]
      else [0, 0, 0] := by
    unfold State.ltuView
    simp only [← showsLtu_iff]
    cases s.showsLtu b <;> simp [optGroup, optBytes, leBytes]
  have hvent : (if (s.bay b).ltu.inRetryVent = true then readingBytes (s.bay b).ltu else []) =
      if (s.bay b).ltu.phase = .vent ∧ (s.bay b).ltu.afterVent = some .refill then readingBytes (s.bay b).ltu else [] := by
    simp [Ltu.inRetryVent]
  have hplan := listBytes_singletons (fun p => BitVec.ofNat 8 (subPhaseCode (some p))) (s.bay b).ctl.plan
  have hroles := listBytes_map (fun p : Role × EntryIx => [BitVec.ofNat 8 (roleCode p.1), BitVec.ofNat 8 p.2.val])
    (s.bay b).ctl.roles
  have hcommand := command_bytes s b .up
  unfold readBayBytes
  dsimp only
  rw [optByte_eq _ subPhaseCode, optByte_eq _ causeCode, hris, hltu, hvent, ← hplan, ← hroles, show (s.command b).bytes = _ from hcommand]
  have hspu : optGroup (s.bay b).spu.active
        (leBytes 2 (s.bay b).spu.speed ++ [flagByte (s.bay b).spu.reverse, flagByte (s.bay b).spu.standstill]) =
      optBytes 4 (if (s.bay b).spu.active = true then some (leBytes 2 (s.bay b).spu.speed
        ++ [if (s.bay b).spu.reverse then 1 else 0, if (s.bay b).spu.standstill then 1 else 0]) else none) := rfl
  have hstop : optGroup ((s.bay b).ctl.state == .stopping) (leBytes 4 (s.bay b).ctl.stoppingTime) =
      optBytes 4 (if (s.bay b).ctl.state = .stopping then some (leBytes 4 (s.bay b).ctl.stoppingTime) else none) := by
    unfold optGroup
    simp only [beq_iff_eq]
    rfl
  rw [hspu, hstop]
  simp only [leBytes_one, optIndex, flagByte, alarmWord, readingBytes, List.append_assoc, List.cons_append, List.nil_append,
    reduceCtorEq, decide_false]

/-! ### Requests that are refused -/

theorem headRequest_refused {q : MgmtRequest} {s : State} {st : Status} (hq : s.headRequest = some q)
    (hf : requestFault q.payload = some st) : exec .unknownCommand s = .next (s.answered q st []) := by
  show Host.Outcome.next (serveRefusal s) = _
  simp [serveRefusal, hq, hf, State.answered]

theorem commandOf_none {n : Nat} (h : n = 0 ∨ 22 < n) : commandOf n = none := by
  unfold commandOf
  split
  case h_23 => rfl
  all_goals omega

/-- Settles O45. -/
theorem requestRefused : Obligations.RequestRefused := by
  intro q s hq
  have henv (h1 : 6 ≤ q.payload.length) (h2 : natAt q.payload 4 2 = q.payload.length - 6) : envelopeOk q.payload = true := by
    simp [envelopeOk, h1, h2]
  refine ⟨fun h => headRequest_refused hq ?_, fun h1 h2 => ⟨fun h => headRequest_refused hq ?_, fun c hc ha =>
    headRequest_refused hq ?_⟩, fun ht h => ?_, fun ht h => ?_, fun ht h => ?_⟩
  · have : envelopeOk q.payload = false := by
      rw [Bool.eq_false_iff]
      simp only [envelopeOk, ne_eq, Bool.and_eq_true, decide_eq_true_eq, beq_iff_eq]
      omega
    simp [requestFault, this]
  · simp [requestFault, henv h1 h2, show commandOf (reqCode q.payload) = none from commandOf_none h]
  · simp [requestFault, henv h1 h2, show commandOf (reqCode q.payload) = some c from hc,
      show argsFit c (reqArgs q.payload) = false from ha]
  · refine congrArg Host.Outcome.next (serve_refused ht ?_)
    unfold doBayStart
    split
    next b k serial hb hk hs =>
      rw [bayArg_eq] at hb
      rw [slotArg_eq] at hk
      have := b.isLt
      have := k.isLt
      obtain h | h | h := h
      · omega
      · omega
      · rw [h] at hs; cases hs
    · rfl
  · refine congrArg Host.Outcome.next (serve_refused ht ?_)
    unfold doRecipeCommit
    rw [slotArg_none.mpr h]
  · refine congrArg Host.Outcome.next (serve_refused ht ?_)
    unfold doRecipePage
    split
    · rfl
    next k hk =>
      rw [slotArg_eq] at hk
      have := k.isLt
      dsimp only
      split
      · rfl
      · next hw =>
        have hw' : 1 ≤ byteAt (reqArgs q.payload) 2 ∧ byteAt (reqArgs q.payload) 2 ≤ 8 := by
          simpa [within] using hw
        rw [if_pos (by omega)]

end Sys2Proof.Machine
end

section
/-! Events and counters, the verdict of a record, and what an entry to COMPLETE finalizes. -/

namespace Sys2Proof.Machine

/-! ### Counters of one event -/

theorem Counter.added_eq (n : Nat) (c : Counter) : c.added n = c.add n := by
  have hmax : counterMax = 2 ^ 32 - 1 := rfl
  have hv : (c.add n).value = min (c.value + n) (2 ^ 32 - 1) := by rw [Counter.add_value, hmax]
  have hsat : (!decide (c.value + n < counterMax)) = decide (2 ^ 32 - 1 ≤ c.value + n) := by
    rw [hmax, ← decide_not]; exact decide_eq_decide.mpr not_lt
  have hlim : (c.alarmLimit != 0 && decide (c.alarmLimit ≤ (c.add n).value)) =
      decide (c.alarmLimit ≠ 0 ∧ c.alarmLimit ≤ min (c.value + n) (2 ^ 32 - 1)) := by
    rw [hv, Bool.decide_and]
    congr 1
    rw [Bool.eq_iff_iff]
    simp
  unfold Counter.added
  rw [← hsat, ← hlim, ← hv]
  rfl

/-- The counters of an event pass it when mode and filters select it (R152). -/
theorem Counter.passes_iff (c : Counter) (ev : CounterEvent) (b : Bay) (k : Option SlotIx) (x : Option ResultName) :
    c.passes { event := ev, bay := some b, result := x, slot := k } = true ↔ c.event = ev ∧ c.selects b k x := by
  unfold Counter.passes Counter.selects
  have hresult : (c.resultSet == 0 || (match x with | none => true | some r => c.resultSet.getLsbD (resultBit r).val)) = true ↔
      ∀ y : ResultName, x = some y → c.resultSet = 0 ∨ c.resultSet.getLsbD (resultBit y).val = true := by
    cases x <;> simp
  have hslot : (match c.slotMatch, k with | some k, some j => k == j | _, _ => true) = true ↔
      ∀ j : SlotIx, k = some j → c.slotMatch = none ∨ c.slotMatch = some j := by
    cases c.slotMatch <;> cases k <;> simp
  simp only [Bool.and_eq_true, beq_iff_eq, and_assoc]
  rw [and_congr_right_iff]
  intro _
  rw [and_congr_right_iff]
  intro _
  exact and_congr (by simp) (and_congr hresult hslot)

/-- The counters of an event stand, and every counter keeps its event. -/
def EventKept (ev : CounterEvent) (s t : State) : Prop :=
  ∀ i : Fin 8, (t.stc.counters.get i).event = (s.stc.counters.get i).event
    ∧ ((s.stc.counters.get i).event = ev → t.stc.counters.get i = s.stc.counters.get i)

theorem EventKept.refl (ev : CounterEvent) (s : State) : EventKept ev s s := fun _ => ⟨rfl, fun _ => rfl⟩

theorem EventKept.trans {ev : CounterEvent} {s t u : State} (h : EventKept ev s t) (g : EventKept ev t u) : EventKept ev s u :=
  fun i => ⟨(g i).1.trans (h i).1, fun he => ((g i).2 ((h i).1.trans he)).trans ((h i).2 he)⟩

theorem EventKept.ite {ev : CounterEvent} {s t u : State} {c : Prop} [Decidable c] (h : EventKept ev s t) (g : EventKept ev s u) :
    EventKept ev s (if c then t else u) := by
  split
  · exact h
  · exact g

theorem EventKept.of_stc {ev : CounterEvent} {s t : State} (h : t.stc = s.stc) : EventKept ev s t := by
  intro i
  rw [h]
  exact ⟨rfl, fun _ => rfl⟩

/-- An event leaves the counters of another event alone. -/
theorem emit_kept {ev : CounterEvent} (s : State) {e : CounterEvt} (h : e.event ≠ ev) : EventKept ev s (s.emit e) := by
  intro i
  rw [State.emit_counter]
  split
  · next hp =>
    refine ⟨rfl, fun he => ?_⟩
    unfold Counter.passes at hp
    simp only [Bool.and_eq_true, beq_iff_eq] at hp
    exact absurd (hp.1.1.1.1.symm.trans he) h
  · exact ⟨rfl, fun _ => rfl⟩

theorem emitBay_kept {ev : CounterEvent} (s : State) (b : Bay) {e : CounterEvent} (x : Option ResultName) (h : e ≠ ev) :
    EventKept ev s (s.emitBay e b x) := emit_kept s h

/-- An event of a bay is counted. -/
theorem emit_counted (s : State) (ev : CounterEvent) (b : Bay) (k : Option SlotIx) (x : Option ResultName) :
    Counted ev b k x s (s.emit { event := ev, bay := some b, result := x, slot := k }) := by
  intro i hi
  have hp := (s.stc.counters.get i).passes_iff ev b k x
  rw [State.emit_counter]
  refine ⟨fun h => ?_, fun h => ?_⟩
  · rw [if_pos (hp.mpr ⟨hi, h⟩), Counter.added_eq]
  · rw [if_neg (fun hc => h (hp.mp hc).2)]

theorem Counted.then {ev : CounterEvent} {b : Bay} {k : Option SlotIx} {x : Option ResultName} {s t u : State}
    (h : Counted ev b k x s t) (hk : ∀ i, (t.stc.counters.get i).event = (s.stc.counters.get i).event) (g : EventKept ev t u) :
    Counted ev b k x s u := fun i hi =>
  ⟨fun hs => ((g i).2 ((hk i).trans hi)).trans ((h i hi).1 hs), fun hs => ((g i).2 ((hk i).trans hi)).trans ((h i hi).2 hs)⟩

theorem EventKept.counted {ev : CounterEvent} {b : Bay} {k : Option SlotIx} {x : Option ResultName} {s t u : State}
    (h : EventKept ev s t) (g : Counted ev b k x t u) : Counted ev b k x s u := fun i hi => by
  have hg := g i ((h i).1.trans hi)
  rwa [(h i).2 hi] at hg

theorem emit_events (s : State) (e : CounterEvt) (i : Fin 8) :
    ((s.emit e).stc.counters.get i).event = (s.stc.counters.get i).event := by
  rw [State.emit_counter]
  split <;> rfl

theorem grantLoop_kept {ev : CounterEvent} (h : .laneGrant ≠ ev) (l : List LaneRequest) (s : State) :
    EventKept ev s (grantLoop l s) := by
  induction l generalizing s with
  | nil => exact .refl _ _
  | cons q rest ih =>
    unfold grantLoop
    refine .ite (.trans ?_ (ih _)) (.refl _ _)
    unfold grantOne
    split
    · exact .trans (.of_stc (by rfl)) (emitBay_kept _ _ _ h)
    · exact .refl _ _

theorem releaseBay_kept {ev : CounterEvent} (h : .laneGrant ≠ ev) (h' : .noiseAttempt ≠ ev) (b : Bay) (s : State) :
    EventKept ev s (releaseBay b s) := by
  unfold releaseBay
  have hdrop (t : State) : EventKept ev t (dropWindow b t) := .of_stc rfl
  have h1 : EventKept ev s { s with oae := { s.oae with queue := s.oae.queue.filter fun q => q.bay != b } } := .of_stc rfl
  have h2 := h1.trans (EventKept.ite (c := ((s.bay b).window.isSome || s.holdsLanes b) = true) (hdrop _) (.refl _ _))
  exact (h2.trans (.ite (emitBay_kept _ b _ h') (.refl _ _))).trans (.ite (grantLoop_kept h _ _) (.refl _ _))

/-! ### The verdict -/

/-- The verdict that finalization gives a record. -/
def State.verdictFor (s : State) (r : AxleRecord) : Verdict := verdictOf (s.recipeCounts r.slot).1 (s.recipeCounts r.slot).2 r

theorem finalized_eq (now : BitVec 32) (v : Verdict) (r : AxleRecord) : finalized now v r = r.concluded now v := by
  unfold finalized AxleRecord.concluded reasonsOf
  simp only [AxleRecord.mk.injEq, Option.some.injEq, FailReasons.mk.injEq, true_and, and_true]
  refine ⟨?_, ?_, ?_⟩
  all_goals
    rw [Bool.eq_iff_iff, List.any_eq_true]
    simp

theorem verdictFor_aborted {s : State} {r : AxleRecord} (h : r.cause.isSome = true) : s.verdictFor r = .aborted := by
  simp [State.verdictFor, verdictOf, h]

theorem Recipe.measureCount_eq (q : Recipe) : q.measureCount = (q.steps.filter fun x => x.kind = .measure).length := by
  unfold Recipe.measureCount
  rw [List.countP_eq_length_filter]
  congr 2

/-- The verdict of R35 under the recipe of the record's slot. -/
theorem verdictFor_is {s : State} {r : AxleRecord} {q : Recipe} (h : (s.slot r.slot).recipe = some q) :
    VerdictIs q r (s.verdictFor r) := by
  have hcounts : s.recipeCounts r.slot = (q.measureCount, q.cavities.length) := by
    unfold State.recipeCounts
    rw [show (s.rbk.get r.slot).recipe = some q from h]
  have hfail : (r.noise.any (fun n => n.result == .fail) || r.leaks.any (fun l => l.result == .fail || l.result == .gross)) = true ↔
      (∃ n ∈ r.noise, n.result = .fail) ∨ ∃ l ∈ r.leaks, l.result = .fail ∨ l.result = .gross := by simp
  have hinc : (r.noise.any (fun n => n.result == .incomplete) || r.leaks.any (fun l => l.result == .incomplete)
        || r.noise.length < q.measureCount || r.leaks.length < q.cavities.length) = true ↔
      (∃ n ∈ r.noise, n.result = .incomplete) ∨ (∃ l ∈ r.leaks, l.result = .incomplete)
        ∨ r.noise.length < (q.steps.filter fun x => x.kind = .measure).length ∨ r.leaks.length < q.cavities.length := by
    rw [Recipe.measureCount_eq]
    simp [or_assoc]
  unfold State.verdictFor verdictOf
  rw [hcounts]
  refine ⟨fun hc => ?_, fun hc hf => ?_, fun hc hn hl => ?_⟩
  · rw [if_pos (Option.isSome_iff_ne_none.mpr hc)]
  · rw [hc, if_neg (by simp), if_pos (hfail.mpr hf)]
  · have hnot : ¬ (r.noise.any (fun n => n.result == .fail)
        || r.leaks.any (fun l => l.result == .fail || l.result == .gross)) = true := by
      rw [hfail]
      rintro (⟨n, hm, he⟩ | ⟨l, hm, he⟩)
      · exact hn n hm he
      · exact he.elim (hl l hm).1 (hl l hm).2
    rw [hc, if_neg (by simp), if_neg hnot]
    exact if_congr hinc rfl rfl

theorem verdictAt_eq {s : State} {b : Bay} {i : RecIx} {r : AxleRecord} (h : s.bindsOpen b i r) :
    s.verdictAt b = some (s.verdictFor r) := by
  unfold State.verdictAt
  rw [openRecord_eq_some.mpr h]
  rfl

/-! ### Finalization -/

/-- Record i, with content r, has been finalized at a cell time (R34). -/
def FinalizedAt (now : BitVec 32) (i : RecIx) (r : AxleRecord) (v : Verdict) (s t : State) : Prop :=
  t.art.get i = some (r.concluded now v) ∧ t.rsp.spool = s.rsp.spool ++ [i]
    ∧ (t.slot r.slot).pins = (s.slot r.slot).pins - 1
    ∧ Counted .axleDone r.bay (some r.slot) (some (verdictResult v)) s t

theorem enterComplete_finalizes {b : Bay} {s : State} {i : RecIx} {r : AxleRecord} (h : s.bindsOpen b i r) :
    FinalizedAt s.tbs.cellTime i r (s.verdictFor r) s (enterComplete b s) := by
  have hbooks := enterComplete_books b s
  have hfin : s.finalizedAt b = (finalize i r s).1 := by
    unfold State.finalizedAt
    rw [openRecord_eq_some.mpr h]
  have hkept : EventKept .axleDone (finalize i r s).1 (enterComplete b s) := by
    rw [enterComplete_eq, hfin]
    have h1 : EventKept .axleDone (finalize i r s).1 ((finalize i r s).1.updCtl b BayCtl.unbind) := .of_stc rfl
    exact (h1.trans (releaseBay_kept (by decide) (by decide) b _)).trans (.of_stc rfl)
  rw [hfin] at hbooks
  obtain ⟨hart, hrbk, hrsp⟩ := hbooks
  refine ⟨?_, ?_, ?_, ?_⟩
  · rw [hart]
    show ((s.art.set i (some (finalized s.tbs.cellTime (s.verdictFor r) r)))).get i = _
    rw [get_set_art, if_pos rfl, finalized_eq]
  · rw [hrsp]; rfl
  · unfold State.slot
    rw [hrbk]
    show ((s.rbk.set r.slot { s.rbk.get r.slot with pins := (s.rbk.get r.slot).pins - 1 }).get r.slot).pins = _
    simp [Vector.get_eq_getElem]
  · refine Counted.then (t := (finalize i r s).1) ?_ ?_ hkept
    · exact emit_counted { s.unpin r.slot with
        art := (s.unpin r.slot).art.set i (some (finalized (s.unpin r.slot).tbs.cellTime (s.verdictFor r) r))
        rsp := { (s.unpin r.slot).rsp with spool := (s.unpin r.slot).rsp.spool ++ [i] } } .axleDone r.bay (some r.slot) _
    · exact fun j => emit_events { s.unpin r.slot with
        art := (s.unpin r.slot).art.set i (some (finalized (s.unpin r.slot).tbs.cellTime (s.verdictFor r) r))
        rsp := { (s.unpin r.slot).rsp with spool := (s.unpin r.slot).rsp.spool ++ [i] } } _ j

/-- Fail count and quality stop after a verdict (R17). -/
theorem BayCtl.completed_judged (limit : Nat) (v : Verdict) (c : BayCtl) : QualityJudged limit v c (c.completed limit (some v)) := by
  unfold QualityJudged BayCtl.completed BayCtl.judged BayCtl.qualityStop BayCtl.unbind
  cases v
  case fail =>
    dsimp only
    by_cases h : limit ≠ 0 ∧ limit ≤ min 15 (c.failCount + 1)
    · rw [if_pos h]
      exact ⟨rfl, fun _ => ⟨rfl, rfl⟩, fun hn => absurd ⟨rfl, h⟩ hn⟩
    · rw [if_neg h]
      exact ⟨rfl, fun hn => absurd hn.2 h, fun _ => ⟨rfl, rfl⟩⟩
  all_goals exact ⟨rfl, fun h => absurd h.1 nofun, fun _ => ⟨rfl, rfl⟩⟩

/-- But for fail count, QSTOP and lock-pending a controller is completed in the same way whatever the verdict. -/
theorem BayCtl.completed_fields (limit : Nat) (v : Option Verdict) (c : BayCtl) :
    ∃ n a l, c.completed limit v =
        { c with state := .complete, subPhase := none, bound := none, last := c.bound
                 failCount := n, alarms := a, lockPending := l } ∧ alarmsWithin c.alarms a ∧ (c.lockPending = true → l = true) := by
  unfold BayCtl.completed BayCtl.judged BayCtl.unbind
  have hsame : ∀ n, ∃ m a l,
      ({ c with state := .complete, subPhase := none, bound := none, last := c.bound, failCount := n } : BayCtl) =
        { c with state := .complete, subPhase := none, bound := none, last := c.bound
                 failCount := m, alarms := a, lockPending := l }
        ∧ alarmsWithin c.alarms a ∧ (c.lockPending = true → l = true) :=
    fun n => ⟨n, c.alarms, c.lockPending, rfl, alarmsWithin_refl _, id⟩
  cases v with
  | none => exact hsame c.failCount
  | some v =>
    unfold BayCtl.qualityStop
    cases v
    case pass => exact hsame 0
    case incomplete => exact hsame c.failCount
    case aborted => exact hsame c.failCount
    case fail =>
      dsimp only
      split
      · exact ⟨_, _, _, rfl, alarmsWithin_or _ _, fun _ => rfl⟩
      · exact hsame _

/-- Without a verdict, or with ABORTED, the quality stop is not tested (R17). -/
theorem BayCtl.completed_untested (limit : Nat) {v : Option Verdict} (h : v = none ∨ v = some .aborted) (c : BayCtl) :
    c.completed limit v = { c with state := .complete, subPhase := none, bound := none, last := c.bound } := by
  obtain rfl | rfl := h <;> rfl

end Sys2Proof.Machine
end

section
/-! What an abort makes of the bay and of its record (R10 to R13, R101, R141). -/

namespace Sys2Proof.Machine

/-! ### Writes into the bound record -/

/-- Work that writes the bay's bound record by f, and no other record, slot, spool queue or count of AXLE_DONE. -/
structure Writes (b : Bay) (f : AxleRecord → AxleRecord) (s t : State) : Prop where
  content : ContentOnly f
  bound : (t.bay b).ctl.bound = (s.bay b).ctl.bound
  art : t.art = (s.writeBound b f).art
  rbk : t.rbk = s.rbk
  rsp : t.rsp = s.rsp
  done : EventKept .axleDone s t

theorem writeBound_id (s : State) (b : Bay) : (s.writeBound b id).art = s.art := by
  unfold State.writeBound
  split
  · rfl
  split
  next r hr =>
    split
    · next ho =>
      show s.art.set _ (some r) = s.art
      rw [← hr]
      exact Vector.set_getElem_self _
    · rfl
  · rfl

theorem writeBound_writeBound {s t : State} {b : Bay} {f g : AxleRecord → AxleRecord} (hf : ContentOnly f)
    (hb : (t.bay b).ctl.bound = (s.bay b).ctl.bound) (ha : t.art = (s.writeBound b f).art) :
    (t.writeBound b g).art = (s.writeBound b (g ∘ f)).art := by
  by_cases h : ∃ i r, s.bindsOpen b i r
  · obtain ⟨i, r, hir⟩ := h
    rw [writeBound_open f hir] at ha
    have hget : t.art.get i = some (f r) := by rw [ha]; exact (get_set_art _ _ _ _).trans (if_pos rfl)
    rw [writeBound_open _ hir, writeBound_open g ⟨hb.trans hir.1, hget, (hf r).1.trans hir.2.2⟩, ha]
    exact Vector.set_set (hi := i.isLt) ..
  · have hnone : ∀ i r, ¬ s.bindsOpen b i r := fun i r hir => h ⟨i, r, hir⟩
    rw [writeBound_none _ hnone] at ha
    rw [writeBound_none _ hnone, writeBound_none g, ha]
    rintro i r ⟨h1, h2, h3⟩
    exact hnone i r ⟨hb.symm.trans h1, ha ▸ h2, h3⟩

namespace Writes

theorem refl (b : Bay) (s : State) : Writes b id s s :=
  ⟨fun _ => ⟨rfl, rfl, rfl⟩, rfl, (writeBound_id s b).symm, rfl, rfl, .refl _ _⟩

theorem trans {b : Bay} {f g : AxleRecord → AxleRecord} {s t u : State} (h : Writes b f s t) (k : Writes b g t u) :
    Writes b (g ∘ f) s u where
  content r := ⟨(k.content _).1.trans (h.content r).1, (k.content _).2.1.trans (h.content r).2.1,
    (k.content _).2.2.trans (h.content r).2.2⟩
  bound := k.bound.trans h.bound
  art := k.art.trans (writeBound_writeBound h.content h.bound h.art)
  rbk := k.rbk.trans h.rbk
  rsp := k.rsp.trans h.rsp
  done := h.done.trans k.done

/-- Work that touches no record. -/
theorem of_eq {b : Bay} {s t : State} (hb : (t.bay b).ctl.bound = (s.bay b).ctl.bound) (ha : t.art = s.art) (hr : t.rbk = s.rbk)
    (hp : t.rsp = s.rsp) (hd : EventKept .axleDone s t) : Writes b id s t :=
  ⟨fun _ => ⟨rfl, rfl, rfl⟩, hb, ha.trans (writeBound_id s b).symm, hr, hp, hd⟩

theorem of_write (b : Bay) (s : State) {f : AxleRecord → AxleRecord} (hf : ContentOnly f) : Writes b f s (s.writeBound b f) := by
  have h : ∀ g : AxleRecord → AxleRecord, (s.writeBound b g).rbk = s.rbk ∧ (s.writeBound b g).rsp = s.rsp
      ∧ (s.writeBound b g).stc = s.stc := by
    intro g
    unfold State.writeBound
    repeat' split
    all_goals exact ⟨rfl, rfl, rfl⟩
  exact ⟨hf, by rw [State.writeBound_bay], rfl, (h f).1, (h f).2.1, .of_stc (h f).2.2⟩

/-- A write that changes nothing of the record is none. -/
theorem congr {b : Bay} {f g : AxleRecord → AxleRecord} {s t : State} (h : Writes b f s t) (he : f = g) : Writes b g s t := he ▸ h

variable {b : Bay} {f : AxleRecord → AxleRecord} {s t : State} (h : Writes b f s t)
include h

/-- The bound record as it has been written. -/
theorem bindsOpen {i : RecIx} {r : AxleRecord} (hi : s.bindsOpen b i r) : t.bindsOpen b i (f r) := by
  refine ⟨h.bound.trans hi.1, ?_, (h.content r).1.trans hi.2.2⟩
  rw [h.art, writeBound_open f hi]
  exact (get_set_art _ _ _ _).trans (if_pos rfl)

theorem other {j : RecIx} (hj : (s.bay b).ctl.bound ≠ some j) : t.art.get j = s.art.get j := by
  rw [h.art]
  obtain he | ⟨r, hr, _⟩ := s.writeBound_art b f j
  · exact he
  · exact absurd hr.1 hj

/-- Without a bound OPEN record there is none afterwards. -/
theorem bindsNone (hn : ∀ i r, ¬ s.bindsOpen b i r) : ∀ i r, ¬ t.bindsOpen b i r := by
  rintro i r ⟨h1, h2, h3⟩
  rw [h.art, writeBound_none f hn] at h2
  exact hn i r ⟨h.bound.symm.trans h1, h2, h3⟩

/-- A finalization after the work is one of the record as written. -/
theorem finalized {now : BitVec 32} {i : RecIx} {r : AxleRecord} {v : Verdict} {u : State} (hf : FinalizedAt now i r v t u) :
    FinalizedAt now i r v s u := by
  obtain ⟨h1, h2, h3, h4⟩ := hf
  refine ⟨h1, by rw [h2, h.rsp], ?_, h.done.counted h4⟩
  rw [h3]
  unfold State.slot
  rw [h.rbk]

end Writes

theorem updRis_writes (b : Bay) (s : State) (f : Ris → Ris) : Writes b id s (s.updRis b f) :=
  .of_eq (by rw [State.updRis_ctl]) rfl rfl rfl (.of_stc rfl)

theorem updLtu_writes (b : Bay) (s : State) (f : Ltu → Ltu) : Writes b id s (s.updLtu b f) :=
  .of_eq (by rw [State.updLtu_ctl]) rfl rfl rfl (.of_stc rfl)

theorem updSpu_writes (b : Bay) (s : State) (f : Spu → Spu) : Writes b id s (s.updSpu b f) :=
  .of_eq (by rw [State.updSpu_ctl]) rfl rfl rfl (.of_stc rfl)

theorem updCtl_writes (b : Bay) (s : State) (f : BayCtl → BayCtl) (h : (f (s.bay b).ctl).bound = (s.bay b).ctl.bound) :
    Writes b id s (s.updCtl b f) := .of_eq (by rw [State.updCtl_ctl_same, h]) rfl rfl rfl (.of_stc rfl)

theorem emitBay_writes (b : Bay) (s : State) {e : CounterEvent} (x : Option ResultName) (h : e ≠ .axleDone) :
    Writes b id s (s.emitBay e b x) := .of_eq rfl rfl rfl rfl (emitBay_kept s b x h)

theorem releaseBay_writes (b : Bay) (s : State) : Writes b id s (releaseBay b s) := by
  obtain ⟨ha, hr, hp⟩ := releaseBay_books b s
  exact .of_eq (by rw [releaseBay_bay]) ha hr hp (releaseBay_kept (by decide) (by decide) b s)

theorem setCause_writes (b : Bay) (c : Cause) (s : State) : Writes b (fun r => { r with cause := some c }) s (setCause b c s) :=
  (Writes.of_write b s (f := fun r => { r with cause := some c }) fun _ => ⟨rfl, rfl, rfl⟩).trans
    (updCtl_writes b _ (fun x => { x with cause := some c }) rfl)

theorem offerNoise_writes (b : Bay) (s : State) (e : NoiseEntry) : Writes b (fun r => r.withNoise (some e)) s (s.offerNoise b e) := by
  have he : (fun r : AxleRecord => if (r.noise.all (fun x => x.stepIndex != e.stepIndex) && r.noise.length < 8) = true
      then { r with noise := r.noise ++ [e] } else r) = fun r => r.withNoise (some e) := by
    funext r
    exact if_congr (by simp) rfl rfl
  unfold State.offerNoise
  rw [he]
  refine .of_write b s fun r => ?_
  unfold AxleRecord.withNoise
  dsimp only
  split <;> exact ⟨rfl, rfl, rfl⟩

theorem offerLeak_writes (b : Bay) (s : State) (e : LeakEntry) : Writes b (fun r => r.withLeak (some e)) s (s.offerLeak b e) := by
  have he : (fun r : AxleRecord => if (r.leaks.all (fun x => x.id != e.id) && r.leaks.length < 3) = true
      then { r with leaks := r.leaks ++ [e] } else r) = fun r => r.withLeak (some e) := by
    funext r
    exact if_congr (by simp) rfl rfl
  unfold State.offerLeak
  rw [he]
  refine .of_write b s fun r => ?_
  unfold AxleRecord.withLeak
  dsimp only
  split <;> exact ⟨rfl, rfl, rfl⟩

theorem withNoise_none : (fun r : AxleRecord => r.withNoise none) = id := rfl
theorem withLeak_none : (fun r : AxleRecord => r.withLeak none) = id := rfl

/-! ### Recipe, step and cavity in progress -/

theorem recipeOf_congr {s t : State} {b : Bay} (hs : (t.bay b).ctl.slot = (s.bay b).ctl.slot)
    (hr : ∀ k, (t.rbk.get k).recipe = (s.rbk.get k).recipe) : t.recipeOf b = s.recipeOf b := by
  unfold State.recipeOf
  rw [hs]
  cases (s.bay b).ctl.slot with
  | none => rfl
  | some k => exact hr k

theorem stepOf_congr {s t : State} {b : Bay} (h : t.recipeOf b = s.recipeOf b) (hi : (t.bay b).ris.stepIndex = (s.bay b).ris.stepIndex) :
    t.stepOf b = s.stepOf b := by
  unfold State.stepOf
  rw [h, hi]

theorem cavityOf_congr {s t : State} {b : Bay} (h : t.recipeOf b = s.recipeOf b)
    (hi : (t.bay b).ltu.cavityIndex = (s.bay b).ltu.cavityIndex) : t.cavityOf b = s.cavityOf b := by
  unfold State.cavityOf
  rw [h, hi]

/-! ### RIS and LTU under an abort -/

/-- The RIS of a stopping bay: in RUNDOWN, or at rest where the shaft stands at commanded speed 0 (R101). -/
def Ris.runDown (standstill : Bool) (x : Ris) : Ris :=
  if x.cmdSpeed = 0 ∧ standstill = true then
    { x with phase := .idle, stepIndex := none, driveEnable := false, loadMode := none, torqueLimit := none, rampFrac := 0,
             phaseTimer := 0, hold := false, holdTimer := 0 }
  else { x with phase := .rundown, rampFrac := 0, phaseTimer := 0, hold := false, holdTimer := 0 }

theorem updRis_bay (b : Bay) (s : State) (f : Ris → Ris) : (s.updRis b f).bay b = { s.bay b with ris := f (s.bay b).ris } :=
  s.bay_updBay_same b _

theorem updLtu_bay (b : Bay) (s : State) (f : Ltu → Ltu) : (s.updLtu b f).bay b = { s.bay b with ltu := f (s.bay b).ltu } :=
  s.bay_updBay_same b _

theorem updSpu_bay (b : Bay) (s : State) (f : Spu → Spu) : (s.updSpu b f).bay b = { s.bay b with spu := f (s.bay b).spu } :=
  s.bay_updBay_same b _

theorem updCtl_bay (b : Bay) (s : State) (f : BayCtl → BayCtl) : (s.updCtl b f).bay b = { s.bay b with ctl := f (s.bay b).ctl } :=
  s.bay_updBay_same b _

theorem stopRundown_bay (b : Bay) (s : State) :
    (stopRundown b s).bay b = { s.bay b with ris := (s.bay b).ris.runDown (s.bay b).spu.standstill } := by
  unfold stopRundown rundownTest Ris.runDown
  have hrest : (s.updRis b fun r => { r with phase := .rundown, rampFrac := 0, phaseTimer := 0, hold := false, holdTimer := 0 }).atStandstill b
      = ((s.bay b).ris.cmdSpeed == 0 && (s.bay b).spu.standstill) := by
    unfold State.atStandstill
    rw [updRis_bay]
  rw [hrest, State.updRis_ris_same]
  by_cases h : (s.bay b).ris.cmdSpeed = 0 ∧ (s.bay b).spu.standstill = true
  · rw [if_pos ⟨rfl, by simp [h]⟩, if_pos h, updRis_bay, updRis_bay]
    rfl
  · rw [if_neg (fun hc => h (by simpa using hc.2)), if_neg h, updRis_bay]

theorem stopRundown_writes (b : Bay) (s : State) : Writes b id s (stopRundown b s) := by
  unfold stopRundown rundownTest
  split
  · exact (updRis_writes b s _).trans (updRis_writes b _ _)
  · exact updRis_writes b s _

theorem offerNoise_bay (b c : Bay) (s : State) (e : NoiseEntry) : (s.offerNoise b e).bay c = s.bay c := s.writeBound_bay b c _
theorem offerLeak_bay (b c : Bay) (s : State) (e : LeakEntry) : (s.offerLeak b e).bay c = s.bay c := s.writeBound_bay b c _

theorem risAbort_bay (b : Bay) (s : State) : (risAbort b s).bay b =
    { s.bay b with ris := if (s.bay b).ris.phase = .idle then (s.bay b).ris
                          else (s.bay b).ris.runDown (s.bay b).spu.standstill } := by
  unfold risAbort
  dsimp only
  split
  · rfl
  split
  · split
    · rw [stopRundown_bay, offerNoiseEntry, offerNoise_bay]
    · rw [stopRundown_bay]
  · rw [stopRundown_bay]

theorem risAbort_writes (b : Bay) (s : State) : Writes b (fun r => r.withNoise (s.abortNoise b)) s (risAbort b s) := by
  unfold risAbort State.abortNoise
  dsimp only
  by_cases hi : (s.bay b).ris.phase = .idle
  · rw [if_pos hi, hi]
    exact .refl b s
  rw [if_neg hi]
  by_cases hm : (s.bay b).ris.phase = .measureWait ∨ (s.bay b).ris.phase = .measure
  · simp only [if_pos hm]
    cases s.stepOf b with
    | none => exact (stopRundown_writes b s).congr withNoise_none
    | some st => exact (offerNoise_writes b s _).trans (stopRundown_writes b _)
  · simp only [if_neg hm]
    exact (stopRundown_writes b s).congr withNoise_none

theorem offerLeakEntry_writes (b : Bay) (c : Cavity) (x : LeakResult) (s : State) :
    Writes b (fun r => r.withLeak (some (s.leakEntry b c x))) s (offerLeakEntry b c x s) :=
  (offerLeak_writes b s (s.leakEntry b c x)).trans (updLtu_writes b _ fun u => { u with offered := true })

theorem offerLeakEntry_bay (b : Bay) (c : Cavity) (x : LeakResult) (s : State) :
    (offerLeakEntry b c x s).bay b = { s.bay b with ltu := { (s.bay b).ltu with offered := true } } := by
  unfold offerLeakEntry
  rw [updLtu_bay, offerLeak_bay]

theorem incompleteEnd_writes (b : Bay) (c : Cavity) (s : State) :
    Writes b (fun r => r.withLeak (some (s.leakEntry b c .incomplete))) s (incompleteEnd b c s) :=
  (emitBay_writes b s _ (by decide)).trans (offerLeakEntry_writes b c .incomplete _)

theorem incompleteEnd_bay (b : Bay) (c : Cavity) (s : State) :
    (incompleteEnd b c s).bay b = { s.bay b with ltu := { (s.bay b).ltu with offered := true } } :=
  offerLeakEntry_bay b c .incomplete _

theorem ltuAbort_bay (b : Bay) (s : State) :
    ∃ a, (ltuAbort b s).bay b = { s.bay b with ltu := { s.abortedLtu b with afterVent := a } } := by
  unfold ltuAbort State.abortedLtu
  cases s.cavityOf b with
  | none => exact ⟨_, rfl⟩
  | some c =>
    have hvent : ∀ u : Ltu, u.phase = .vent → u.offered = true → u = { u with phase := .vent, offered := true } := by
      rintro ⟨⟩ rfl rfl
      rfl
    dsimp only
    cases hp : (s.bay b).ltu.phase
    case vent =>
      dsimp only
      split
      · next ho => exact ⟨(s.bay b).ltu.afterVent, congrArg (fun u => { s.bay b with ltu := u }) (hvent _ hp ho)⟩
      · exact ⟨(s.bay b).ltu.afterVent, by simp only [offerLeakEntry_bay, hp]⟩
    case idle => exact ⟨_, rfl⟩
    case done => exact ⟨_, rfl⟩
    case coolWait => exact ⟨_, by dsimp only; rw [updLtu_bay, incompleteEnd_bay]⟩
    all_goals exact ⟨some .next, by dsimp only; rw [updLtu_bay, incompleteEnd_bay]; rfl⟩

theorem ltuAbort_writes (b : Bay) (s : State) : Writes b (fun r => r.withLeak (s.abortLeak b)) s (ltuAbort b s) := by
  unfold ltuAbort State.abortLeak
  cases s.cavityOf b with
  | none => exact .refl b s
  | some c =>
    dsimp only
    cases hp : (s.bay b).ltu.phase
    case vent =>
      by_cases ho : (s.bay b).ltu.offered = true
      · simp only [ho, if_true]
        exact .refl b s
      · simp only [ho]
        exact offerLeakEntry_writes b c .incomplete s
    case idle => exact .refl b s
    case done => exact .refl b s
    all_goals exact (incompleteEnd_writes b c s).trans (updLtu_writes b _ _)

end Sys2Proof.Machine
end

section
/-! The whole of an abort: the bay, its record, and the lanes (R10 to R13, R16, R34, R110). -/

namespace Sys2Proof.Machine

/-! ### Lanes after a release -/

/-- Queue and lanes hold nothing of the bay. -/
structure ClearOf (b : Bay) (o : Oae) : Prop where
  queue : ∀ q ∈ o.queue, q.bay ≠ b
  lanes : ∀ (l : LaneIx) (u : LaneUse), o.lanes.get l = some u → u.bay ≠ b

theorem bindLanes_clear {b c : Bay} (hbc : c ≠ b) (rs : List LaneRole) (lanes : Vector (Option LaneUse) 8)
    (h : ∀ (l : LaneIx) (u : LaneUse), lanes.get l = some u → u.bay ≠ b) :
    ∀ (l : LaneIx) (u : LaneUse), (bindLanes c rs lanes).get l = some u → u.bay ≠ b := by
  induction rs generalizing lanes with
  | nil => exact h
  | cons r rs ih =>
    unfold bindLanes
    split
    · next i _ =>
      refine ih _ fun l u hu => ?_
      simp only [Vector.get_eq_getElem, Vector.getElem_set] at hu
      split at hu
      · cases hu; exact hbc
      · exact h l u hu
    · exact h

theorem grantLoop_clear {b : Bay} (l : List LaneRequest) (s : State) (hl : ∀ q ∈ l, q.bay ≠ b)
    (h : ∀ (i : LaneIx) (u : LaneUse), s.oae.lanes.get i = some u → u.bay ≠ b) : ClearOf b (grantLoop l s).oae := by
  induction l generalizing s with
  | nil => exact ⟨by simp [grantLoop], h⟩
  | cons q rest ih =>
    unfold grantLoop
    split
    · refine ih _ (fun x hx => hl x (List.mem_cons_of_mem q hx)) ?_
      unfold grantOne
      split
      · exact bindLanes_clear (hl q List.mem_cons_self) _ _ h
      · exact h
    · exact ⟨hl, h⟩

theorem freeBayLanes_clear (b : Bay) (lanes : Vector (Option LaneUse) 8) (l : LaneIx) (u : LaneUse)
    (h : (freeBayLanes b lanes).get l = some u) : u.bay ≠ b := by
  unfold freeBayLanes at h
  simp only [Vector.get_eq_getElem, Vector.getElem_map] at h
  split at h
  · split at h
    · cases h
    · cases h; assumption
  · cases h

theorem not_holdsLanes {s : State} {b : Bay} (h : s.holdsLanes b = false) (l : LaneIx) (u : LaneUse)
    (hu : s.oae.lanes.get l = some u) : u.bay ≠ b := by
  intro hb
  have hmem : some u ∈ s.oae.lanes.toList := by
    rw [← hu]
    exact Vector.mem_toList_iff.mpr (Vector.getElem_mem l.isLt)
  unfold State.holdsLanes at h
  have := List.any_eq_false.mp h _ hmem
  simp [hb] at this

/-- After a release neither queue nor lanes hold anything of the bay (R110). -/
theorem releaseBay_clear (b : Bay) (s : State) : ClearOf b (releaseBay b s).oae := by
  unfold releaseBay
  dsimp only
  have hq : ∀ q ∈ s.oae.queue.filter fun q => q.bay != b, q.bay ≠ b := fun q hq => by simpa using (List.mem_filter.mp hq).2
  generalize hs1 : ({ s with oae := { s.oae with queue := s.oae.queue.filter fun q => q.bay != b } } : State) = s1
  have hq1 : ∀ q ∈ s1.oae.queue, q.bay ≠ b := by rw [← hs1]; exact hq
  generalize hs2 : (if ((s.bay b).window.isSome || s.holdsLanes b) = true then dropWindow b s1 else s1) = s2
  have h2 : ClearOf b s2.oae := by
    rw [← hs2]
    split
    · exact ⟨hq1, fun l u hu => freeBayLanes_clear b _ l u hu⟩
    · next hw =>
      simp only [Bool.or_eq_true, not_or, Bool.not_eq_true] at hw
      exact ⟨hq1, fun l u hu => not_holdsLanes hw.2 l u (by rw [← hs1] at hu; exact hu)⟩
  generalize hs3 : (if (s.hasRequest b || ((s.bay b).window.isSome || s.holdsLanes b)) = true
    then s2.emitBay .noiseAttempt b (some .nomeas) else s2) = s3
  have h3 : ClearOf b s3.oae := by rw [← hs3]; split <;> exact h2
  split
  · exact grantLoop_clear _ s3 h3.queue h3.lanes
  · exact h3

theorem enterComplete_clear (b : Bay) (s : State) : ClearOf b (enterComplete b s).oae := by
  rw [enterComplete_eq]
  exact releaseBay_clear b _

/-! ### The abort -/

/-- The controller of an aborted bay (R10, R12, R33). -/
def BayCtl.halted (cause : Cause) (c : BayCtl) : BayCtl :=
  { c with cause := some cause, state := .stopping, subPhase := none, stoppingTime := 0 }

/-- An aborted bay, but for the test of R13. -/
def abortCore (b : Bay) (cause : Cause) (s : State) : State :=
  releaseBay b (ltuAbort b (risAbort b ((setCause b cause s).updCtl b BayCtl.stop)))

theorem abortBay_eq (b : Bay) (cause : Cause) (s : State) : abortBay b cause s = testStopped b (abortCore b cause s) := rfl

/-- The record of an aborted bay (R30, R32, R33). -/
def AxleRecord.aborted (cause : Cause) (e : Option NoiseEntry) (x : Option LeakEntry) (r : AxleRecord) : AxleRecord :=
  ({ r with cause := some cause }.withNoise e).withLeak x

theorem AxleRecord.aborted_cause (cause : Cause) (e : Option NoiseEntry) (x : Option LeakEntry) (r : AxleRecord) :
    (r.aborted cause e x).cause = some cause := by
  have hn : ({ r with cause := some cause }.withNoise e).cause = some cause := by
    unfold AxleRecord.withNoise
    split
    · rfl
    · split <;> rfl
  unfold AxleRecord.aborted AxleRecord.withLeak
  split
  · exact hn
  · split <;> exact hn

theorem haltCause_bay (b : Bay) (cause : Cause) (s : State) :
    ((setCause b cause s).updCtl b BayCtl.stop).bay b = { s.bay b with ctl := (s.bay b).ctl.halted cause } := by
  rw [updCtl_bay, setCause_bay, if_pos rfl]
  rfl

theorem haltCause_writes (b : Bay) (cause : Cause) (s : State) :
    Writes b (fun r => { r with cause := some cause }) s ((setCause b cause s).updCtl b BayCtl.stop) :=
  (setCause_writes b cause s).trans (updCtl_writes b _ BayCtl.stop rfl)

/-- The RIS of a bay that has been aborted. -/
theorem stoppedRis_eq (s : State) (b : Bay) : ∃ n,
    (if (s.bay b).ris.phase = .idle then (s.bay b).ris else (s.bay b).ris.runDown (s.bay b).spu.standstill) =
      { s.stoppedRis b with phaseTimer := n } := by
  unfold State.stoppedRis Ris.runDown
  split
  · exact ⟨_, rfl⟩
  · by_cases h : (s.bay b).ris.cmdSpeed = 0 ∧ (s.bay b).spu.standstill = true
    · rw [if_pos h, if_pos h.symm]; exact ⟨0, rfl⟩
    · rw [if_neg h, if_neg fun hc => h hc.symm]; exact ⟨0, rfl⟩

/-- Bay and record of an aborted bay, but for the test of R13. -/
theorem abortCore_spec (b : Bay) (cause : Cause) (s : State) :
    (∃ n a, (abortCore b cause s).bay b =
      { ctl := (s.bay b).ctl.halted cause, spu := (s.bay b).spu, ris := { s.stoppedRis b with phaseTimer := n },
        ltu := { s.abortedLtu b with afterVent := a }, window := none })
    ∧ Writes b (AxleRecord.aborted cause (s.abortNoise b) (s.abortLeak b)) s (abortCore b cause s) := by
  generalize h1 : (setCause b cause s).updCtl b BayCtl.stop = s1
  have hb1 : s1.bay b = { s.bay b with ctl := (s.bay b).ctl.halted cause } := by rw [← h1]; exact haltCause_bay b cause s
  have hw1 : Writes b (fun r => { r with cause := some cause }) s s1 := by rw [← h1]; exact haltCause_writes b cause s
  have hr1 : s1.recipeOf b = s.recipeOf b := recipeOf_congr (by rw [hb1]; rfl) fun k => by rw [hw1.rbk]
  have hst : s1.stepOf b = s.stepOf b := stepOf_congr hr1 (by rw [hb1])
  have hc1 : s1.cavityOf b = s.cavityOf b := cavityOf_congr hr1 (by rw [hb1])
  generalize h2 : risAbort b s1 = s2
  have hb2 := risAbort_bay b s1
  have hw2 := risAbort_writes b s1
  rw [h2] at hb2 hw2
  obtain ⟨n, hn⟩ := stoppedRis_eq s b
  rw [hb1] at hb2
  dsimp only at hb2
  rw [hn] at hb2
  have hc2 : s2.cavityOf b = s.cavityOf b := by
    refine (cavityOf_congr (recipeOf_congr ?_ fun k => by rw [hw2.rbk]) ?_).trans hc1
    · rw [hb2, hb1]
    · rw [hb2, hb1]
  have hltu : s2.abortedLtu b = s.abortedLtu b := by
    unfold State.abortedLtu
    rw [hc2, hb2]
  have hleak : s2.abortLeak b = s.abortLeak b := by
    unfold State.abortLeak State.leakEntry
    rw [hc2, hb2]
  have hnoise : s1.abortNoise b = s.abortNoise b := by
    unfold State.abortNoise
    rw [hst, hb1]
  obtain ⟨a, ha⟩ := ltuAbort_bay b s2
  have hw3 := ltuAbort_writes b s2
  rw [hleak] at hw3
  rw [hnoise] at hw2
  have he : abortCore b cause s = releaseBay b (ltuAbort b s2) := by rw [← h2, ← h1]; rfl
  rw [he]
  refine ⟨⟨n, a, ?_⟩, ((hw1.trans hw2).trans hw3).trans (releaseBay_writes b _)⟩
  rw [releaseBay_bay, ha, hltu, hb2]

theorem abortCore_tbs (b : Bay) (cause : Cause) (s : State) : (abortCore b cause s).tbs = s.tbs :=
  ((((setCause_work b s cause).trans (updCtl_work b _ _)).trans (risAbort_work b _)).trans
    ((ltuAbort_work b _).trans (releaseBay_work b _))).tbs

/-- The three conditions of R13 after the abort. -/
theorem abortCore_stops (b : Bay) (cause : Cause) (s : State) :
    (((abortCore b cause s).bay b).ctl.state = .stopping ∧ (abortCore b cause s).atRest b = true) ↔ s.restsAtOnce b := by
  obtain ⟨⟨n, a, hb⟩, -⟩ := abortCore_spec b cause s
  unfold State.atRest State.restsAtOnce
  rw [hb]
  simp [BayCtl.halted, and_assoc]

/-- A bay that is aborted and does not rest at once. -/
theorem abortBay_stopping {b : Bay} {s : State} (cause : Cause) (h : ¬ s.restsAtOnce b) : abortBay b cause s = abortCore b cause s := by
  rw [abortBay_eq, testStopped, if_neg (mt (abortCore_stops b cause s).mp h)]

/-- A bay that is aborted and rests at once. -/
theorem abortBay_complete {b : Bay} {s : State} (cause : Cause) (h : s.restsAtOnce b) :
    abortBay b cause s = enterComplete b (abortCore b cause s) := by
  rw [abortBay_eq, testStopped, if_pos ((abortCore_stops b cause s).mpr h)]

theorem abortCore_untested (b : Bay) (cause : Cause) (s : State) :
    (abortCore b cause s).verdictAt b = none ∨ (abortCore b cause s).verdictAt b = some .aborted := by
  obtain ⟨-, hw⟩ := abortCore_spec b cause s
  by_cases h : ∃ i r, s.bindsOpen b i r
  · obtain ⟨i, r, hir⟩ := h
    right
    rw [verdictAt_eq (hw.bindsOpen hir), verdictFor_aborted]
    rw [AxleRecord.aborted_cause]
    rfl
  · left
    have hn := hw.bindsNone fun i r hir => h ⟨i, r, hir⟩
    unfold State.verdictAt
    cases ho : (abortCore b cause s).openRecord b with
    | none => rfl
    | some x => exact absurd (openRecord_eq_some.mp ho) (hn x.1 x.2)

/-- The bay after its abort, by whether it rests at once. -/
theorem abortBay_bay (b : Bay) (cause : Cause) (s : State) :
    (¬ s.restsAtOnce b → ∃ n a, (abortBay b cause s).bay b =
      { ctl := (s.bay b).ctl.halted cause, spu := (s.bay b).spu, ris := { s.stoppedRis b with phaseTimer := n },
        ltu := { s.abortedLtu b with afterVent := a }, window := none })
    ∧ (s.restsAtOnce b → (abortBay b cause s).bay b =
      { ctl := { (s.bay b).ctl.halted cause with state := .complete, bound := none, last := (s.bay b).ctl.bound },
        spu := (s.bay b).spu, ris := .reset, ltu := .reset, window := none })
    ∧ ClearOf b (abortBay b cause s).oae := by
  obtain ⟨⟨n, a, hb⟩, -⟩ := abortCore_spec b cause s
  refine ⟨fun h => ⟨n, a, by rw [abortBay_stopping cause h, hb]⟩, fun h => ?_, ?_⟩
  · rw [abortBay_complete cause h, enterComplete_bay, hb, BayCtl.completed_untested _ (abortCore_untested b cause s)]
    rfl
  · by_cases h : s.restsAtOnce b
    · rw [abortBay_complete cause h]; exact enterComplete_clear b _
    · rw [abortBay_stopping cause h]; exact releaseBay_clear b _

/-- The record of the bay after its abort. -/
theorem abortBay_record {b : Bay} {s : State} {i : RecIx} {r : AxleRecord} (cause : Cause) (hi : s.bindsOpen b i r) :
    (¬ s.restsAtOnce b →
      (abortBay b cause s).art.get i = some (r.aborted cause (s.abortNoise b) (s.abortLeak b))
        ∧ (abortBay b cause s).rsp.spool = s.rsp.spool)
    ∧ (s.restsAtOnce b → FinalizedAt s.tbs.cellTime i (r.aborted cause (s.abortNoise b) (s.abortLeak b)) .aborted s
        (abortBay b cause s)) := by
  obtain ⟨-, hw⟩ := abortCore_spec b cause s
  have hi' := hw.bindsOpen hi
  refine ⟨fun h => ?_, fun h => ?_⟩
  · rw [abortBay_stopping cause h]
    exact ⟨hi'.2.1, by rw [hw.rsp]⟩
  · rw [abortBay_complete cause h]
    have hf := enterComplete_finalizes hi'
    rw [verdictFor_aborted (by rw [AxleRecord.aborted_cause]; rfl), abortCore_tbs] at hf
    exact hw.finalized hf

/-- The records of other bays stand. -/
theorem abortBay_other {b : Bay} {s : State} {j : RecIx} (cause : Cause) (hj : (s.bay b).ctl.bound ≠ some j) :
    (abortBay b cause s).art.get j = s.art.get j := by
  obtain ⟨⟨n, a, hb⟩, hw⟩ := abortCore_spec b cause s
  have hcore := hw.other hj
  by_cases h : s.restsAtOnce b
  · rw [abortBay_complete cause h, (enterComplete_books b _).art, ← hcore]
    unfold State.finalizedAt
    split
    · next i r ho =>
      have hne : i ≠ j := fun he => hj (by rw [← he, ← (openRecord_eq_some.mp ho).1, hb]; rfl)
      exact (get_set_art _ _ _ _).trans (if_neg hne)
    · rfl
  · rw [abortBay_stopping cause h, hcore]

/-- An abort leaves the bay stopped (R12, R16). -/
theorem abortBay_stopped (b : Bay) (cause : Cause) (s : State) :
    (abortBay b cause s).stopped b ∧ ((abortBay b cause s).bay b).ctl.cause = some cause
      ∧ ((abortBay b cause s).bay b).ctl.subPhase = none
      ∧ ((abortBay b cause s).bay b).ctl.alarms = (s.bay b).ctl.alarms := by
  obtain ⟨h1, h2, -⟩ := abortBay_bay b cause s
  unfold State.stopped
  by_cases h : s.restsAtOnce b
  · rw [h2 h]; exact ⟨.inr rfl, rfl, rfl, rfl⟩
  · obtain ⟨n, a, hb⟩ := h1 h
    rw [hb]
    exact ⟨.inl rfl, rfl, rfl, rfl⟩

end Sys2Proof.Machine
end

section
/-! Aborts by BAY_ABORT, by a fault and at a limit (O36, O52, O53), and the stop that times out (O50, O51). -/

namespace Sys2Proof.Machine

/-! ### States alike for an abort -/

/-- What an abort reads of a bay is the same: its Speed Unit, its LTU, its recipe, and its RIS but for HOLD, timers and a lane
granted meanwhile. -/
structure AbortsAlike (b : Bay) (s t : State) : Prop where
  spu : (t.bay b).spu = (s.bay b).spu
  ltu : (t.bay b).ltu = (s.bay b).ltu
  slot : (t.bay b).ctl.slot = (s.bay b).ctl.slot
  recipes : ∀ k, (t.rbk.get k).recipe = (s.rbk.get k).recipe
  ris : ∃ p h n k, (t.bay b).ris = { (s.bay b).ris with phase := p, hold := h, holdTimer := n, phaseTimer := k }
    ∧ (p = (s.bay b).ris.phase ∨ ((s.bay b).ris.phase = .measureWait ∧ p = .measure))

/-- The same bay under the same recipes. -/
theorem AbortsAlike.of_bay {b : Bay} {s t : State} (hb : t.bay b = s.bay b)
    (hr : ∀ k, (t.rbk.get k).recipe = (s.rbk.get k).recipe) : AbortsAlike b s t :=
  ⟨by rw [hb], by rw [hb], by rw [hb], hr, (s.bay b).ris.phase, (s.bay b).ris.hold, (s.bay b).ris.holdTimer,
    (s.bay b).ris.phaseTimer, by rw [hb], .inl rfl⟩

section
variable {b : Bay} {s t : State} (h : AbortsAlike b s t)
include h

theorem AbortsAlike.recipeOf : t.recipeOf b = s.recipeOf b := recipeOf_congr h.slot h.recipes

theorem AbortsAlike.cavityOf : t.cavityOf b = s.cavityOf b := cavityOf_congr h.recipeOf (by rw [h.ltu])

theorem AbortsAlike.stepOf : t.stepOf b = s.stepOf b := by
  obtain ⟨p, x, n, k, hx, -⟩ := h.ris
  exact stepOf_congr h.recipeOf (by rw [hx])

theorem AbortsAlike.abortedLtu : t.abortedLtu b = s.abortedLtu b := by
  unfold State.abortedLtu
  rw [h.cavityOf, h.ltu]

theorem AbortsAlike.rests : t.restsAtOnce b ↔ s.restsAtOnce b := by
  unfold State.restsAtOnce
  rw [h.abortedLtu, h.spu]

theorem AbortsAlike.abortLeak : t.abortLeak b = s.abortLeak b := by
  unfold State.abortLeak State.leakEntry
  rw [h.cavityOf, h.ltu]

theorem AbortsAlike.abortNoise : t.abortNoise b = s.abortNoise b := by
  obtain ⟨p, x, n, k, hx, hp⟩ := h.ris
  have hphase : (p = .measureWait ∨ p = .measure) ↔ ((s.bay b).ris.phase = .measureWait ∨ (s.bay b).ris.phase = .measure) := by
    obtain rfl | ⟨h1, rfl⟩ := hp
    · rfl
    · simp [h1]
  unfold State.abortNoise
  rw [h.stepOf, hx]
  exact if_congr hphase rfl rfl

theorem AbortsAlike.stoppedRis (hi : (s.bay b).ris.phase = .idle → (t.bay b).ris = (s.bay b).ris) :
    ∃ n, t.stoppedRis b = { s.stoppedRis b with phaseTimer := n } := by
  unfold State.stoppedRis
  by_cases h0 : (s.bay b).ris.phase = .idle
  · rw [hi h0, h.spu, if_pos h0]
    exact ⟨_, rfl⟩
  · obtain ⟨p, x, n, k, hx, hp⟩ := h.ris
    have hp0 : p ≠ .idle := by
      obtain rfl | ⟨-, rfl⟩ := hp
      · exact h0
      · decide
    rw [h.spu, hx, if_neg h0, if_neg hp0]
    dsimp only
    split <;> exact ⟨k, rfl⟩

/-- An abort from a state alike is the abort of the bay. -/
theorem AbortsAlike.aborted {cause : Cause} (hi : (s.bay b).ris.phase = .idle → (t.bay b).ris = (s.bay b).ris)
    (hc : (t.bay b).ctl.halted cause = { (s.bay b).ctl.abortedBy cause with state := .stopping }) :
    Aborted b cause s (abortBay b cause t) := by
  obtain ⟨h1, h2, hclear⟩ := abortBay_bay b cause t
  obtain ⟨m, hm⟩ := h.stoppedRis hi
  rw [h.rests, hm, h.abortedLtu, h.spu] at h1
  rw [h.rests, h.spu] at h2
  have hbound : (t.bay b).ctl.bound = (s.bay b).ctl.bound :=
    (congrArg BayCtl.bound hc : ((t.bay b).ctl.halted cause).bound = _)
  refine ⟨fun hr => ?_, fun hr => ?_, hclear.queue, hclear.lanes⟩
  · obtain ⟨n, a, hb⟩ := h1 hr
    rw [hb, hc]
  · rw [h2 hr, hc, hbound]

/-- The record of an abort from a state alike, with the writes made on the way. -/
theorem AbortsAlike.recorded {f : AxleRecord → AxleRecord} {cause : Cause} {i : RecIx} {r : AxleRecord} (hw : Writes b f s t)
    (hi : s.bindsOpen b i r) :
    (¬ s.restsAtOnce b →
      (abortBay b cause t).art.get i = some ((f r).aborted cause (s.abortNoise b) (s.abortLeak b))
        ∧ (abortBay b cause t).rsp.spool = s.rsp.spool)
    ∧ (s.restsAtOnce b → FinalizedAt t.tbs.cellTime i ((f r).aborted cause (s.abortNoise b) (s.abortLeak b)) .aborted s
        (abortBay b cause t)) := by
  obtain ⟨h1, h2⟩ := abortBay_record cause (hw.bindsOpen hi)
  rw [h.rests, h.abortNoise, h.abortLeak] at h1 h2
  exact ⟨fun hr => ⟨(h1 hr).1, (h1 hr).2.trans (by rw [hw.rsp])⟩, fun hr => hw.finalized (h2 hr)⟩

end

/-! ### Faults -/

/-- The alarm flag of a fault latched (R10, R20). -/
def BayCtl.flagged (cause : Cause) (c : BayCtl) : BayCtl :=
  { c with alarms := match causeAlarm cause with
      | some a => withAlarm c.alarms a
      | none => c.alarms }

theorem updCtl_id (b : Bay) (s : State) : s.updCtl b id = s := by
  have h : s.bays.set b (s.bay b) = s.bays := Vector.set_getElem_self _
  show { s with bays := s.bays.set b { s.bay b with ctl := (s.bay b).ctl } } = s
  rw [show ({ s.bay b with ctl := (s.bay b).ctl } : BayUnit) = s.bay b from rfl, h]

theorem BayCtl.flagged_some {cause : Cause} {a : BayAlarm} (h : causeAlarm cause = some a) :
    BayCtl.flagged cause = fun c => { c with alarms := withAlarm c.alarms a } := by
  funext c
  simp only [BayCtl.flagged, h]

theorem BayCtl.flagged_none {cause : Cause} (h : causeAlarm cause = none) : BayCtl.flagged cause = id := by
  funext c
  simp only [BayCtl.flagged, h, id]

theorem flagged_running (b : Bay) (cause : Cause) (s : State) :
    (s.updCtl b (BayCtl.flagged cause)).running b = s.running b := by
  unfold State.running
  rw [State.updCtl_ctl_same]
  rfl

/-- A fault latches its flag and aborts a RUNNING bay. -/
theorem raiseFault_eq (b : Bay) (cause : Cause) (s : State) : raiseFault b cause s =
    if s.running b then abortBay b cause (s.updCtl b (BayCtl.flagged cause)) else s.updCtl b (BayCtl.flagged cause) := by
  rw [← flagged_running b cause s]
  unfold raiseFault
  cases h : causeAlarm cause with
  | none => rw [BayCtl.flagged_none h, updCtl_id]
  | some a => rw [BayCtl.flagged_some h]; rfl

theorem flagged_alike (b : Bay) (cause : Cause) (s : State) : AbortsAlike b s (s.updCtl b (BayCtl.flagged cause)) :=
  ⟨by rw [updCtl_bay], by rw [updCtl_bay], by rw [updCtl_bay]; rfl, fun _ => rfl, (s.bay b).ris.phase, (s.bay b).ris.hold,
    (s.bay b).ris.holdTimer, (s.bay b).ris.phaseTimer, by rw [updCtl_bay], .inl rfl⟩

theorem AbortsAlike.trans_flagged {b : Bay} {s t : State} (h : AbortsAlike b s t) (cause : Cause) :
    AbortsAlike b s (t.updCtl b (BayCtl.flagged cause)) := by
  obtain ⟨h1, h2, h3, h4, h5⟩ := h
  exact ⟨by rw [updCtl_bay]; exact h1, by rw [updCtl_bay]; exact h2, by rw [updCtl_bay]; exact h3, h4,
    by rw [updCtl_bay]; exact h5⟩

/-- A fault of a RUNNING bay, found in a state alike: the bay is aborted, its flag latched. -/
theorem raiseFault_aborted {b : Bay} {s t : State} {cause : Cause} (h : AbortsAlike b s t) (hr : t.running b = true)
    (hi : (s.bay b).ris.phase = .idle → (t.bay b).ris = (s.bay b).ris) (hc : (t.bay b).ctl = (s.bay b).ctl) :
    Aborted b cause s (raiseFault b cause t) := by
  rw [raiseFault_eq, if_pos hr]
  refine (h.trans_flagged cause).aborted (fun h0 => ?_) ?_
  · rw [updCtl_bay]; exact hi h0
  · rw [State.updCtl_ctl_same, hc]
    rfl

theorem raiseFault_recorded {b : Bay} {f : AxleRecord → AxleRecord} {s t : State} {cause : Cause} {i : RecIx} {r : AxleRecord}
    (h : AbortsAlike b s t) (hw : Writes b f s t) (hr : t.running b = true) (hi : s.bindsOpen b i r) :
    (¬ s.restsAtOnce b →
      (raiseFault b cause t).art.get i = some ((f r).aborted cause (s.abortNoise b) (s.abortLeak b))
        ∧ (raiseFault b cause t).rsp.spool = s.rsp.spool)
    ∧ (s.restsAtOnce b → FinalizedAt t.tbs.cellTime i ((f r).aborted cause (s.abortNoise b) (s.abortLeak b)) .aborted s
        (raiseFault b cause t)) := by
  rw [raiseFault_eq, if_pos hr]
  exact (h.trans_flagged cause).recorded (hw.trans (updCtl_writes b t (BayCtl.flagged cause) rfl)) hi

theorem hasAlarm_withAlarm (w : BitVec 11) (a : BayAlarm) : hasAlarm (withAlarm w a) a = true := by
  unfold hasAlarm withAlarm
  cases a <;> simp [alarmBit]

theorem hasAlarm_within {v w : BitVec 11} (h : alarmsWithin v w) {a : BayAlarm} (ha : hasAlarm v a = true) : hasAlarm w a = true := by
  unfold hasAlarm at *
  rw [← h] at ha
  simp only [BitVec.getLsbD_and, Bool.and_eq_true] at ha
  exact ha.2

/-- A fault of a RUNNING bay with a flag. -/
theorem raiseFault_abortedBy {b : Bay} {s : State} {cause : Cause} {a : BayAlarm} (ha : causeAlarm cause = some a)
    (hr : s.running b = true) : (raiseFault b cause s).abortedBy b cause a := by
  rw [raiseFault_eq, if_pos hr]
  obtain ⟨h1, h2, h3, h4⟩ := abortBay_stopped b cause (s.updCtl b (BayCtl.flagged cause))
  refine ⟨?_, h2, h1, h3⟩
  rw [h4, State.updCtl_ctl_same, BayCtl.flagged, ha]
  exact hasAlarm_withAlarm _ a

/-! ### Requests taken and expiries taken -/

theorem KeptBut.of_served {b : Bay} {s t : State} (h : BayWork (· = b) s.popRequest t) (q : MgmtRequest) (st : Status) (rs : Bytes) :
    KeptBut b (s.answered q st rs) (t.respond q st rs) := by
  refine ⟨h.pending, h.lfe, h.ports, h.chx, ?_, h.emission, h.reportSeq, h.snapshot, h.slot, fun c hc => h.other c hc⟩
  unfold State.answered State.respond
  rw [h.mga]

/-- The state in which a block takes its share ahead of its tick: the tick is opened (R169). -/
def State.ticking (s : State) (u : TickUnit) : State :=
  { s with tbs := { cellTime := (s.serving u).tbs.cellTime, served := s.tbs.served } }

theorem openTick_ticking (s : State) (u : TickUnit) : openTick s = s.ticking u := by
  unfold openTick State.ticking State.serving
  by_cases h : s.tbs.served = []
  · simp [h]
  · simp [h]

/-- An expiry that is taken: the block's work on the state with the tick opened. -/
theorem expire_ticking {bays : List Bay} {u : TickUnit} {e : Bool} {s : State} (he : e = true) (h : s.awaits u) :
    expire bays u e s = { tickUnit bays u (s.ticking u) with tbs := (s.serving u).tbs } := by
  rw [expire_taken he h, openTick_ticking s u]

theorem KeptBut.of_ticking {b : Bay} {s t : State} {u : TickUnit} {x : Tbs} (h : BayWork (· = b) (s.ticking u) t) :
    KeptBut b s { t with tbs := x } :=
  ⟨h.pending, h.lfe, h.ports, h.chx, h.mga, h.emission, h.reportSeq, h.snapshot, h.slot, fun c hc => h.other c hc⟩

theorem ticking_writes (b : Bay) (s : State) (u : TickUnit) : Writes b id s (s.ticking u) := .of_eq rfl rfl rfl rfl (.of_stc rfl)

theorem ticking_alike (b : Bay) (s : State) (u : TickUnit) : AbortsAlike b s (s.ticking u) := .of_bay rfl fun _ => rfl

theorem FinalizedAt.finalized {now : BitVec 32} {i : RecIx} {r : AxleRecord} {v : Verdict} {s t : State}
    (h : FinalizedAt now i r v s t) (ht : t.tbs.cellTime = now) : Finalized i r v s t := by
  subst ht
  exact h

/-! ### BAY_ABORT -/

theorem bayAbort_ready {b : Bay} {s : State} {i : RecIx} {r : AxleRecord} (hi : s.bindsOpen b i r) :
    ((enterComplete b (setCause b .operator s)).bay b).ctl =
        { (s.bay b).ctl with state := .complete, subPhase := none, bound := none, last := some i, cause := some .operator }
      ∧ FinalizedAt s.tbs.cellTime i { r with cause := some .operator } .aborted s (enterComplete b (setCause b .operator s)) := by
  have hw := setCause_writes b .operator s
  have hi' := hw.bindsOpen hi
  have hv : (setCause b .operator s).verdictFor { r with cause := some .operator } = .aborted := verdictFor_aborted rfl
  constructor
  · rw [enterComplete_bay, BayCtl.completed_untested _ (.inr ((verdictAt_eq hi').trans (congrArg some hv))), setCause_bay,
      if_pos rfl, hi.1]
  · have hf := enterComplete_finalizes hi'
    rw [hv, (setCause_work b s .operator).tbs] at hf
    exact hw.finalized hf

/-- Settles O36. -/
theorem bayAborted : Obligations.BayAborted := by
  intro q s h
  refine ⟨fun hb => congrArg Host.Outcome.next (serve_withBay_none abortRequest h hb), fun b hb => ?_⟩
  have hex : exec .bayAbort s = .next ((abortRequest b s.popRequest).state.respond q (abortRequest b s.popRequest).status
      (abortRequest b s.popRequest).results) := congrArg Host.Outcome.next (serve_withBay abortRequest h hb)
  have hpop : Writes b id s s.popRequest := .of_eq rfl rfl rfl rfl (.of_stc rfl)
  have hcase {r : Reply} (hr : abortRequest b s.popRequest = r) :
      exec .bayAbort s = .next (r.state.respond q r.status r.results) := by rw [hex, hr]
  have hok {t : State} (hr : abortRequest b s.popRequest = .ok t []) : exec .bayAbort s = .next (t.respond q .ok []) := hcase hr
  refine ⟨fun i r hs hi => ?_, fun hs => ?_, fun hs => ?_, fun hs => ?_⟩
  · have hr : abortRequest b s.popRequest = .ok (enterComplete b (setCause b .operator s.popRequest)) [] := by
      simp [abortRequest, hs]
    obtain ⟨hctl, hfin⟩ := bayAbort_ready (s := s.popRequest) hi
    have hwork := (setCause_work b s.popRequest .operator).trans (enterComplete_work b _)
    have hris := congrArg BayUnit.ris (enterComplete_bay b (setCause b .operator s.popRequest))
    have hltu := congrArg BayUnit.ltu (enterComplete_bay b (setCause b .operator s.popRequest))
    generalize enterComplete b (setCause b .operator s.popRequest) = t at *
    exact ⟨_, hok hr, .of_served hwork q _ _, hwork.tbs, hctl, hris, hltu,
      FinalizedAt.finalized (t := t.respond q .ok []) hfin (congrArg Tbs.cellTime hwork.tbs)⟩
  · have hr : abortRequest b s.popRequest = .ok (abortBay b .operator s.popRequest) [] := by simp [abortRequest, hs]
    have hwork := abortBay_work b s.popRequest .operator
    have halike : AbortsAlike b s s.popRequest := .of_bay rfl fun _ => rfl
    have hrec {i : RecIx} {r : AxleRecord} (hi : s.bindsOpen b i r) := halike.recorded (cause := .operator) hpop hi
    have haborted : Aborted b .operator s (abortBay b .operator s.popRequest) := halike.aborted (fun _ => rfl) rfl
    obtain ⟨h1, h2, h3, h4⟩ := abortBay_stopped b .operator s.popRequest
    generalize abortBay b .operator s.popRequest = t at *
    refine ⟨_, hok hr, .of_served hwork q _ _, hwork.tbs, h2, h4, h1, haborted, fun i r hi => ⟨(hrec hi).1, fun hrest => ?_⟩⟩
    exact FinalizedAt.finalized (t := t.respond q .ok []) ((hrec hi).2 hrest) (congrArg Tbs.cellTime hwork.tbs)
  · exact hcase (r := .ok s.popRequest []) (by simp [abortRequest, hs])
  · refine hcase (r := .refuse s.popRequest .wrongState) ?_
    obtain hs | hs | hs := hs <;> simp [abortRequest, hs]

end Sys2Proof.Machine
end

section
/-! The stop that times out (O50, O51) and the limits of run-in that abort (O53). -/

namespace Sys2Proof.Machine

/-! ### STOP_TIMEOUT -/

/-- The controller when its stop has timed out (R14). -/
def BayCtl.timedOut (c : BayCtl) : BayCtl :=
  { c with stoppingTime := c.stoppingTime + 1, alarms := withAlarm c.alarms .stopTimeout, lockPending := true }

theorem bycTick_timedOut {b : Bay} {s : State} (hs : (s.bay b).ctl.state = .stopping)
    (ht : s.mga.params.stopTimeout ≤ (s.bay b).ctl.stoppingTime + 1) :
    bycTick b s = enterComplete b (s.updCtl b BayCtl.timedOut) := by
  have he : s.stopExpires b = true := by simp [State.stopExpires, hs, ht]
  unfold bycTick
  rw [he, if_pos hs]
  dsimp only
  rw [if_pos rfl]
  unfold stopTimedOut State.latchAlarm
  rw [State.updCtl_updCtl, State.updCtl_updCtl]
  rfl

theorem exec_stopTimeout {b : Bay} {s : State} (ha : s.awaits (.byc b)) (hs : (s.bay b).ctl.state = .stopping)
    (ht : s.mga.params.stopTimeout ≤ (s.bay b).ctl.stoppingTime + 1) :
    exec (.stopTimeout b) s = .next { enterComplete b ((s.ticking (.byc b)).updCtl b BayCtl.timedOut) with
      tbs := (s.serving (.byc b)).tbs } := by
  have he : s.stopExpires b = true := by simp [State.stopExpires, hs, ht]
  refine congrArg Host.Outcome.next ((expire_ticking he ha).trans ?_)
  rw [show tickUnit [] (.byc b) (s.ticking (.byc b)) = bycTick b (s.ticking (.byc b)) from rfl,
    bycTick_timedOut (s := s.ticking (.byc b)) hs ht]

theorem timedOut_work (b : Bay) (s : State) :
    BayWork (· = b) (s.ticking (.byc b)) (enterComplete b ((s.ticking (.byc b)).updCtl b BayCtl.timedOut)) :=
  (updCtl_work b _ _).trans (enterComplete_work b _)

theorem timedOut_bay (b : Bay) (s : State) :
    ∃ v, (v = ((s.ticking (.byc b)).updCtl b BayCtl.timedOut).verdictAt b) ∧
      (enterComplete b ((s.ticking (.byc b)).updCtl b BayCtl.timedOut)).bay b =
        { ctl := (s.bay b).ctl.timedOut.completed s.mga.params.qualityStopLimit v, spu := (s.bay b).spu, ris := .reset,
          ltu := .reset, window := none } := by
  refine ⟨_, rfl, ?_⟩
  rw [enterComplete_bay, updCtl_bay]
  rfl

/-- Settles O50. -/
theorem stopTimedOut_holds : Obligations.StopTimedOut := by
  intro b s ha hs ht
  have hex := exec_stopTimeout ha hs ht
  have hwork := timedOut_work b s
  have hclear := enterComplete_clear b ((s.ticking (.byc b)).updCtl b BayCtl.timedOut)
  obtain ⟨v, -, hb⟩ := timedOut_bay b s
  obtain ⟨n, al, l, hc, hal, hl⟩ := (s.bay b).ctl.timedOut.completed_fields s.mga.params.qualityStopLimit v
  rw [hc] at hb
  generalize enterComplete b ((s.ticking (.byc b)).updCtl b BayCtl.timedOut) = t at *
  refine ⟨_, hex, .of_ticking hwork, rfl, ?_⟩
  rw [show ({ t with tbs := (s.serving (.byc b)).tbs } : State).bay b = t.bay b from rfl, hb]
  exact ⟨rfl, rfl, rfl, rfl, rfl, rfl, hl rfl, hasAlarm_within hal (hasAlarm_withAlarm _ _),
    alarmsWithin_trans (alarmsWithin_or _ _) hal, rfl, rfl, rfl, hclear.queue⟩

/-- Settles O51. -/
theorem recordFinalized : Obligations.RecordFinalized := by
  intro b i r q s ha hs ht hi hq
  have hex := exec_stopTimeout ha hs ht
  have hw : Writes b id s ((s.ticking (.byc b)).updCtl b BayCtl.timedOut) :=
    (ticking_writes b s _).trans (updCtl_writes b _ BayCtl.timedOut rfl)
  have hi' : ((s.ticking (.byc b)).updCtl b BayCtl.timedOut).bindsOpen b i r := hw.bindsOpen hi
  have hfin := hw.finalized (enterComplete_finalizes hi')
  have hother (j : RecIx) (hj : j ≠ i) : (enterComplete b ((s.ticking (.byc b)).updCtl b BayCtl.timedOut)).art.get j = s.art.get j := by
    obtain ⟨v, hv⟩ := enterComplete_art hi'
    rw [hv]
    exact (get_set_art _ _ _ _).trans (if_neg hj.symm)
  obtain ⟨v, hv, hb⟩ := timedOut_bay b s
  rw [verdictAt_eq hi'] at hv
  rw [hv] at hb
  have hjudged := (s.bay b).ctl.timedOut.completed_judged s.mga.params.qualityStopLimit
    (((s.ticking (.byc b)).updCtl b BayCtl.timedOut).verdictFor r)
  have hverdict : VerdictIs q r (((s.ticking (.byc b)).updCtl b BayCtl.timedOut).verdictFor r) := verdictFor_is hq
  have hctl := congrArg BayUnit.ctl hb
  dsimp only at hctl
  rw [← hctl] at hjudged
  generalize enterComplete b ((s.ticking (.byc b)).updCtl b BayCtl.timedOut) = t at *
  exact ⟨_, _, hex, hfin, hverdict, hother, hjudged⟩

/-! ### SETTLE_TIMEOUT -/

/-- The wait for STANDSTILL or for Steady in RUNIN runs toward the settle timeout (R91). -/
theorem settleTimed_of {s : State} {b : Bay} (hr : s.running b = true)
    (hp : (s.bay b).ris.phase = .settle ∨ ((s.bay b).ris.cmdSpeed = 0 ∧ ((s.bay b).ris.phase = .reverseStop
      ∨ (s.bay b).ris.phase = .stopWait ∨ (s.bay b).ris.phase = .rundown))) : s.settleTimed b = true := by
  unfold State.settleTimed
  rw [hr]
  obtain h | ⟨h0, h | h | h⟩ := hp
  · simp [h]
  all_goals simp [h, h0]

theorem rampInForce_none {r : Recipe} {st : Step} {x : Ris} (hp : x.phase = .settle ∨ (x.cmdSpeed = 0 ∧ (x.phase = .reverseStop
    ∨ x.phase = .stopWait ∨ x.phase = .rundown))) : rampInForce r st x = none := by
  unfold rampInForce
  obtain h | ⟨h0, h | h | h⟩ := hp
  · simp [h]
  all_goals simp [h, h0]

/-- A tick that brings the phase timer to the settle timeout raises SETTLE (R91). -/
theorem risPhaseTick_settle {b : Bay} {s : State} {r : Recipe} {st : Step} (hr : s.running b = true) (hq : s.recipeOf b = some r)
    (hst : s.stepOf b = some st)
    (hp : (s.bay b).ris.phase = .settle ∨ ((s.bay b).ris.cmdSpeed = 0 ∧ ((s.bay b).ris.phase = .reverseStop
      ∨ (s.bay b).ris.phase = .stopWait ∨ (s.bay b).ris.phase = .rundown)))
    (ht : r.settleTimeout ≤ (s.bay b).ris.phaseTimer + 1) :
    risPhaseTick b s = raiseFault b .settle (s.updRis b fun x => { x with phaseTimer := (s.bay b).ris.phaseTimer + 1 }) := by
  have hlimit : s.risLimit b r st = some r.settleTimeout := by
    unfold State.risLimit
    rw [if_pos (settleTimed_of hr hp)]
  have htimed : (s.updRis b fun x => { x with phaseTimer := (s.bay b).ris.phaseTimer + 1 }).settleTimed b = true := by
    refine settleTimed_of ?_ ?_
    · unfold State.running; rw [State.updRis_ctl]; exact hr
    · rw [State.updRis_ris_same]; exact hp
  unfold risPhaseTick
  rw [hq, hst]
  dsimp only
  rw [rampInForce_none hp, hlimit]
  dsimp only
  rw [if_pos ht]
  unfold risPhaseEnd
  rw [if_pos htimed]

/-! ### MAX_HOLD_TIME -/

theorem writeSummary_writes (b : Bay) (s : State) (f : Summary → Summary) :
    Writes b (fun r => { r with summary := f r.summary }) s (s.writeSummary b f) := .of_write b s fun _ => ⟨rfl, rfl, rfl⟩

theorem writeSummary_bay (b c : Bay) (s : State) (f : Summary → Summary) : (s.writeSummary b f).bay c = s.bay c :=
  s.writeBound_bay b c _

/-- The record after the drive time of a tick (R102). -/
def AxleRecord.driven (on : Bool) (r : AxleRecord) : AxleRecord :=
  { r with summary := { r.summary with
      driveTime := if on = true then min (r.summary.driveTime + 1) (2 ^ 32 - 1) else r.summary.driveTime } }

/-- The record after the hold time of a tick (R94). -/
def AxleRecord.held (r : AxleRecord) : AxleRecord :=
  { r with summary := { r.summary with holdTime := min (r.summary.holdTime + 1) (2 ^ 32 - 1) } }

theorem driveTick_writes (b : Bay) (s : State) : Writes b (AxleRecord.driven (s.bay b).ris.driveEnable) s (driveTick b s) := by
  unfold driveTick
  cases (s.bay b).ris.driveEnable
  · exact .refl b s
  · exact writeSummary_writes b s fun m => { m with driveTime := countUp32 m.driveTime }

theorem driveTick_bay (b c : Bay) (s : State) : (driveTick b s).bay c = s.bay c := by
  unfold driveTick
  split
  · exact writeSummary_bay b c s _
  · rfl

theorem holdTick_writes (b : Bay) (s : State) : Writes b AxleRecord.held s (holdTick b s) :=
  ((updRis_writes b s fun r => { r with holdTimer := r.holdTimer + 1 }).trans
    (writeSummary_writes b _ fun m => { m with holdTime := countUp32 m.holdTime })).trans
    (emitBay_writes (e := .holdMs) b _ none (by decide))

theorem holdTick_bay (b : Bay) (s : State) : (holdTick b s).bay b =
    { s.bay b with ris := { (s.bay b).ris with holdTimer := (s.bay b).ris.holdTimer + 1 } } := by
  unfold holdTick
  rw [State.emitBay_bay, writeSummary_bay, updRis_bay]

/-- A tick in HOLD that reaches the maximum raises OVERTEMP, drive time and hold time counted for it (R94). -/
theorem risCountTick_maxHold {b : Bay} {s : State} (he : s.holdExpires b = true) (hh : (s.bay b).ris.hold = true) :
    risCountTick b s = raiseFault b .overtemp (holdTick b (driveTick b s)) := by
  unfold risCountTick
  dsimp only
  rw [he, driveTick_bay, if_pos hh, if_pos rfl]

/-- An abort that a block's share of a tick brings: the bay, and what stays. -/
theorem exec_fault {b : Bay} {u : TickUnit} {c : Instr} {cause : Cause} {a : BayAlarm} {s t : State}
    {f : AxleRecord → AxleRecord} (hex : exec c s = .next { raiseFault b cause t with tbs := (s.serving u).tbs })
    (hwork : BayWork (· = b) (s.ticking u) t) (hw : Writes b f s t) (h : AbortsAlike b s t) (hr : (s.bay b).ctl.state = .running)
    (hc : (t.bay b).ctl = (s.bay b).ctl) (ha : causeAlarm cause = some a) :
    ∃ x : State, exec c s = .next x ∧ KeptBut b s x ∧ x.tbs = (s.serving u).tbs ∧ x.abortedBy b cause a
      ∧ (((s.bay b).ris.phase = .idle → (t.bay b).ris = (s.bay b).ris) → Aborted b cause s x)
      ∧ ∀ (i : RecIx) (r : AxleRecord), s.bindsOpen b i r → AbortRecorded b cause i (f r) s x := by
  have hrun : t.running b = true := by unfold State.running; rw [hc, hr]; rfl
  have h1 := raiseFault_abortedBy ha hrun
  have h2 (hi : (s.bay b).ris.phase = .idle → (t.bay b).ris = (s.bay b).ris) : Aborted b cause s (raiseFault b cause t) :=
    raiseFault_aborted h hrun hi hc
  have h3 {i : RecIx} {r : AxleRecord} (hi : s.bindsOpen b i r) := raiseFault_recorded h hw hrun hi (cause := cause)
  have hwork' := hwork.trans (raiseFault_work b t cause)
  have htbs : t.tbs.cellTime = (s.serving u).tbs.cellTime :=
    (congrArg Tbs.cellTime hwork.tbs : _ = (s.ticking u).tbs.cellTime)
  generalize raiseFault b cause t = x at *
  refine ⟨_, hex, .of_ticking hwork', rfl, h1, h2, fun i r hi => ⟨(h3 hi).1, fun hrest => ?_⟩⟩
  exact FinalizedAt.finalized (t := { x with tbs := (s.serving u).tbs }) ((h3 hi).2 hrest) htbs.symm

/-- Settles O53. -/
theorem runInTimeoutsAbort : Obligations.RunInTimeoutsAbort := by
  intro b r s hr hq
  refine ⟨fun st hst ha hp ht => ?_, fun ha hh ht => ?_⟩
  · have hrun : s.running b = true := (running_iff b s).mpr hr
    have hexp : (s.settleTimed b && s.risExpires b) = true := by
      have htimed := settleTimed_of hrun hp
      simp [htimed, State.risExpires, hq, hst, State.risLimit, ht]
    have hex : exec (.settleTimeout b) s = .next { raiseFault b .settle ((s.ticking (.risPhase b)).updRis b fun x =>
        { x with phaseTimer := (s.bay b).ris.phaseTimer + 1 }) with tbs := (s.serving (.risPhase b)).tbs } := by
      refine congrArg Host.Outcome.next ((expire_ticking hexp ha).trans ?_)
      rw [show tickUnit [] (.risPhase b) (s.ticking (.risPhase b)) = risPhaseTick b (s.ticking (.risPhase b)) from rfl,
        risPhaseTick_settle (s := s.ticking (.risPhase b)) hrun hq hst hp ht]
      rfl
    have halike : AbortsAlike b s ((s.ticking (.risPhase b)).updRis b fun x =>
        { x with phaseTimer := (s.bay b).ris.phaseTimer + 1 }) :=
      ⟨by rw [updRis_bay]; rfl, by rw [updRis_bay]; rfl, by rw [updRis_bay]; rfl, fun _ => rfl, (s.bay b).ris.phase,
        (s.bay b).ris.hold, (s.bay b).ris.holdTimer, _, by rw [updRis_bay]; rfl, .inl rfl⟩
    obtain ⟨x, hx, hkept, htbs, h1, h2, h3⟩ := exec_fault (a := .settle) hex (updRis_work b _ _)
      ((ticking_writes b s _).trans (updRis_writes b _ _)) halike hr (by rw [updRis_bay]; rfl) rfl
    refine ⟨x, hx, hkept, htbs, h1, h2 fun h0 => ?_, h3⟩
    obtain h | ⟨-, h | h | h⟩ := hp <;> rw [h] at h0 <;> cases h0
  · have hexp : s.holdExpires b = true := by simp [State.holdExpires, hq, hh, ht]
    have hex : exec (.maxHoldTime b) s = .next { raiseFault b .overtemp (holdTick b (driveTick b (s.ticking (.risCount b)))) with
        tbs := (s.serving (.risCount b)).tbs } := by
      refine congrArg Host.Outcome.next ((expire_ticking hexp ha).trans ?_)
      rw [show tickUnit [] (.risCount b) (s.ticking (.risCount b)) = risCountTick b (s.ticking (.risCount b)) from rfl,
        risCountTick_maxHold (s := s.ticking (.risCount b)) hexp hh]
    have hbay : (holdTick b (driveTick b (s.ticking (.risCount b)))).bay b =
        { s.bay b with ris := { (s.bay b).ris with holdTimer := (s.bay b).ris.holdTimer + 1 } } := by
      rw [holdTick_bay, driveTick_bay]; rfl
    have hw := ((ticking_writes b s (.risCount b)).trans (driveTick_writes b _)).trans (holdTick_writes b _)
    have halike : AbortsAlike b s (holdTick b (driveTick b (s.ticking (.risCount b)))) :=
      ⟨by rw [hbay], by rw [hbay], by rw [hbay], fun k => by rw [hw.rbk], (s.bay b).ris.phase, (s.bay b).ris.hold, _, _,
        by rw [hbay], .inl rfl⟩
    obtain ⟨x, hx, hkept, htbs, h1, h2, h3⟩ := exec_fault (a := .overtemp) hex
      ((driveTick_work b _).trans (holdTick_work b _)) hw halike hr (by rw [hbay]) rfl
    exact ⟨x, hx, hkept, htbs, h1, fun hp => h2 fun h0 => absurd h0 hp, h3⟩

end Sys2Proof.Machine
end

section
/-! LINK_LOSS (O52): the bays take the loss one after another, and none disturbs another's test. -/

namespace Sys2Proof.Machine

/-! ### What the work of one bay does to another -/

/-- Work of another bay: it may grant the bay a lane, and it leaves a bay without request and lanes as it is. -/
structure Spared (b : Bay) (s t : State) : Prop where
  granted : ∃ p, (t.bay b).ris = { (s.bay b).ris with phase := p }
    ∧ (p = (s.bay b).ris.phase ∨ ((s.bay b).ris.phase = .measureWait ∧ p = .measure))
  clear : ClearOf b s.oae → t.bay b = s.bay b ∧ ClearOf b t.oae

theorem Spared.of_eq {b : Bay} {s t : State} (hb : t.bay b = s.bay b) (ho : t.oae = s.oae) : Spared b s t :=
  ⟨⟨(s.bay b).ris.phase, by rw [hb], .inl rfl⟩, fun h => ⟨hb, ho ▸ h⟩⟩

theorem Spared.refl (b : Bay) (s : State) : Spared b s s := .of_eq rfl rfl

theorem Spared.trans {b : Bay} {s t u : State} (h : Spared b s t) (g : Spared b t u) : Spared b s u := by
  obtain ⟨p, hp, hp'⟩ := h.granted
  obtain ⟨q, hq, hq'⟩ := g.granted
  refine ⟨⟨q, by rw [hq, hp], ?_⟩, fun hc => ?_⟩
  · rw [hp] at hq'
    obtain rfl | ⟨h1, rfl⟩ := hq'
    · exact hp'
    · obtain rfl | ⟨_, rfl⟩ := hp'
      · exact .inr ⟨h1, rfl⟩
      · cases h1
  · obtain ⟨h1, h2⟩ := h.clear hc
    obtain ⟨g1, g2⟩ := g.clear h2
    exact ⟨g1.trans h1, g2⟩

theorem Spared.ite {b : Bay} {s t u : State} {c : Prop} [Decidable c] (h : Spared b s t) (g : Spared b s u) :
    Spared b s (if c then t else u) := by
  split
  · exact h
  · exact g

/-- A grant to a bay moves its RIS from MEASURE_WAIT to MEASURE (R108). -/
theorem grantOne_ris (q : LaneRequest) (b : Bay) (s : State) : ∃ p, ((grantOne q s).bay b).ris = { (s.bay b).ris with phase := p }
    ∧ (p = (s.bay b).ris.phase ∨ ((s.bay b).ris.phase = .measureWait ∧ p = .measure)) := by
  have hsame : ∃ p, (s.bay b).ris = { (s.bay b).ris with phase := p }
      ∧ (p = (s.bay b).ris.phase ∨ ((s.bay b).ris.phase = .measureWait ∧ p = .measure)) := ⟨_, rfl, .inl rfl⟩
  by_cases hq : q.bay = b
  · subst hq
    unfold grantOne
    split
    · rw [State.emitBay_bay, State.updRis_ris_same, State.setWindow_ris]
      show ∃ p, (if (s.bay q.bay).ris.phase = .measureWait then { (s.bay q.bay).ris with phase := .measure } else (s.bay q.bay).ris) =
        { (s.bay q.bay).ris with phase := p } ∧ _
      split
      · next h => exact ⟨.measure, rfl, .inr ⟨h, rfl⟩⟩
      · exact hsame
    · exact hsame
  · rw [grantOne_bay hq]
    exact hsame

theorem grantLoop_ris (l : List LaneRequest) (b : Bay) (s : State) : ∃ p, ((grantLoop l s).bay b).ris = { (s.bay b).ris with phase := p }
    ∧ (p = (s.bay b).ris.phase ∨ ((s.bay b).ris.phase = .measureWait ∧ p = .measure)) := by
  induction l generalizing s with
  | nil => exact ⟨_, rfl, .inl rfl⟩
  | cons q rest ih =>
    unfold grantLoop
    split
    · obtain ⟨p, hp, hp'⟩ := grantOne_ris q b s
      obtain ⟨r, hr, hr'⟩ := ih (grantOne q s)
      rw [hp] at hr hr'
      refine ⟨r, hr, ?_⟩
      obtain rfl | ⟨h1, rfl⟩ := hr'
      · exact hp'
      · obtain rfl | ⟨_, rfl⟩ := hp'
        · exact .inr ⟨h1, rfl⟩
        · cases h1
    · exact ⟨_, rfl, .inl rfl⟩

theorem grantTest_spared (b : Bay) (s : State) : Spared b s s.grantTest :=
  ⟨grantLoop_ris _ b s, fun h => ⟨grantLoop_bay h.queue s, grantLoop_clear _ s h.queue h.lanes⟩⟩

variable {b c : Bay} (hbc : c ≠ b) (s : State)
include hbc

theorem releaseBay_spared : Spared b s (releaseBay c s) := by
  unfold releaseBay
  dsimp only
  have h1 : Spared b s { s with oae := { s.oae with queue := s.oae.queue.filter fun q => q.bay != c } } :=
    ⟨⟨_, rfl, .inl rfl⟩, fun h => ⟨rfl, fun q hq => h.queue q (List.mem_filter.mp hq).1, h.lanes⟩⟩
  have hdrop (t : State) : Spared b t (dropWindow c t) := by
    have hb : (dropWindow c t).bay b = t.bay b := by rw [dropWindow_bay, if_neg hbc]
    refine ⟨⟨_, by rw [hb], .inl rfl⟩, fun h => ⟨hb, h.queue, fun l u hu => ?_⟩⟩
    have hu' : (freeBayLanes c t.oae.lanes).get l = some u := hu
    unfold freeBayLanes at hu'
    simp only [Vector.get_eq_getElem, Vector.getElem_map] at hu'
    split at hu'
    · next x hx =>
      split at hu'
      · cases hu'
      · cases hu'; exact h.lanes l u hx
    · cases hu'
  have hemit (t : State) : Spared b t (t.emitBay .noiseAttempt c (some .nomeas)) := .of_eq rfl rfl
  have h2 := h1.trans (Spared.ite (c := ((s.bay c).window.isSome || s.holdsLanes c) = true) (hdrop _) (.refl b _))
  exact (h2.trans (.ite (hemit _) (.refl b _))).trans (.ite (grantTest_spared b _) (.refl b _))

theorem updCtl_spared (f : BayCtl → BayCtl) : Spared b s (s.updCtl c f) := .of_eq (State.updCtl_ne s hbc f) rfl

theorem updRis_spared (f : Ris → Ris) : Spared b s (s.updRis c f) := .of_eq (State.updRis_ne s hbc f) rfl

theorem updLtu_spared (f : Ltu → Ltu) : Spared b s (s.updLtu c f) := .of_eq (State.updLtu_ne s hbc f) rfl

omit hbc in
theorem writeBound_spared (c : Bay) (f : AxleRecord → AxleRecord) : Spared b s (s.writeBound c f) := by
  refine .of_eq (s.writeBound_bay c b f) ?_
  unfold State.writeBound
  repeat' split
  all_goals rfl

theorem stopRundown_spared : Spared b s (stopRundown c s) :=
  (updRis_spared hbc s _).trans (.ite (updRis_spared hbc _ _) (.refl b _))

theorem risAbort_spared : Spared b s (risAbort c s) := by
  unfold risAbort
  dsimp only
  refine .ite (.refl b s) (.ite ?_ (stopRundown_spared hbc s))
  split
  · exact (writeBound_spared s c _).trans (stopRundown_spared hbc _)
  · exact stopRundown_spared hbc s

theorem offerLeakEntry_spared (x : Cavity) (y : LeakResult) : Spared b s (offerLeakEntry c x y s) :=
  .of_eq ((State.updLtu_ne _ hbc _).trans (s.writeBound_bay c b _)) (by
    show (s.writeBound c _).oae = s.oae
    unfold State.writeBound
    repeat' split
    all_goals rfl)

theorem incompleteEnd_spared (x : Cavity) : Spared b s (incompleteEnd c x s) :=
  (Spared.of_eq (b := b) (s := s) (t := leakAttempt c .incomplete s) rfl rfl).trans (offerLeakEntry_spared hbc _ x _)

theorem ltuAbort_spared : Spared b s (ltuAbort c s) := by
  unfold ltuAbort
  split
  case h_1 x _ =>
    have hend (f : Ltu → Ltu) : Spared b s ((incompleteEnd c x s).updLtu c f) :=
      (incompleteEnd_spared hbc s x).trans (updLtu_spared hbc _ _)
    split
    · exact .refl b s
    · exact .refl b s
    · exact hend _
    · exact hend _
    · exact hend _
    · exact hend _
    · exact .ite (.refl b s) (offerLeakEntry_spared hbc s x _)
  case h_2 => exact .refl b s

theorem enterComplete_spared : Spared b s (enterComplete c s) := by
  rw [enterComplete_eq]
  have hfin : Spared b s (s.finalizedAt c) := by
    refine .of_eq (s.finalizedAt_bay c b) ?_
    unfold State.finalizedAt
    split <;> rfl
  have hjudged := ((hfin.trans (updCtl_spared hbc _ BayCtl.unbind)).trans (releaseBay_spared hbc _)).trans
    (updCtl_spared hbc _ (BayCtl.judged s.mga.params.qualityStopLimit (s.verdictAt c)))
  exact hjudged.trans (.of_eq (State.bay_updBay_ne _ hbc BayUnit.complete) rfl)

theorem abortBay_spared (k : Cause) : Spared b s (abortBay c k s) := by
  have hcore : Spared b s (abortCore c k s) :=
    (((((writeBound_spared s c _).trans (updCtl_spared hbc _ _)).trans (updCtl_spared hbc _ _)).trans (risAbort_spared hbc _)).trans
      (ltuAbort_spared hbc _)).trans (releaseBay_spared hbc _)
  exact hcore.trans (.ite (enterComplete_spared hbc _) (.refl b _))

theorem raiseFault_spared (k : Cause) : Spared b s (raiseFault c k s) := by
  rw [raiseFault_eq]
  exact .ite ((updCtl_spared hbc s _).trans (abortBay_spared hbc _ k)) (updCtl_spared hbc s _)

omit hbc in
theorem raiseFault_bound (c : Bay) (k : Cause) (s : State) :
    ((raiseFault c k s).bay c).ctl.bound = (s.bay c).ctl.bound ∨ ((raiseFault c k s).bay c).ctl.bound = none := by
  rw [raiseFault_eq]
  split
  · obtain ⟨h1, h2, -⟩ := abortBay_bay c k (s.updCtl c (BayCtl.flagged k))
    by_cases h : (s.updCtl c (BayCtl.flagged k)).restsAtOnce c
    · rw [h2 h]; exact .inr rfl
    · obtain ⟨n, a, hb⟩ := h1 h
      rw [hb]
      left
      show ((s.updCtl c (BayCtl.flagged k)).bay c).ctl.bound = _
      rw [State.updCtl_ctl_same]
      rfl
  · rw [State.updCtl_ctl_same]
    exact .inl rfl

omit hbc in
theorem raiseFault_other {c : Bay} {s : State} {j : RecIx} (k : Cause) (hj : (s.bay c).ctl.bound ≠ some j) :
    (raiseFault c k s).art.get j = s.art.get j := by
  rw [raiseFault_eq]
  split
  · refine abortBay_other k ?_
    rw [State.updCtl_ctl_same]
    exact hj
  · rfl

end Sys2Proof.Machine

namespace Sys2Proof.Machine

/-! ### The bays take the loss in turn -/

/-- A bay's turn at the loss of the link (R10, R161). -/
def linkTurn (s : State) (b : Bay) : State := if s.testing b then raiseFault b .link s else s

theorem deliverLink_eq (bays : List Bay) (s : State) : deliverLink bays s = (bayOrder bays).foldl linkTurn s := rfl

theorem mem_bayOrder (l : List Bay) (b : Bay) : b ∈ bayOrder l := by
  unfold bayOrder
  by_cases h : b ∈ l
  · exact List.mem_append_left _ h
  · exact List.mem_append_right _ (List.mem_filter.mpr ⟨mem_allBays b, by simpa using h⟩)

/-- Turns of other bays: the bay may be granted a lane, and the records that no other bay is bound to stand. -/
structure Bystood (b : Bay) (s t : State) : Prop where
  work : BayWork (· ≠ b) s t
  spared : Spared b s t
  record : ∀ i : RecIx, (∀ c : Bay, c ≠ b → (s.bay c).ctl.bound ≠ some i) →
    t.art.get i = s.art.get i ∧ ∀ c : Bay, c ≠ b → (t.bay c).ctl.bound ≠ some i

theorem Bystood.refl (b : Bay) (s : State) : Bystood b s s := ⟨.refl s, .refl b s, fun _ h => ⟨rfl, h⟩⟩

theorem Bystood.trans {b : Bay} {s t u : State} (h : Bystood b s t) (g : Bystood b t u) : Bystood b s u :=
  ⟨h.work.trans g.work, h.spared.trans g.spared, fun i hi =>
    have ⟨h1, h2⟩ := h.record i hi
    have ⟨g1, g2⟩ := g.record i h2
    ⟨g1.trans h1, g2⟩⟩

theorem linkTurn_bystood {b c : Bay} (hbc : c ≠ b) (s : State) : Bystood b s (linkTurn s c) := by
  have hwork := raiseFault_work c s .link
  unfold linkTurn
  split
  · refine ⟨hwork.mono fun x hx => hx ▸ hbc, raiseFault_spared hbc s _, fun i hi => ⟨raiseFault_other _ (hi c hbc), fun d hd => ?_⟩⟩
    by_cases hdc : d = c
    · subst hdc
      obtain h | h := raiseFault_bound d .link s
      · rw [h]; exact hi d hd
      · rw [h]; exact nofun
    · rw [(hwork.other d hdc).1]; exact hi d hd
  · exact .refl b s

theorem linkTurns_bystood {b : Bay} (l : List Bay) (hl : b ∉ l) (s : State) : Bystood b s (l.foldl linkTurn s) := by
  induction l generalizing s with
  | nil => exact .refl b s
  | cons c l ih =>
    rw [List.mem_cons, not_or] at hl
    obtain ⟨hbc, hl⟩ := hl
    exact (linkTurn_bystood (Ne.symm hbc) s).trans (ih hl _)

theorem BayWork.recipe {B : Bay → Prop} {s t : State} (h : BayWork B s t) (k : SlotIx) :
    (t.rbk.get k).recipe = (s.rbk.get k).recipe := by
  have hslot := congrArg Slot.recipe (h.slot k)
  exact hslot

theorem Bystood.alike {b : Bay} {s t : State} (h : Bystood b s t) : AbortsAlike b s t := by
  obtain ⟨hctl, hspu, hltu⟩ := h.work.other b fun hb => hb rfl
  obtain ⟨p, hp, hp'⟩ := h.spared.granted
  exact ⟨hspu, hltu, by rw [hctl], h.work.recipe, p, (s.bay b).ris.hold, (s.bay b).ris.holdTimer,
    (s.bay b).ris.phaseTimer, hp, hp'⟩

theorem withAlarm_withAlarm (w : BitVec 11) (a : BayAlarm) : withAlarm (withAlarm w a) a = withAlarm w a := by
  simp only [withAlarm, BitVec.or_assoc, BitVec.or_self]

theorem BayCtl.flagged_flagged (cause : Cause) (c : BayCtl) : (c.flagged cause).flagged cause = c.flagged cause := by
  cases cause <;> simp only [BayCtl.flagged, causeAlarm, withAlarm_withAlarm]

/-- The turn of a bay that is not RUNNING latches at most its flag. -/
theorem linkTurn_flags {b : Bay} {s : State} (h : (s.bay b).ctl.state ≠ .running) :
    linkTurn s b = if (s.bay b).ctl.state = .stopping then s.updCtl b (BayCtl.flagged .link) else s := by
  have hrun : s.running b = false := by simpa [State.running] using h
  unfold linkTurn
  by_cases hs : (s.bay b).ctl.state = .stopping
  · rw [if_pos (by simp [State.testing, hs]), if_pos hs, raiseFault_eq, if_neg (by simp [hrun])]
  · rw [if_neg (by simp [State.testing, hs, h]), if_neg hs]

/-- The controller of a bay that is not RUNNING, after all turns. -/
theorem linkTurns_ctl {b : Bay} (l : List Bay) (s : State) (h : (s.bay b).ctl.state ≠ .running) :
    ((l.foldl linkTurn s).bay b).ctl =
      if (s.bay b).ctl.state = .stopping ∧ b ∈ l then (s.bay b).ctl.flagged .link else (s.bay b).ctl := by
  induction l generalizing s with
  | nil => simp
  | cons c l ih =>
    rw [List.foldl_cons]
    by_cases hbc : c = b
    · subst hbc
      rw [linkTurn_flags h]
      by_cases hs : (s.bay c).ctl.state = .stopping
      · rw [if_pos hs, ih _ (by rw [State.updCtl_ctl_same]; exact h), State.updCtl_ctl_same, BayCtl.flagged_flagged, ite_self,
          if_pos ⟨hs, List.mem_cons_self⟩]
      · rw [if_neg hs, ih s h, if_neg (by simp [hs]), if_neg (by simp [hs])]
    · have hctl := ((linkTurn_bystood hbc s).work.other b fun hb => hb rfl).1
      rw [ih _ (by rw [hctl]; exact h), hctl]
      simp only [List.mem_cons, Ne.symm hbc, false_or]

/-- A bay that has taken the loss stands with its record, whatever turns follow. -/
theorem linkTurns_settled {b : Bay} (l : List Bay) (s : State) (hs : (s.bay b).ctl.state ≠ .running)
    (hf : (s.bay b).ctl.flagged .link = (s.bay b).ctl) (hc : ClearOf b s.oae) :
    (l.foldl linkTurn s).bay b = s.bay b ∧ ClearOf b (l.foldl linkTurn s).oae
      ∧ ∀ i : RecIx, (∀ c : Bay, c ≠ b → (s.bay c).ctl.bound ≠ some i) → (l.foldl linkTurn s).art.get i = s.art.get i := by
  induction l generalizing s with
  | nil => exact ⟨rfl, hc, fun _ _ => rfl⟩
  | cons c l ih =>
    rw [List.foldl_cons]
    have hturn : (linkTurn s c).bay b = s.bay b ∧ ClearOf b (linkTurn s c).oae
        ∧ ∀ i : RecIx, (∀ d : Bay, d ≠ b → (s.bay d).ctl.bound ≠ some i) →
          (linkTurn s c).art.get i = s.art.get i ∧ ∀ d : Bay, d ≠ b → ((linkTurn s c).bay d).ctl.bound ≠ some i := by
      by_cases hbc : c = b
      · subst hbc
        rw [linkTurn_flags hs]
        split
        · refine ⟨by rw [updCtl_bay, hf], hc, fun i hi => ⟨rfl, fun d hd => ?_⟩⟩
          rw [State.updCtl_ne s (Ne.symm hd)]
          exact hi d hd
        · exact ⟨rfl, hc, fun i hi => ⟨rfl, hi⟩⟩
      · have h := linkTurn_bystood hbc s
        obtain ⟨h1, h2⟩ := h.spared.clear hc
        exact ⟨h1, h2, h.record⟩
    obtain ⟨h1, h2, h3⟩ := hturn
    obtain ⟨g1, g2, g3⟩ := ih (linkTurn s c) (by rw [h1]; exact hs) (by rw [h1]; exact hf) h2
    exact ⟨g1.trans h1, g2, fun i hi => (g3 i (h3 i hi).2).trans (h3 i hi).1⟩

/-- A RUNNING bay after all turns. -/
theorem deliverLink_running (bays : List Bay) {b : Bay} {s : State} (hr : (s.bay b).ctl.state = .running) :
    (deliverLink bays s).abortedBy b .link .link ∧ Aborted b .link s (deliverLink bays s)
      ∧ ∀ (i : RecIx) (r : AxleRecord), s.bindsOpen b i r → (∀ c : Bay, c ≠ b → (s.bay c).ctl.bound ≠ some i) →
        (s.restsAtOnce b → (deliverLink bays s).art.get i =
          some ((r.aborted .link (s.abortNoise b) (s.abortLeak b)).concluded s.tbs.cellTime .aborted))
        ∧ (¬ s.restsAtOnce b → (deliverLink bays s).art.get i = some (r.aborted .link (s.abortNoise b) (s.abortLeak b))) := by
  rw [deliverLink_eq]
  obtain ⟨pre, post, hl, hpre⟩ := List.eq_append_cons_of_mem (mem_bayOrder bays b)
  rw [hl, List.foldl_append, List.foldl_cons]
  have hby := linkTurns_bystood pre hpre s
  generalize pre.foldl linkTurn s = s1 at *
  have hctl : (s1.bay b).ctl = (s.bay b).ctl := (hby.work.other b fun hb => hb rfl).1
  have hrun : s1.running b = true := by simp [State.running, hctl, hr]
  have hidle (h0 : (s.bay b).ris.phase = .idle) : (s1.bay b).ris = (s.bay b).ris := by
    obtain ⟨p, hp, rfl | ⟨h1, -⟩⟩ := hby.spared.granted
    · exact hp
    · rw [h0] at h1; cases h1
  have hturn : linkTurn s1 b = raiseFault b .link s1 := if_pos (by simp [State.testing, hctl, hr])
  have h1 : (raiseFault b .link s1).abortedBy b .link .link := raiseFault_abortedBy rfl hrun
  have h2 : Aborted b .link s (raiseFault b .link s1) := raiseFault_aborted hby.alike hrun hidle hctl
  have h3 {i : RecIx} {r : AxleRecord} (hi : s1.bindsOpen b i r) :=
    raiseFault_recorded (cause := .link) (.of_bay rfl fun _ => rfl) (Writes.refl b s1) hrun hi
  have hwork := raiseFault_work b s1 .link
  rw [hturn]
  generalize raiseFault b .link s1 = s2 at *
  obtain ⟨hflag, hcause, hstop, hsub⟩ := h1
  obtain ⟨hb1, hb2, hq, hlanes⟩ := h2
  have hnot : (s2.bay b).ctl.state ≠ .running := by
    obtain h | h := hstop <;> rw [h] <;> decide
  have hflagged : (s2.bay b).ctl.flagged .link = (s2.bay b).ctl := by
    by_cases hrest : s.restsAtOnce b
    · rw [hb2 hrest]
      simp only [BayCtl.flagged, BayCtl.abortedBy, causeAlarm, withAlarm_withAlarm]
    · rw [hb1 hrest]
      simp only [BayCtl.flagged, BayCtl.abortedBy, causeAlarm, withAlarm_withAlarm]
  obtain ⟨g1, ⟨gq, gl⟩, g3⟩ := linkTurns_settled post s2 hnot hflagged ⟨hq, hlanes⟩
  generalize post.foldl linkTurn s2 = t at *
  refine ⟨?_, ?_, fun i r hi hother => ?_⟩
  · unfold State.abortedBy State.stopped
    rw [g1]
    exact ⟨hflag, hcause, hstop, hsub⟩
  · unfold Aborted
    rw [g1]
    exact ⟨hb1, hb2, gq, gl⟩
  · obtain ⟨hart, hother1⟩ := hby.record i hother
    have hi1 : s1.bindsOpen b i r := ⟨by rw [hctl]; exact hi.1, hart.trans hi.2.1, hi.2.2⟩
    have hrec := h3 hi1
    rw [hby.alike.rests, hby.alike.abortNoise, hby.alike.abortLeak, hby.work.tbs] at hrec
    have hart2 := g3 i fun c hc => by rw [(hwork.other c hc).1]; exact hother1 c hc
    rw [hart2]
    exact ⟨fun hrest => (hrec.2 hrest).1, fun hrest => (hrec.1 hrest).1⟩

/-! ### LINK_LOSS -/

/-- The link after the loss (R161). -/
def State.linkDown (s : State) : State :=
  { s.ticking .lfe with lfe := s.lfe.quieter.lose }

theorem exec_linkLoss (bays : List Bay) {s : State} (ha : s.awaits .lfe) (hl : s.lfe.link = .up)
    (ht : s.mga.params.linkLossTimeout ≤ s.lfe.sampleQuiet + 1 ∨ s.mga.params.linkLossTimeout ≤ s.lfe.outputQuiet + 1) :
    exec (.linkLoss bays) s = .next { deliverLink bays s.linkDown with tbs := (s.serving .lfe).tbs } := by
  have he : s.linkExpires = true := by
    simp only [State.linkExpires, hl, beq_self_eq_true, Bool.true_and, decide_eq_true_eq]
    exact le_max_iff.mpr ht
  refine congrArg Host.Outcome.next ((expire_ticking he ha).trans ?_)
  have htick : lfeTick bays (s.ticking .lfe) = deliverLink bays s.linkDown := by
    unfold lfeTick
    rw [show (s.ticking .lfe).linkExpires = true from he, show (s.ticking .lfe).lfe.link = .up from hl]
    rfl
  exact congrArg (fun t : State => { t with tbs := (s.serving .lfe).tbs }) htick

theorem linkDown_alike (b : Bay) (s : State) : AbortsAlike b s s.linkDown := .of_bay rfl fun _ => rfl

/-- Settles O52: the turns before a bay's own do not touch what its abort reads, and those after it leave it as it is. -/
theorem linkLost : Obligations.LinkLost := by
  intro bays s ha hl ht
  have hex := exec_linkLoss bays ha hl ht
  have hwork := deliverLink_work bays s.linkDown
  have hrun {b : Bay} (h : (s.bay b).ctl.state = .running) := deliverLink_running bays (s := s.linkDown) (b := b) h
  have hctl {b : Bay} (h : (s.bay b).ctl.state ≠ .running) := linkTurns_ctl (bayOrder bays) s.linkDown h
  rw [← deliverLink_eq] at hctl
  generalize deliverLink bays s.linkDown = t at *
  refine ⟨_, hex, rfl, hwork.lfe, hwork.chx, hwork.mga, hwork.ports, fun b => ⟨fun hr => ?_, fun hs => ?_, fun hr hs => ?_⟩⟩
  · exact hrun hr
  · have hb : (t.bay b).ctl = (s.bay b).ctl.flagged .link := (hctl (by rw [hs]; decide)).trans (if_pos ⟨hs, mem_bayOrder bays b⟩)
    unfold State.stopped
    rw [show ({ t with tbs := (s.serving .lfe).tbs } : State).bay b = t.bay b from rfl, hb]
    exact ⟨hasAlarm_withAlarm _ _, .inl hs, rfl⟩
  · exact (hctl hr).trans (if_neg fun h => hs h.1)

end Sys2Proof.Machine
end

section
/-! Run-in steps: entry of the next step, STOP steps finished on entry, the end of RUNIN and what the bay goes on to
(R3, R15, R88, R92, R100); DWELL_END (O54). -/

namespace Sys2Proof.Machine

/-! ### Entry of a step -/

/-- The RIS in step i, entered by a reverse stop (R88). -/
def Ris.reversing (st : Step) (i : Nat) (x : Ris) : Ris :=
  { x.setStep st i with phase := .reverseStop, rampFrac := 0 }

theorem Ris.mustReverse_iff (st : Step) (x : Ris) : x.mustReverse st = true ↔ NeedsReverse st x := by
  unfold Ris.mustReverse NeedsReverse
  cases x.loadMode with
  | none => simp
  | some m => simp [Nat.pos_iff_ne_zero, and_comm]

/-- What entry to a step makes of the RIS when the reverse stop is not needed (R88). -/
theorem startRamp_setStep (b : Bay) (st : Step) (i : Nat) (s : State) :
    startRamp b st (s.updRis b (Ris.setStep st i)) = s.updRis b (Ris.stepEntered st i) := by
  unfold startRamp
  rw [State.updRis_updRis]
  congr 1
  funext x
  unfold Ris.stepEntered Ris.inStep Ris.setStep Ris.leaveRamp Step.rampTarget
  by_cases hk : st.kind = .stop
  · by_cases h : x.cmdSpeed = 0
    · simp only [hk, h, if_true]
    · simp only [hk, h, if_true, if_false]
  · by_cases h : x.cmdSpeed = st.target
    · simp only [hk, h, if_true, if_false]
    · simp only [hk, h, if_false]

theorem stepEntered_phase (st : Step) (i : Nat) (x : Ris) :
    (x.stepEntered st i).phase = .stopWait ↔ st.kind = .stop ∧ x.cmdSpeed = 0 := by
  unfold Ris.stepEntered
  dsimp only
  by_cases hk : st.kind = .stop
  · by_cases h : x.cmdSpeed = 0
    · simp [hk, h]
    · simp [hk, h]
  · by_cases h : x.cmdSpeed = st.target
    · simp [hk, h]
    · simp [hk, h]

/-- A step entered is no longer IDLE, and its entry does not depend on what the entry sets. -/
theorem stepEntered_ne_idle (st : Step) (i : Nat) (x : Ris) : (x.stepEntered st i).phase ≠ .idle := by
  unfold Ris.stepEntered
  dsimp only
  repeat' split
  all_goals decide

theorem stepEntered_of_run {st : Step} (h : st.kind ≠ .stop) (i : Nat) (x : Ris) : x.stepEntered st i = x.inStep st i := by
  unfold Ris.stepEntered
  rw [if_neg h]
  rfl

theorem atStandstill_iff (b : Bay) (s : State) :
    s.atStandstill b = true ↔ (s.bay b).ris.cmdSpeed = 0 ∧ (s.bay b).spu.standstill = true := by
  simp [State.atStandstill]

/-- Entry of the first of the remaining steps, by its three outcomes (R88, R92). -/
theorem enterSteps_cons (b : Bay) (st : Step) (rest : List Step) (i : Nat) (s : State) :
    (NeedsReverse st (s.bay b).ris → enterSteps b (st :: rest) i s = s.updRis b (Ris.reversing st i))
    ∧ (¬ NeedsReverse st (s.bay b).ris →
      (st.kind = .stop ∧ s.atStandstill b = true →
        enterSteps b (st :: rest) i s = enterSteps b rest (i + 1) (stepCompleted b (s.updRis b (Ris.stepEntered st i))))
      ∧ (¬ (st.kind = .stop ∧ s.atStandstill b = true) → enterSteps b (st :: rest) i s = s.updRis b (Ris.stepEntered st i))) := by
  have hrev : ((s.updRis b (Ris.setStep st i)).bay b).ris.mustReverse st = true ↔ NeedsReverse st (s.bay b).ris := by
    rw [State.updRis_ris_same]
    exact Ris.mustReverse_iff st (s.bay b).ris
  have hstop : (s.updRis b (Ris.stepEntered st i)).stopStepDone b = true ↔ st.kind = .stop ∧ s.atStandstill b = true := by
    unfold State.stopStepDone
    rw [Bool.and_eq_true, beq_iff_eq, atStandstill_iff, atStandstill_iff, updRis_bay]
    dsimp only
    rw [stepEntered_phase]
    constructor
    · rintro ⟨⟨h1, h2⟩, -, h3⟩; exact ⟨h1, h2, h3⟩
    · rintro ⟨h1, h2, h3⟩; exact ⟨⟨h1, h2⟩, h2, h3⟩
  rw [enterSteps]
  refine ⟨fun h => ?_, fun h => ?_⟩
  · dsimp only
    rw [if_pos (hrev.mpr h), State.updRis_updRis]
    rfl
  · dsimp only
    rw [if_neg (mt hrev.mp h), startRamp_setStep]
    exact ⟨fun hd => if_pos (hstop.mpr hd), fun hd => if_neg (mt hstop.mp hd)⟩

/-- After the last step the RIS runs down (R100). -/
theorem enterSteps_nil (b : Bay) (i : Nat) (s : State) :
    (¬ s.atStandstill b = true →
      enterSteps b [] i s = s.updRis b fun x => { x with phase := .rundown, rampFrac := 0, phaseTimer := 0 })
    ∧ (s.atStandstill b = true → enterSteps b [] i s =
      s.updRis b fun x => Ris.atRest { x with phase := .rundown, rampFrac := 0, phaseTimer := 0 }) := by
  have hstill : (s.updRis b fun x => { x with phase := .rundown, rampFrac := 0, phaseTimer := 0 }).atStandstill b = s.atStandstill b := by
    unfold State.atStandstill
    rw [updRis_bay]
  have hphase : ((s.updRis b fun x => { x with phase := .rundown, rampFrac := 0, phaseTimer := 0 }).bay b).ris.phase = .rundown := by
    rw [updRis_bay]
  unfold enterSteps enterRundown rundownTest
  rw [hstill]
  refine ⟨fun h => if_neg fun hc => h hc.2, fun h => ?_⟩
  rw [if_pos ⟨hphase, h⟩, State.updRis_updRis]

/-! ### What a finished step writes -/

theorem writeBound_frame (s : State) (b : Bay) (f : AxleRecord → AxleRecord) : ∃ a, s.writeBound b f = { s with art := a } := by
  unfold State.writeBound
  repeat' split
  all_goals exact ⟨_, rfl⟩

theorem stepCompleted_bay (b c : Bay) (s : State) : (stepCompleted b s).bay c = s.bay c := writeSummary_bay b c s _

theorem stepCompleted_writes (b : Bay) (s : State) : Writes b (AxleRecord.withSteps 1) s (stepCompleted b s) :=
  writeSummary_writes b s fun m => { m with stepsCompleted := m.stepsCompleted + 1 }

theorem withSteps_withSteps (m n : Nat) : AxleRecord.withSteps n ∘ AxleRecord.withSteps m = AxleRecord.withSteps (m + n) := by
  funext x
  simp [Function.comp, AxleRecord.withSteps, Nat.add_assoc]

theorem withSteps_zero : AxleRecord.withSteps 0 = id := rfl

/-! ### Steps entered at rest -/

/-- From s to t the bay's RIS has gone on to y, at commanded speed 0 and as ready as x for the entry of a step, with n more steps
completed; nothing else of the bay, and no reading, has changed. -/
structure SteppedOn (b : Bay) (n : Nat) (x : Ris) (s t : State) : Prop where
  bay : ∃ y, t.bay b = { s.bay b with ris := y } ∧ y.cmdSpeed = 0 ∧ ∀ st i, y.inStep st i = x.inStep st i
  writes : Writes b (AxleRecord.withSteps n) s t
  work : BayWork (· = b) s t

theorem SteppedOn.refl {b : Bay} {s : State} (h : (s.bay b).ris.cmdSpeed = 0) : SteppedOn b 0 (s.bay b).ris s s :=
  ⟨⟨_, rfl, h, fun _ _ => rfl⟩, .refl b s, .refl s⟩

/-- A STOP step entered at rest is finished. -/
theorem SteppedOn.stop {b : Bay} {n : Nat} {x : Ris} {s t : State} (h : SteppedOn b n x s t) (st : Step) (i : Nat) :
    SteppedOn b (n + 1) x s (stepCompleted b (t.updRis b (Ris.stepEntered st i))) := by
  obtain ⟨y, hy, h0, hin⟩ := h.bay
  refine ⟨⟨y.stepEntered st i, ?_, h0, fun st' j => ?_⟩, ?_, ?_⟩
  · rw [stepCompleted_bay, updRis_bay, hy]
  · rw [← hin st' j]; rfl
  · rw [← withSteps_withSteps]
    exact h.writes.trans ((updRis_writes b t _).trans (stepCompleted_writes b _))
  · exact h.work.trans ((updRis_work b t _).trans (writeSummary_work b _ _))

/-- The STOP steps at the head of the remaining steps are finished one after another at rest (R92). -/
theorem enterSteps_stops {b : Bay} {steps : List Step} {k n : Nat} {x : Ris} {s t : State} (m : Nat) (hk : k + m ≤ steps.length)
    (hstops : ∀ (j : Nat) (y : Step), k ≤ j → j < k + m → steps[j]? = some y → y.kind = .stop)
    (hstill : (s.bay b).spu.standstill = true) (h : SteppedOn b n x s t) :
    ∃ u, enterSteps b (steps.drop k) k t = enterSteps b (steps.drop (k + m)) (k + m) u ∧ SteppedOn b (n + m) x s u := by
  induction m with
  | zero => exact ⟨t, rfl, h⟩
  | succ m ih =>
    obtain ⟨u, hu, hs⟩ := ih (by omega) fun j y h1 h2 => hstops j y h1 (by omega)
    have hlt : k + m < steps.length := by omega
    have hkind := hstops (k + m) _ (by omega) (by omega) (List.getElem?_eq_getElem hlt)
    obtain ⟨y, hy, h0, -⟩ := hs.bay
    refine ⟨_, ?_, hs.stop steps[k + m] (k + m)⟩
    rw [hu, List.drop_eq_getElem_cons hlt]
    refine ((enterSteps_cons b _ _ _ u).2 fun hr => hr.1 (by rw [hy]; exact h0)).1 ⟨hkind, ?_⟩
    rw [atStandstill_iff, hy]
    exact ⟨h0, hstill⟩

/-! ### Sub-phases taken (R3, R131, R132) -/

/-- Entry of a cavity with a cool-wait limit: it stays in COOL_WAIT or goes to FILL at once (R132). -/
theorem enterCavities_cons (b : Bay) {c : Cavity} (rest : List Cavity) (i : Nat) (s : State) (h : 0 < c.coolWaitLimit) :
    enterCavities b (c :: rest) i s = s.updLtu b (Ltu.inCavity c i (s.coolEnough b c)) := by
  have hcool : (s.updLtu b (Ltu.enterCavity c i)).coolEnough b c = s.coolEnough b c := by
    unfold State.coolEnough State.cavityTemp State.roleReading State.roleLatch State.roleEntry
    rw [updLtu_bay]
    rfl
  unfold enterCavities
  dsimp only
  rw [hcool]
  cases s.coolEnough b c
  · rw [if_neg (by simp), if_neg (by omega)]
    rfl
  · rw [if_pos rfl, State.updLtu_updLtu]
    rfl

theorem inCavity_ne_done (c : Cavity) (i : Nat) (go : Bool) (u : Ltu) : (u.inCavity c i go).phase ≠ .done := by
  cases go <;> exact nofun

/-- A leak sub-phase taken at STANDSTILL with drive enable 0 enters its first cavity with the start permitted (R131, R132). -/
theorem runPlan_leak {b : Bay} {p : SubPhase} (rest : List SubPhase) {s : State} {r : Recipe} {c : Cavity} (hp : p ≠ .runin)
    (hr : (s.bay b).ctl.state = .running) (hq : s.recipeOf b = some r) (hc : r.cavities[0]? = some c) (h0 : 0 < c.coolWaitLimit)
    (hstill : (s.bay b).spu.standstill = true) (hdrive : (s.bay b).ris.driveEnable = false) :
    runPlan b (p :: rest) s = (s.updCtl b fun x => { x with subPhase := some p }).updLtu b fun u =>
      ({ u with startPermitted := true } : Ltu).inCavity c 0 (decide (s.roleReading b c.tempRole ≤ c.maxStartTemp)) := by
  generalize hs1 : (s.updCtl b fun x => { x with subPhase := some p }) = s1
  have hb1 : s1.bay b = { s.bay b with ctl := { (s.bay b).ctl with subPhase := some p } } := by rw [← hs1, updCtl_bay]
  have hq1 : s1.recipeOf b = some r := by rw [← hq]; exact recipeOf_congr (by rw [hb1]) fun k => by rw [← hs1]; rfl
  have hread : s1.roleReading b c.tempRole = s.roleReading b c.tempRole := by
    unfold State.roleReading State.roleLatch State.roleEntry
    rw [hb1, ← hs1]
    rfl
  have hleak : s1.inLeak b = true := by
    unfold State.inLeak State.running
    rw [hb1]
    cases p
    case runin => exact absurd rfl hp
    all_goals simp [hr]
  have hpermit : permitStart b (s1.updLtu b fun u => { u with startPermitted := false }) =
      s1.updLtu b fun u => { u with startPermitted := true } := by
    have hcond : ((s1.updLtu b fun u => { u with startPermitted := false }).inLeak b
        && ((s1.updLtu b fun u => { u with startPermitted := false }).bay b).spu.standstill
        && !((s1.updLtu b fun u => { u with startPermitted := false }).bay b).ris.driveEnable) = true := by
      unfold State.inLeak State.running at *
      rw [updLtu_bay]
      dsimp only
      rw [hleak, hb1]
      simp [hstill, hdrive]
    unfold permitStart
    rw [if_pos hcond, State.updLtu_updLtu]
  have hbegin : beginSubPhase b p s = s1.updLtu b fun u => ({ u with startPermitted := true } : Ltu).inCavity c 0
      (decide (s.roleReading b c.tempRole ≤ c.maxStartTemp)) := by
    have hb : beginSubPhase b p s = beginLeak b s1 := by
      unfold beginSubPhase
      rw [hs1]
      cases p
      case runin => exact absurd rfl hp
      all_goals rfl
    have hcool : (s1.updLtu b fun u => { u with startPermitted := true }).coolEnough b c =
        decide (s.roleReading b c.tempRole ≤ c.maxStartTemp) := by
      unfold State.coolEnough State.cavityTemp
      rw [← hread, updLtu_bay]
      unfold State.roleReading State.roleLatch State.roleEntry
      rw [updLtu_bay]
      simp only [Bool.and_true]
      rfl
    have hlist : (s1.updLtu b fun u => { u with startPermitted := true }).cavitiesFrom b 0 = c :: r.cavities.drop 1 := by
      have hrec : (s1.updLtu b fun u => { u with startPermitted := true }).recipeOf b = some r := by
        rw [← hq1]; exact recipeOf_congr (by rw [updLtu_bay]) fun _ => rfl
      obtain ⟨hlt, he⟩ := List.getElem?_eq_some_iff.mp hc
      unfold State.cavitiesFrom
      rw [hrec]
      exact (List.drop_eq_getElem_cons hlt).trans (by rw [he])
    rw [hb, beginLeak, hpermit, hlist, enterCavities_cons b _ 0 _ h0, hcool, State.updLtu_updLtu]
  have hdone : (beginSubPhase b p s).subPhaseDone b = false := by
    rw [hbegin]
    unfold State.subPhaseDone
    rw [updLtu_bay, hb1]
    cases p
    case runin => exact absurd rfl hp
    all_goals
      simp only [Bool.and_eq_false_iff, beq_eq_false_iff_ne]
      exact .inr (inCavity_ne_done c 0 _ _)
  unfold runPlan
  dsimp only
  rw [if_neg (by simp [hdone]), hbegin]

/-- At the end of the plan a bay with closed valves and no vent, at STANDSTILL, is COMPLETE (R13, R15). -/
theorem runPlan_nil {b : Bay} {s : State} (hstill : (s.bay b).spu.standstill = true) (hf : (s.bay b).ltu.fill = 0)
    (hv : (s.bay b).ltu.vent = 0) (hp : (s.bay b).ltu.phase ≠ .vent) :
    runPlan b [] s = enterComplete b (releaseBay b (s.updCtl b BayCtl.stop)) := by
  unfold runPlan stopNormally testStopped
  refine if_pos ?_
  unfold State.atRest
  rw [releaseBay_bay, updCtl_bay]
  refine ⟨rfl, ?_⟩
  simp [hstill, hf, hv, hp]

/-- Bay and record of a bay that is COMPLETE at the end of its plan (R15, R16, R17, R34). -/
theorem stopped_complete (b : Bay) (s : State) :
    (∃ v, v = (releaseBay b (s.updCtl b BayCtl.stop)).verdictAt b
      ∧ (enterComplete b (releaseBay b (s.updCtl b BayCtl.stop))).bay b =
        { ctl := (s.bay b).ctl.stop.completed s.mga.params.qualityStopLimit v, spu := (s.bay b).spu, ris := .reset, ltu := .reset,
          window := none })
    ∧ ∀ (j : RecIx) (x : AxleRecord), s.bindsOpen b j x → ∃ v : Verdict,
        FinalizedAt s.tbs.cellTime j x v s (enterComplete b (releaseBay b (s.updCtl b BayCtl.stop)))
        ∧ QualityJudged s.mga.params.qualityStopLimit v (s.bay b).ctl
            ((enterComplete b (releaseBay b (s.updCtl b BayCtl.stop))).bay b).ctl
        ∧ ∀ y : Recipe, (s.slot x.slot).recipe = some y → VerdictIs y x v := by
  have hw : Writes b id s (releaseBay b (s.updCtl b BayCtl.stop)) :=
    (updCtl_writes b s BayCtl.stop rfl).trans (releaseBay_writes b _)
  have hwork : BayWork (· = b) s (releaseBay b (s.updCtl b BayCtl.stop)) := (updCtl_work b s _).trans (releaseBay_work b _)
  have hb : (releaseBay b (s.updCtl b BayCtl.stop)).bay b = { s.bay b with ctl := (s.bay b).ctl.stop, window := none } := by
    rw [releaseBay_bay, updCtl_bay]
  generalize releaseBay b (s.updCtl b BayCtl.stop) = t at *
  have hbay := enterComplete_bay b t
  rw [hb, hwork.mga] at hbay
  refine ⟨⟨_, rfl, hbay⟩, fun j x hj => ⟨t.verdictFor x, ?_, ?_, fun y hy => ?_⟩⟩
  · have hfin := hw.finalized (enterComplete_finalizes (hw.bindsOpen hj))
    rw [hwork.tbs] at hfin
    exact hfin
  · have hv : t.verdictAt b = some (t.verdictFor x) := verdictAt_eq (hw.bindsOpen hj)
    rw [hbay, hv]
    exact (s.bay b).ctl.stop.completed_judged s.mga.params.qualityStopLimit (t.verdictFor x)
  · refine verdictFor_is (s := t) ?_
    rw [← hy]
    unfold State.slot
    rw [hw.rbk]

/-! ### The end of RUNIN -/

/-- RUNIN, still to be closed by its owner: state t is a bay's test in RUNIN with n more steps completed than in s. -/
structure InRunin (b : Bay) (r : Recipe) (n : Nat) (u : Ltu) (s t : State) : Prop where
  running : (s.bay b).ctl.state = .running
  recipe : s.recipeOf b = some r
  ctl : (t.bay b).ctl = { (s.bay b).ctl with subPhase := some .runin }
  ltu : (t.bay b).ltu = u
  still : (t.bay b).spu.standstill = true
  writes : Writes b (AxleRecord.withSteps n) s t
  work : BayWork (· = b) s t

theorem InRunin.recipeOf {b : Bay} {r : Recipe} {n : Nat} {u : Ltu} {s t : State} (h : InRunin b r n u s t) :
    t.recipeOf b = some r := by
  rw [← h.recipe]
  exact recipeOf_congr (by rw [h.ctl]) fun k => h.work.recipe k

theorem InRunin.reading {b : Bay} {r : Recipe} {n : Nat} {u : Ltu} {s t : State} (h : InRunin b r n u s t) (x : Role) :
    t.roleReading b x = s.roleReading b x := by
  unfold State.roleReading State.roleLatch State.roleEntry State.latch
  rw [h.ctl, h.work.chx]

theorem InRunin.on {b : Bay} {r : Recipe} {m n : Nat} {u : Ltu} {x : Ris} {s t v : State} (h : InRunin b r n u s t)
    (g : SteppedOn b m x t v) : InRunin b r (n + m) u s v := by
  obtain ⟨y, hy, -, -⟩ := g.bay
  exact ⟨h.running, h.recipe, by rw [hy]; exact h.ctl, by rw [hy]; exact h.ltu, by rw [hy]; exact h.still,
    (h.writes.trans g.writes).congr (withSteps_withSteps n m), h.work.trans g.work⟩

/-- RUNIN that has ended at STANDSTILL (R3, R13, R15, R100). -/
theorem runInEnded_of {b : Bay} {r : Recipe} {n : Nat} {u : Ltu} {s t : State} {z : Tbs} {y : Ris} (plan : List SubPhase)
    (h : InRunin b r n u s t) (hy : (t.bay b).ris = y.atRest) (hz : z.cellTime = s.tbs.cellTime) :
    RunInEnded b r plan n u s { runPlan b plan t with tbs := z } := by
  have hrun : (t.bay b).ctl.state = .running := by rw [h.ctl]; exact h.running
  refine ⟨fun rest c hplan hc h0 => ?_, fun hplan hf hv hp => ?_⟩
  · rw [hplan, runPlan_leak rest (by decide) hrun h.recipeOf hc h0 h.still (by rw [hy]; rfl)]
    generalize hv : (t.updCtl b fun x => { x with subPhase := some .leakPost }).updLtu b _ = v
    have hb : v.bay b = { t.bay b with
        ctl := { (t.bay b).ctl with subPhase := some .leakPost },
        ltu := { u with startPermitted := true }.inCavity c 0 (decide (s.roleReading b c.tempRole ≤ c.maxStartTemp)) } := by
      rw [← hv, updLtu_bay, updCtl_bay, h.ltu, h.reading]
    have hart : v.art = t.art := by rw [← hv]; rfl
    rw [show ({ v with tbs := z } : State).bay b = v.bay b from rfl, hb, hy, h.ctl]
    refine ⟨rfl, rfl, rfl, rfl, rfl, rfl, rfl, rfl, fun j x hj => ?_⟩
    exact (congrArg (fun a => a.get j) hart).trans (h.writes.bindsOpen hj).2.1
  · subst hplan
    rw [runPlan_nil h.still (by rw [h.ltu]; exact hf) (by rw [h.ltu]; exact hv) (by rw [h.ltu]; exact hp)]
    obtain ⟨⟨v, -, hb⟩, hrec⟩ := stopped_complete b t
    obtain ⟨m, al, l, hc, -, -⟩ := (t.bay b).ctl.stop.completed_fields t.mga.params.qualityStopLimit v
    rw [hc] at hb
    generalize enterComplete b (releaseBay b (t.updCtl b BayCtl.stop)) = e at *
    rw [show ({ e with tbs := z } : State).bay b = e.bay b from rfl]
    refine ⟨by rw [hb], by rw [hb], by rw [hb]; exact (congrArg BayCtl.cause h.ctl :), by rw [hb], by rw [hb], fun j x hj => ?_⟩
    obtain ⟨w, hfin, hjudged, hverdict⟩ := hrec j _ (h.writes.bindsOpen hj)
    rw [h.work.tbs] at hfin
    have hfin' := h.writes.finalized hfin
    rw [h.work.mga] at hjudged
    refine ⟨w, FinalizedAt.finalized (t := { e with tbs := z }) hfin' hz, ?_, fun q hq => hverdict q ?_⟩
    · rw [h.ctl] at hjudged
      exact hjudged
    · rw [← hq]
      exact h.work.recipe x.slot

end Sys2Proof.Machine
end

section
/-! DWELL_END (O54): the step is finished and the next entered. -/

namespace Sys2Proof.Machine

/-- Entry of steps moves the RIS only. -/
theorem enterSteps_ris (b : Bay) (l : List Step) (i : Nat) (s : State) :
    ∃ y, (enterSteps b l i s).bay b = { s.bay b with ris := y } := by
  induction l generalizing i s with
  | nil =>
    obtain ⟨h1, h2⟩ := enterSteps_nil b i s
    by_cases h : s.atStandstill b = true
    · rw [h2 h, updRis_bay]; exact ⟨_, rfl⟩
    · rw [h1 h, updRis_bay]; exact ⟨_, rfl⟩
  | cons st rest ih =>
    obtain ⟨h1, h2⟩ := enterSteps_cons b st rest i s
    by_cases hn : NeedsReverse st (s.bay b).ris
    · rw [h1 hn, updRis_bay]; exact ⟨_, rfl⟩
    · obtain ⟨h3, h4⟩ := h2 hn
      by_cases hd : st.kind = .stop ∧ s.atStandstill b = true
      · obtain ⟨y, hy⟩ := ih (i + 1) (stepCompleted b (s.updRis b (Ris.stepEntered st i)))
        rw [h3 hd, hy, stepCompleted_bay, updRis_bay]
        exact ⟨y, rfl⟩
      · rw [h4 hd, updRis_bay]; exact ⟨_, rfl⟩

/-! ### Where entry of the remaining steps leaves the bay -/

/-- The rest of the plan is taken once the sub-phase in progress is done (R3). -/
def goOn (b : Bay) (plan : List SubPhase) (s : State) : State := if s.subPhaseDone b then runPlan b plan s else s

theorem advance_eq (b : Bay) (s : State) : advance b s = goOn b (s.bay b).ctl.planAfter s := rfl

theorem runPlan_cons (b : Bay) (p : SubPhase) (rest : List SubPhase) (s : State) :
    runPlan b (p :: rest) s = goOn b rest (beginSubPhase b p s) := rfl

theorem runin_done {b : Bay} {s : State} (hr : (s.bay b).ctl.state = .running) (hp : (s.bay b).ctl.subPhase = some .runin) :
    s.subPhaseDone b = true ↔ (s.bay b).ris.phase = .idle := by
  simp [State.subPhaseDone, State.running, hr, hp]

/-- RUNIN goes on while the RIS is not IDLE. -/
theorem goOn_runin {b : Bay} {s : State} (plan : List SubPhase) (hr : (s.bay b).ctl.state = .running)
    (hp : (s.bay b).ctl.subPhase = some .runin) (hi : (s.bay b).ris.phase ≠ .idle) : goOn b plan s = s :=
  if_neg (mt (runin_done hr hp).mp hi)

theorem InRunin.updRis {b : Bay} {r : Recipe} {n : Nat} {u : Ltu} {s t : State} (h : InRunin b r n u s t) (f : Ris → Ris) :
    InRunin b r n u s (t.updRis b f) :=
  ⟨h.running, h.recipe, by rw [updRis_bay]; exact h.ctl, by rw [updRis_bay]; exact h.ltu, by rw [updRis_bay]; exact h.still,
    h.writes.trans (updRis_writes b t f), h.work.trans (updRis_work b t f)⟩

/-- Step k entered at STANDSTILL and commanded speed 0 (R88, R92, R100). -/
theorem entersAtRest_of {b : Bay} {r : Recipe} {k n : Nat} {u : Ltu} {s t : State} {z : Tbs} (plan : List SubPhase)
    (h : InRunin b r n u s t) (h0 : (t.bay b).ris.cmdSpeed = 0) (hz : z.cellTime = s.tbs.cellTime) :
    EntersAtRest b r k n plan u (t.bay b).ris s { goOn b plan (enterSteps b (r.steps.drop k) k t) with tbs := z } := by
  intro m hstops
  have hreach (hk : k + m ≤ r.steps.length) := enterSteps_stops m hk hstops h.still (SteppedOn.refl h0)
  refine ⟨fun nx hnx hkind => ?_, fun hlen => ?_⟩
  · obtain ⟨hlt, he⟩ := List.getElem?_eq_some_iff.mp hnx
    obtain ⟨v, hv, hs⟩ := hreach (Nat.le_of_lt hlt)
    obtain ⟨y, hy, hy0, hin⟩ := hs.bay
    have hin' := (h.on hs).updRis (Ris.stepEntered nx (k + m))
    have hentered : enterSteps b (r.steps.drop k) k t = v.updRis b (Ris.stepEntered nx (k + m)) := by
      rw [hv, List.drop_eq_getElem_cons hlt, he]
      exact ((enterSteps_cons b nx _ _ v).2 fun hr => hr.1 (by rw [hy]; exact hy0)).2 fun hc => hkind hc.1
    have hris : ((v.updRis b (Ris.stepEntered nx (k + m))).bay b).ris = (t.bay b).ris.inStep nx (k + m) := by
      rw [updRis_bay, hy, ← hin nx (k + m)]
      exact stepEntered_of_run hkind (k + m) y
    have hidle : ((v.updRis b (Ris.stepEntered nx (k + m))).bay b).ris.phase ≠ .idle := by
      rw [updRis_bay]; exact stepEntered_ne_idle nx (k + m) _
    rw [hentered, goOn_runin plan (by rw [hin'.ctl]; exact h.running) (by rw [hin'.ctl]) hidle]
    generalize v.updRis b (Ris.stepEntered nx (k + m)) = w at *
    have hrec : Writes b (AxleRecord.withSteps (n + m)) s w := by
      have := hin'.writes
      rwa [Nat.zero_add] at this
    exact ⟨hin'.ctl, hin'.ltu, hris, fun j x hj => (hrec.bindsOpen hj).2.1⟩
  · obtain ⟨v, hv, hs⟩ := hreach (Nat.le_of_eq hlen.symm)
    obtain ⟨y, hy, hy0, -⟩ := hs.bay
    have hin' := (h.on hs).updRis fun x => Ris.atRest { x with phase := .rundown, rampFrac := 0, phaseTimer := 0 }
    rw [Nat.zero_add] at hin'
    have hentered : enterSteps b (r.steps.drop k) k t =
        v.updRis b fun x => Ris.atRest { x with phase := .rundown, rampFrac := 0, phaseTimer := 0 } := by
      rw [hv, ← hlen, List.drop_length]
      refine (enterSteps_nil b _ v).2 ?_
      rw [atStandstill_iff, hy]
      exact ⟨hy0, h.still⟩
    have hris := congrArg BayUnit.ris
      (updRis_bay b v fun x => Ris.atRest { x with phase := .rundown, rampFrac := 0, phaseTimer := 0 })
    rw [hentered]
    have hdone : (v.updRis b fun x => Ris.atRest { x with phase := .rundown, rampFrac := 0, phaseTimer := 0 }).subPhaseDone b = true := by
      refine (runin_done (by rw [hin'.ctl]; exact h.running) (by rw [hin'.ctl])).mpr ?_
      rw [hris]
      rfl
    rw [goOn, if_pos hdone]
    exact runInEnded_of plan hin' hris hz

/-- Step k entered while the shaft is commanded to turn or not yet judged to stand (R88, R92, R100). -/
theorem goOn_turning {b : Bay} {r : Recipe} {k : Nat} {t : State} (plan : List SubPhase) (hr : (t.bay b).ctl.state = .running)
    (hp : (t.bay b).ctl.subPhase = some .runin) (h : (t.bay b).ris.cmdSpeed ≠ 0 ∨ (t.bay b).spu.standstill = false) :
    ∃ f : Ris → Ris, goOn b plan (enterSteps b (r.steps.drop k) k t) = t.updRis b f
      ∧ (∀ nx : Step, r.steps[k]? = some nx →
        (NeedsReverse nx (t.bay b).ris → f = Ris.reversing nx k) ∧ (¬ NeedsReverse nx (t.bay b).ris → f = Ris.stepEntered nx k))
      ∧ (r.steps.length = k → f = fun x => { x with phase := .rundown, rampFrac := 0, phaseTimer := 0 }) := by
  have hstill : ¬ t.atStandstill b = true := by
    rw [atStandstill_iff]
    rintro ⟨h0, h1⟩
    obtain h | h := h
    · exact h h0
    · rw [h1] at h; cases h
  have hgo {f : Ris → Ris} (hf : (f (t.bay b).ris).phase ≠ .idle) : goOn b plan (t.updRis b f) = t.updRis b f := by
    refine goOn_runin plan ?_ ?_ ?_
    all_goals rw [updRis_bay]; assumption
  by_cases hlt : k < r.steps.length
  · have hget := List.getElem?_eq_getElem hlt
    obtain ⟨hrev, hnot⟩ := enterSteps_cons b r.steps[k] (r.steps.drop (k + 1)) k t
    rw [List.drop_eq_getElem_cons hlt]
    by_cases hn : NeedsReverse r.steps[k] (t.bay b).ris
    · refine ⟨Ris.reversing r.steps[k] k, by rw [hrev hn, hgo (show RisPhase.reverseStop ≠ .idle by decide)], ?_, fun hl => by omega⟩
      intro nx hnx
      rw [hget] at hnx
      cases hnx
      exact ⟨fun _ => rfl, fun h => absurd hn h⟩
    · refine ⟨Ris.stepEntered r.steps[k] k, ?_, ?_, fun hl => by omega⟩
      · rw [(hnot hn).2 fun hc => hstill hc.2, hgo (stepEntered_ne_idle _ _ _)]
      · intro nx hnx
        rw [hget] at hnx
        cases hnx
        exact ⟨fun h => absurd h hn, fun _ => rfl⟩
  · have hnil : r.steps.drop k = [] := List.drop_eq_nil_of_le (by omega)
    refine ⟨_, ?_, fun nx hnx => ?_, fun _ => rfl⟩
    · rw [hnil, (enterSteps_nil b k t).1 hstill, hgo (show RisPhase.rundown ≠ .idle by decide)]
    · rw [List.getElem?_eq_none (by omega)] at hnx
      cases hnx

/-! ### DWELL_END -/

/-- The state in which the dwell has ended and its step is counted as completed (R92). -/
def State.dwelt (s : State) (b : Bay) : State :=
  stepCompleted b ((s.ticking (.risPhase b)).updRis b fun x => { x with phaseTimer := (s.bay b).ris.phaseTimer + 1 })

theorem dwelt_bay (s : State) (b : Bay) :
    (s.dwelt b).bay b = { s.bay b with ris := { (s.bay b).ris with phaseTimer := (s.bay b).ris.phaseTimer + 1 } } := by
  unfold State.dwelt
  rw [stepCompleted_bay, updRis_bay]
  rfl

theorem dwelt_writes (s : State) (b : Bay) : Writes b (AxleRecord.withSteps 1) (s.ticking (.risPhase b)) (s.dwelt b) :=
  (updRis_writes b _ _).trans (stepCompleted_writes b _)

theorem dwelt_work (s : State) (b : Bay) : BayWork (· = b) (s.ticking (.risPhase b)) (s.dwelt b) :=
  (updRis_work b _ _).trans (stepCompleted_work b _)

theorem inRunin_iff (b : Bay) (s : State) : s.inRunin b = true ↔ (s.bay b).ctl.state = .running ∧ (s.bay b).ctl.subPhase = some .runin := by
  simp [State.inRunin, State.running]

section
variable {b : Bay} {r : Recipe} {i : Nat} {st : Step} {s : State} (hq : s.recipeOf b = some r)
  (hi : (s.bay b).ris.stepIndex = some i) (hst : r.steps[i]? = some st) (hp : (s.bay b).ris.phase = .dwell)
  (hh : (s.bay b).ris.hold = false) (ht : st.dwell ≤ (s.bay b).ris.phaseTimer + 1)
include hq hi hst hp hh ht

/-- A dwell that has lasted its time (R92). -/
theorem risPhaseTick_dwell : risPhaseTick b (s.ticking (.risPhase b)) =
    goOn b (s.bay b).ctl.planAfter (enterSteps b (r.steps.drop (i + 1)) (i + 1) (s.dwelt b)) := by
  have hq1 : (s.ticking (.risPhase b)).recipeOf b = some r := hq
  have hst1 : (s.ticking (.risPhase b)).stepOf b = some st := by
    show (s.recipeOf b).bind _ = _
    rw [hq, Option.bind_some]
    show (s.bay b).ris.stepIndex.bind _ = _
    rw [hi, Option.bind_some, hst]
  have hp1 : ((s.ticking (.risPhase b)).bay b).ris.phase = .dwell := hp
  have htimed {t : State} (h : (t.bay b).ris.phase = .dwell) : t.settleTimed b = false := by simp [State.settleTimed, h]
  have hlimit : (s.ticking (.risPhase b)).risLimit b r st = some st.dwell := by
    unfold State.risLimit
    rw [htimed hp1, hp1, show ((s.ticking (.risPhase b)).bay b).ris.hold = false from hh]
    rfl
  have hramp : rampInForce r st ((s.ticking (.risPhase b)).bay b).ris = none := by simp [rampInForce, hp1]
  have hnext : finishStep b ((s.ticking (.risPhase b)).updRis b fun x => { x with phaseTimer := (s.bay b).ris.phaseTimer + 1 }) =
      enterSteps b (r.steps.drop (i + 1)) (i + 1) (s.dwelt b) := by
    have hrec : (s.dwelt b).recipeOf b = some r := by
      rw [← hq]; exact recipeOf_congr (by rw [dwelt_bay]) fun k => (dwelt_work s b).recipe k
    have hix : ((s.dwelt b).bay b).ris.stepIndex = some i := by rw [dwelt_bay]; exact hi
    show nextStep b (s.dwelt b) = _
    unfold nextStep
    rw [hix]
    dsimp only
    unfold State.stepsFrom
    rw [hrec]
  have hphase : (((s.ticking (.risPhase b)).updRis b fun x => { x with phaseTimer := (s.bay b).ris.phaseTimer + 1 }).bay b).ris.phase =
      .dwell := by rw [updRis_bay]; exact hp
  have hctl : ((enterSteps b (r.steps.drop (i + 1)) (i + 1) (s.dwelt b)).bay b).ctl = (s.bay b).ctl := by
    obtain ⟨y, hy⟩ := enterSteps_ris b (r.steps.drop (i + 1)) (i + 1) (s.dwelt b)
    rw [hy, dwelt_bay]
  unfold risPhaseTick
  rw [hq1, hst1]
  dsimp only
  rw [hramp, hlimit]
  dsimp only
  rw [if_pos (show st.dwell ≤ ((s.ticking (.risPhase b)).bay b).ris.phaseTimer + 1 from ht)]
  unfold risPhaseEnd
  rw [show ((s.ticking (.risPhase b)).bay b).ris.phaseTimer = (s.bay b).ris.phaseTimer from rfl, htimed hphase, if_neg (by decide), hphase]
  dsimp only
  rw [hnext, advance_eq, hctl]

theorem exec_dwellEnd (ha : s.awaits (.risPhase b)) : exec (.dwellEnd b) s = .next
    { goOn b (s.bay b).ctl.planAfter (enterSteps b (r.steps.drop (i + 1)) (i + 1) (s.dwelt b)) with
      tbs := (s.serving (.risPhase b)).tbs } := by
  have hst' : s.stepOf b = some st := by
    unfold State.stepOf
    rw [hq, hi]
    exact hst
  have hexp : (s.risIn b .dwell && s.risExpires b) = true := by
    have hlimit : s.risLimit b r st = some st.dwell := by simp [State.risLimit, State.settleTimed, hp, hh]
    simp [State.risIn, State.risExpires, hp, hq, hst', hlimit, ht]
  refine congrArg Host.Outcome.next ((expire_ticking hexp ha).trans ?_)
  rw [show tickUnit [] (.risPhase b) (s.ticking (.risPhase b)) = risPhaseTick b (s.ticking (.risPhase b)) from rfl,
    risPhaseTick_dwell hq hi hst hp hh ht]

end

theorem goOn_work (b : Bay) (plan : List SubPhase) (s : State) : BayWork (· = b) s (goOn b plan s) :=
  .ite (runPlan_work b s plan) (.refl s)

/-- What the end of a dwell does while the shaft is commanded to turn or not yet judged to stand. -/
theorem dwellEnd_turning {b : Bay} {r : Recipe} {i : Nat} {s : State} (hin : s.inRunin b = true)
    (h : (s.bay b).ris.cmdSpeed ≠ 0 ∨ (s.bay b).spu.standstill = false) :
    ∃ f : Ris → Ris, goOn b (s.bay b).ctl.planAfter (enterSteps b (r.steps.drop (i + 1)) (i + 1) (s.dwelt b)) = (s.dwelt b).updRis b f
      ∧ (∀ nx : Step, r.steps[i + 1]? = some nx →
        (NeedsReverse nx (s.bay b).ris → f = Ris.reversing nx (i + 1))
        ∧ (¬ NeedsReverse nx (s.bay b).ris → f = Ris.stepEntered nx (i + 1)))
      ∧ (r.steps.length = i + 1 → f = fun x => { x with phase := .rundown, rampFrac := 0, phaseTimer := 0 }) := by
  obtain ⟨hr, hsub⟩ := (inRunin_iff b s).mp hin
  have hturn := goOn_turning (t := s.dwelt b) (r := r) (k := i + 1) (s.bay b).ctl.planAfter (by rw [dwelt_bay]; exact hr)
    (by rw [dwelt_bay]; exact hsub) (by rw [dwelt_bay]; exact h)
  rw [dwelt_bay] at hturn
  exact hturn

/-- Settles O54. -/
theorem dwellEnded : Obligations.DwellEnded := by
  refine ⟨fun b r i st nx s ha hin hq hi hst hnx hp hh ht hkind hdir => ?_, fun b r i st s ha hin hq hi hst hp hh ht => ?_⟩
  · obtain ⟨hr, hsub⟩ := (inRunin_iff b s).mp hin
    have hex := exec_dwellEnd hq hi hst hp hh ht ha
    have hnot : ¬ NeedsReverse nx ((s.dwelt b).bay b).ris := by
      rw [dwelt_bay]
      rintro ⟨h0, m, hm, hne⟩
      obtain h | h := hdir
      · exact h0 h
      · exact hne (h m hm)
    obtain ⟨hlt, hget⟩ := List.getElem?_eq_some_iff.mp hnx
    have hentered : enterSteps b (r.steps.drop (i + 1)) (i + 1) (s.dwelt b) = (s.dwelt b).updRis b (Ris.stepEntered nx (i + 1)) := by
      rw [List.drop_eq_getElem_cons hlt, hget]
      exact ((enterSteps_cons b nx _ (i + 1) _).2 hnot).2 fun hc => hkind hc.1
    have hb : ((s.dwelt b).updRis b (Ris.stepEntered nx (i + 1))).bay b =
        { s.bay b with ris := (s.bay b).ris.inStep nx (i + 1) } := by
      rw [updRis_bay, dwelt_bay, stepEntered_of_run hkind]
      rfl
    have hgo : goOn b (s.bay b).ctl.planAfter ((s.dwelt b).updRis b (Ris.stepEntered nx (i + 1))) =
        (s.dwelt b).updRis b (Ris.stepEntered nx (i + 1)) := by
      refine goOn_runin _ (by rw [hb]; exact hr) (by rw [hb]; exact hsub) ?_
      rw [updRis_bay]
      exact stepEntered_ne_idle nx (i + 1) _
    rw [hentered, hgo] at hex
    have hw := (dwelt_writes s b).trans (updRis_writes b _ (Ris.stepEntered nx (i + 1)))
    have hwork := (dwelt_work s b).trans (updRis_work b _ (Ris.stepEntered nx (i + 1)))
    obtain ⟨a, hframe⟩ := writeBound_frame ((s.ticking (.risPhase b)).updRis b fun x =>
      { x with phaseTimer := (s.bay b).ris.phaseTimer + 1 }) b
      fun x => { x with summary := { x.summary with stepsCompleted := x.summary.stepsCompleted + 1 } }
    have hdwelt : s.dwelt b = { (s.ticking (.risPhase b)).updRis b fun x =>
      { x with phaseTimer := (s.bay b).ris.phaseTimer + 1 } with art := a } := hframe
    refine ⟨_, hex, .of_ticking hwork, rfl, hb, ?_, ?_, ?_, ?_, fun j x hj => (hw.bindsOpen hj).2.1⟩
    all_goals
      rw [hdwelt]
      rfl
  · have hex := exec_dwellEnd hq hi hst hp hh ht ha
    have hwork := (dwelt_work s b).trans ((enterSteps_work b _ _ _).trans (goOn_work b (s.bay b).ctl.planAfter _))
      (u := goOn b (s.bay b).ctl.planAfter (enterSteps b (r.steps.drop (i + 1)) (i + 1) (s.dwelt b)))
    obtain ⟨hr, hsub⟩ := (inRunin_iff b s).mp hin
    refine ⟨_, hex, .of_ticking hwork, rfl, fun h0 hstill => ?_, fun hturn => ?_⟩
    · have hin' : InRunin b r 1 (s.bay b).ltu (s.ticking (.risPhase b)) (s.dwelt b) :=
        ⟨hr, hq, by rw [dwelt_bay, ← hsub]; rfl, by rw [dwelt_bay], by rw [dwelt_bay]; exact hstill, dwelt_writes s b, dwelt_work s b⟩
      have hrest := entersAtRest_of (k := i + 1) (z := (s.serving (.risPhase b)).tbs) (s.bay b).ctl.planAfter hin'
        (by rw [dwelt_bay]; exact h0) rfl
      rw [dwelt_bay] at hrest
      exact hrest
    · obtain ⟨f, hf, hsteps, hlast⟩ := dwellEnd_turning (r := r) (i := i) hin hturn
      rw [hf]
      have hb : ((s.dwelt b).updRis b f).bay b =
          { s.bay b with ris := f { (s.bay b).ris with phaseTimer := (s.bay b).ris.phaseTimer + 1 } } := by
        rw [updRis_bay, dwelt_bay]
      have hw := (dwelt_writes s b).trans (updRis_writes b _ f)
      generalize (s.dwelt b).updRis b f = t at *
      rw [show ({ t with tbs := (s.serving (.risPhase b)).tbs } : State).bay b = t.bay b from rfl, hb]
      refine ⟨rfl, rfl, rfl, fun j x hj => (hw.bindsOpen hj).2.1, fun nx hnx => ⟨fun hn => ?_, fun hn => ?_⟩, fun hl => ?_⟩
      · rw [(hsteps nx hnx).1 hn]; rfl
      · rw [(hsteps nx hnx).2 hn]; rfl
      · rw [hlast hl]

end Sys2Proof.Machine
end

section
/-! VENT_END (O60): refill, the next cavity, the end of a leak sub-phase, and rest in STOPPING (R3, R13, R15, R138, R141). -/

namespace Sys2Proof.Machine

/-! ### The test of R13 after a tick of the Leak Test Unit -/

theorem testStopped_of_ne {b : Bay} {s : State} (h : (s.bay b).ctl.state ≠ .stopping) : testStopped b s = s := if_neg fun hc => h hc.1

theorem testStopped_testStopped (b : Bay) (s : State) : testStopped b (testStopped b s) = testStopped b s := by
  by_cases h : (s.bay b).ctl.state = .stopping ∧ s.atRest b
  · have hc : testStopped b s = enterComplete b s := if_pos h
    rw [hc]
    refine testStopped_of_ne ?_
    rw [enterComplete_bay]
    exact nofun
  · have hc : testStopped b s = s := if_neg h
    rw [hc, hc]

theorem permitStart_bay (b : Bay) (s : State) : ∃ u, (permitStart b s).bay b = { s.bay b with ltu := u } := by
  unfold permitStart
  split
  · exact ⟨_, updLtu_bay b s _⟩
  · exact ⟨_, rfl⟩

theorem enterCavities_bay (b : Bay) (l : List Cavity) (i : Nat) (s : State) :
    ∃ u, (enterCavities b l i s).bay b = { s.bay b with ltu := u } := by
  induction l generalizing i s with
  | nil => exact ⟨_, updLtu_bay b s _⟩
  | cons c rest ih =>
    unfold enterCavities
    dsimp only
    split
    · exact ⟨_, by rw [updLtu_bay, updLtu_bay]⟩
    · split
      · obtain ⟨u, hu⟩ := ih (i + 1) (incompleteEnd b c (s.updLtu b (Ltu.enterCavity c i)))
        rw [hu, incompleteEnd_bay, updLtu_bay]
        exact ⟨u, rfl⟩
      · exact ⟨_, updLtu_bay b s _⟩

/-- A sub-phase taken changes nothing of the controller but itself. -/
theorem beginSubPhase_ctl (b : Bay) (p : SubPhase) (s : State) :
    ((beginSubPhase b p s).bay b).ctl = { (s.bay b).ctl with subPhase := some p } := by
  have hleak (t : State) : ((beginLeak b t).bay b).ctl = (t.bay b).ctl := by
    unfold beginLeak
    obtain ⟨u, hu⟩ := permitStart_bay b (t.updLtu b fun u => { u with startPermitted := false })
    obtain ⟨v, hv⟩ := enterCavities_bay b ((permitStart b (t.updLtu b fun u => { u with startPermitted := false })).cavitiesFrom b 0) 0
      (permitStart b (t.updLtu b fun u => { u with startPermitted := false }))
    rw [hv, hu, updLtu_bay]
  have hrunin (t : State) : ((beginRunin b t).bay b).ctl = (t.bay b).ctl := by
    unfold beginRunin State.setCmdSpeed
    dsimp only
    obtain ⟨y, hy⟩ := enterSteps_ris b _ 0 _
    rw [hy, updRis_bay]
    split
    · rw [updSpu_bay, updRis_bay]
    · rw [updRis_bay]
  unfold beginSubPhase
  cases p
  · exact (hleak _).trans (by rw [updCtl_bay])
  · exact (hrunin _).trans (by rw [updCtl_bay])
  · exact (hleak _).trans (by rw [updCtl_bay])

/-- The end of a plan has made the test of R13 itself. -/
theorem testStopped_runPlan {b : Bay} (plan : List SubPhase) (s : State) (h : (s.bay b).ctl.state = .running) :
    testStopped b (runPlan b plan s) = runPlan b plan s := by
  induction plan generalizing s with
  | nil => exact testStopped_testStopped b _
  | cons p rest ih =>
    have hr : ((beginSubPhase b p s).bay b).ctl.state = .running := by rw [beginSubPhase_ctl]; exact h
    rw [runPlan_cons]
    unfold goOn
    split
    · exact ih _ hr
    · exact testStopped_of_ne (by rw [hr]; decide)

theorem testStopped_goOn {b : Bay} (plan : List SubPhase) {s : State} (h : (s.bay b).ctl.state = .running) :
    testStopped b (goOn b plan s) = goOn b plan s := by
  unfold goOn
  split
  · exact testStopped_runPlan plan s h
  · exact testStopped_of_ne (by rw [h]; decide)

/-! ### The end of a vent -/

/-- The state in which the vent valve has closed (R138). -/
def State.vented (s : State) (b : Bay) (c : Cavity) : State :=
  (s.ticking (.ltu b)).updLtu b fun u =>
    { u with phaseTimer := (s.bay b).ltu.phaseTimer + 1, vent := u.vent &&& ~~~ pairBit c.pair, afterVent := none }

/-- What follows the vent (R138, R141). -/
def ventNext (b : Bay) (c : Cavity) (what : Option AfterVent) (s : State) : State :=
  if s.running b then
    match what with
    | some .refill => s.updLtu b fun u => { (u.noReadings.enterFill c) with attempts := 2 }
    | _ => nextCavity b s
  else s.updLtu b fun u => { u with phase := .idle, cavityIndex := none }

theorem vented_bay (s : State) (b : Bay) (c : Cavity) : (s.vented b c).bay b = { s.bay b with ltu :=
    { (s.bay b).ltu with
      phaseTimer := (s.bay b).ltu.phaseTimer + 1, vent := (s.bay b).ltu.vent &&& ~~~ pairBit c.pair, afterVent := none } } := by
  unfold State.vented
  rw [updLtu_bay]
  rfl

theorem vented_writes (s : State) (b : Bay) (c : Cavity) : Writes b id (s.ticking (.ltu b)) (s.vented b c) := updLtu_writes b _ _

theorem vented_work (s : State) (b : Bay) (c : Cavity) : BayWork (· = b) (s.ticking (.ltu b)) (s.vented b c) := updLtu_work b _ _

theorem vented_recipe (s : State) (b : Bay) (c : Cavity) : (s.vented b c).recipeOf b = s.recipeOf b :=
  recipeOf_congr (by rw [vented_bay]) fun _ => rfl

theorem leakTick_vent {b : Bay} {c : Cavity} {s : State} (hc : s.cavityOf b = some c) (hp : (s.bay b).ltu.phase = .vent)
    (ht : c.ventTime ≤ (s.bay b).ltu.phaseTimer + 1) :
    leakTick b (s.ticking (.ltu b)) = testStopped b (advance b (ventNext b c (s.bay b).ltu.afterVent (s.vented b c))) := by
  have hc1 : (s.ticking (.ltu b)).cavityOf b = some c := hc
  have hlimit : ((s.ticking (.ltu b)).bay b).ltu.limit c = some c.ventTime := by
    unfold Ltu.limit
    rw [show ((s.ticking (.ltu b)).bay b).ltu.phase = .vent from hp]
  have hphase : (((s.ticking (.ltu b)).updLtu b fun u => { u with phaseTimer := (s.bay b).ltu.phaseTimer + 1 }).bay b).ltu.phase =
      .vent := by rw [updLtu_bay]; exact hp
  unfold leakTick ltuTick
  rw [hc1]
  dsimp only
  rw [hlimit]
  dsimp only
  rw [if_pos (show c.ventTime ≤ ((s.ticking (.ltu b)).bay b).ltu.phaseTimer + 1 from ht)]
  unfold phaseEnd
  rw [show ((s.ticking (.ltu b)).bay b).ltu.phaseTimer = (s.bay b).ltu.phaseTimer from rfl, hphase]
  unfold ventEnd
  dsimp only
  rw [State.updLtu_updLtu, updLtu_bay]
  rfl

theorem exec_ventEnd {b : Bay} {c : Cavity} {s : State} (ha : s.awaits (.ltu b)) (hc : s.cavityOf b = some c)
    (hp : (s.bay b).ltu.phase = .vent) (ht : c.ventTime ≤ (s.bay b).ltu.phaseTimer + 1) :
    exec (.ventEnd b) s = .next
      { testStopped b (advance b (ventNext b c (s.bay b).ltu.afterVent (s.vented b c))) with tbs := (s.serving (.ltu b)).tbs } := by
  have hexp : (s.ltuIn b .vent && s.ltuExpires b) = true := by simp [State.ltuIn, State.ltuExpires, hp, hc, Ltu.limit, ht]
  refine congrArg Host.Outcome.next ((expire_ticking hexp ha).trans ?_)
  rw [show tickUnit [] (.ltu b) (s.ticking (.ltu b)) = leakTick b (s.ticking (.ltu b)) from rfl, leakTick_vent hc hp ht]

theorem inLeak_iff (b : Bay) (s : State) : s.inLeak b = true ↔
    (s.bay b).ctl.state = .running ∧ ((s.bay b).ctl.subPhase = some .leakPre ∨ (s.bay b).ctl.subPhase = some .leakPost) := by
  simp [State.inLeak, State.running]

/-- A leak sub-phase is done when its Leak Test Unit is (R3). -/
theorem leak_done {b : Bay} {s : State} (h : s.inLeak b = true) : s.subPhaseDone b = true ↔ (s.bay b).ltu.phase = .done := by
  obtain ⟨hr, hp | hp⟩ := (inLeak_iff b s).mp h
  all_goals simp [State.subPhaseDone, State.running, hr, hp]

section
variable {b : Bay} {c : Cavity} {s : State} (hin : s.inLeak b = true)
include hin

/-- A refill (R138). -/
theorem vent_refill (hw : (s.bay b).ltu.afterVent = some .refill) :
    testStopped b (advance b (ventNext b c (s.bay b).ltu.afterVent (s.vented b c))) =
      (s.ticking (.ltu b)).updLtu b fun x =>
        { x with
          phase := .fill, phaseTimer := 0, attempts := 2, afterVent := none
          p0 := none, t0 := none, p1 := none, t1 := none, decay := none, rate := none
          fill := x.fill ||| pairBit c.pair, vent := x.vent &&& ~~~ pairBit c.pair } := by
  obtain ⟨hr, hsub⟩ := (inLeak_iff b s).mp hin
  have hrun : (s.vented b c).running b = true := by unfold State.running; rw [vented_bay]; simp [hr]
  have hfill : ventNext b c (s.bay b).ltu.afterVent (s.vented b c) = (s.ticking (.ltu b)).updLtu b fun x =>
        { x with
          phase := .fill, phaseTimer := 0, attempts := 2, afterVent := none
          p0 := none, t0 := none, p1 := none, t1 := none, decay := none, rate := none
          fill := x.fill ||| pairBit c.pair, vent := x.vent &&& ~~~ pairBit c.pair } := by
    unfold ventNext State.vented at *
    rw [if_pos hrun, hw]
    dsimp only
    rw [State.updLtu_updLtu]
    congr 1
    funext x
    simp only [Ltu.noReadings, Ltu.enterFill, BitVec.and_assoc, BitVec.and_self]
  rw [hfill]
  generalize hv : (s.ticking (.ltu b)).updLtu b _ = v
  have hb : ∃ u : Ltu, v.bay b = { s.bay b with ltu := u } ∧ u.phase = .fill := by
    rw [← hv, updLtu_bay]
    exact ⟨_, rfl, rfl⟩
  obtain ⟨u, hb, hu⟩ := hb
  have hinv : v.inLeak b = true := (inLeak_iff b v).mpr (by rw [hb]; exact ⟨hr, hsub⟩)
  have hgo : advance b v = v := if_neg (mt (leak_done hinv).mp (by rw [hb]; simp [hu]))
  rw [hgo]
  exact testStopped_of_ne (by rw [hb]; simp [hr])

variable {r : Recipe} {i : Nat} (hw : (s.bay b).ltu.afterVent = some .next) (hq : s.recipeOf b = some r)
  (hi : (s.bay b).ltu.cavityIndex = some i)
include hw hq hi

/-- After the vent of a final attempt the next cavity is entered (R138). -/
theorem vent_next : testStopped b (advance b (ventNext b c (s.bay b).ltu.afterVent (s.vented b c))) =
    goOn b (s.bay b).ctl.planAfter (enterCavities b (r.cavities.drop (i + 1)) (i + 1) (s.vented b c)) := by
  obtain ⟨hr, hsub⟩ := (inLeak_iff b s).mp hin
  have hrun : (s.vented b c).running b = true := by unfold State.running; rw [vented_bay]; simp [hr]
  have hnext : ventNext b c (s.bay b).ltu.afterVent (s.vented b c) =
      enterCavities b (r.cavities.drop (i + 1)) (i + 1) (s.vented b c) := by
    unfold ventNext
    rw [if_pos hrun, hw]
    dsimp only
    unfold nextCavity
    rw [vented_bay]
    dsimp only
    rw [hi]
    dsimp only
    unfold State.cavitiesFrom
    rw [vented_recipe, hq]
  obtain ⟨u, hu⟩ := enterCavities_bay b (r.cavities.drop (i + 1)) (i + 1) (s.vented b c)
  rw [hnext, advance_eq, testStopped_goOn _ (by rw [hu, vented_bay]; exact hr), hu, vented_bay]

/-- The last cavity's vent has ended: the Leak Test Unit is DONE (R138). -/
theorem vent_last (hl : r.cavities.length ≤ i + 1) :
    testStopped b (advance b (ventNext b c (s.bay b).ltu.afterVent (s.vented b c))) =
      runPlan b (s.bay b).ctl.planAfter ((s.vented b c).updLtu b fun u => { u with phase := .done, cavityIndex := none }) := by
  obtain ⟨hr, hsub⟩ := (inLeak_iff b s).mp hin
  rw [vent_next hin hw hq hi, List.drop_eq_nil_of_le hl]
  refine if_pos ((leak_done ?_).mpr ?_)
  · refine (inLeak_iff b _).mpr ?_
    unfold enterCavities
    rw [updLtu_bay, vented_bay]
    exact ⟨hr, hsub⟩
  · unfold enterCavities
    rw [updLtu_bay]

end

/-! ### LEAK_PRE over to RUNIN -/

/-- RUNIN has begun: commanded speed 0, drive enable 1 (R88, R95). -/
def State.runinBegun (s : State) (b : Bay) : State :=
  ((s.updCtl b fun c => { c with subPhase := some .runin }).setCmdSpeed b 0).updRis b fun r =>
    { r with driveEnable := true, rampFrac := 0, overload := 0 }

theorem runinBegun_bay (s : State) (b : Bay) : ∃ n, (s.runinBegun b).bay b =
    { s.bay b with
      ctl := { (s.bay b).ctl with subPhase := some .runin }, spu := { (s.bay b).spu with steadyCount := n }
      ris := { (s.bay b).ris with cmdSpeed := 0, driveEnable := true, rampFrac := 0, overload := 0 } } := by
  unfold State.runinBegun State.setCmdSpeed
  dsimp only
  rw [updRis_bay]
  split
  · rw [updSpu_bay, updRis_bay, updCtl_bay]
    exact ⟨0, rfl⟩
  · rw [updRis_bay, updCtl_bay]
    exact ⟨(s.bay b).spu.steadyCount, rfl⟩

theorem setCmdSpeed_writes (b : Bay) (s : State) (v : Nat) : Writes b id s (s.setCmdSpeed b v) := by
  unfold State.setCmdSpeed
  dsimp only
  split
  · exact (updRis_writes b s _).trans (updSpu_writes b _ _)
  · exact updRis_writes b s _

theorem runinBegun_writes (s : State) (b : Bay) : Writes b id s (s.runinBegun b) :=
  ((updCtl_writes b s (fun c => { c with subPhase := some .runin }) rfl).trans (setCmdSpeed_writes b _ 0)).trans (updRis_writes b _ _)

theorem runinBegun_work (s : State) (b : Bay) : BayWork (· = b) s (s.runinBegun b) :=
  ((updCtl_work b s _).trans (setCmdSpeed_work b _ 0)).trans (updRis_work b _ _)

theorem beginSubPhase_runin {b : Bay} {r : Recipe} {s : State} (hq : s.recipeOf b = some r) :
    beginSubPhase b .runin s = enterSteps b (r.steps.drop 0) 0 (s.runinBegun b) := by
  have hrec : (s.runinBegun b).recipeOf b = some r := by
    obtain ⟨n, hn⟩ := runinBegun_bay s b
    rw [← hq]
    exact recipeOf_congr (by rw [hn]) fun k => (runinBegun_work s b).recipe k
  have hbegin : beginSubPhase b .runin s = enterSteps b ((s.runinBegun b).stepsFrom b 0) 0 (s.runinBegun b) := rfl
  rw [hbegin]
  unfold State.stepsFrom
  rw [hrec]

/-! ### VENT_END -/

/-- The LTU of a bay whose vent of the last cavity has ended (R138). -/
def State.ventedDone (s : State) (b : Bay) (c : Cavity) : State :=
  (s.vented b c).updLtu b fun u => { u with phase := .done, cavityIndex := none }

theorem ventedDone_bay (s : State) (b : Bay) (c : Cavity) : (s.ventedDone b c).bay b = { s.bay b with ltu :=
    { (s.bay b).ltu with
      vent := (s.bay b).ltu.vent &&& ~~~ pairBit c.pair, afterVent := none, phase := .done, cavityIndex := none
      phaseTimer := (s.bay b).ltu.phaseTimer + 1 } } := by
  unfold State.ventedDone
  rw [updLtu_bay, vented_bay]

theorem ventedDone_writes (s : State) (b : Bay) (c : Cavity) : Writes b id (s.ticking (.ltu b)) (s.ventedDone b c) :=
  (vented_writes s b c).trans (updLtu_writes b _ _)

theorem ventedDone_work (s : State) (b : Bay) (c : Cavity) : BayWork (· = b) (s.ticking (.ltu b)) (s.ventedDone b c) :=
  (vented_work s b c).trans (updLtu_work b _ _)

theorem ventedDone_recipe (s : State) (b : Bay) (c : Cavity) : (s.ventedDone b c).recipeOf b = s.recipeOf b :=
  recipeOf_congr (by rw [ventedDone_bay]) fun _ => rfl

theorem Writes.art_id {b : Bay} {s t : State} (h : Writes b id s t) : t.art = s.art := h.art.trans (writeBound_id s b)

section
variable {b : Bay} {c : Cavity} {s : State}

/-- After the last vent of the plan at standstill the bay is COMPLETE (R13, R15, R138). -/
theorem vent_complete (hstill : (s.bay b).spu.standstill = true) (hf : (s.bay b).ltu.fill = 0)
    (hv : (s.bay b).ltu.vent = pairBit c.pair) :
    runPlan b [] (s.ventedDone b c) = enterComplete b (releaseBay b ((s.ventedDone b c).updCtl b BayCtl.stop)) := by
  apply runPlan_nil
  all_goals rw [ventedDone_bay]
  · exact hstill
  · exact hf
  · dsimp only
    rw [hv]
    ext k
    simp
  · exact nofun

/-- The next cavity entered, where it has a cool-wait limit (R132, R138). -/
theorem vent_enters {nx : Cavity} (rest : List Cavity) (i : Nat) (hin : s.inLeak b = true) (h0 : 0 < nx.coolWaitLimit) :
    goOn b (s.bay b).ctl.planAfter (enterCavities b (nx :: rest) (i + 1) (s.vented b c)) =
      (s.vented b c).updLtu b (Ltu.inCavity nx (i + 1)
        (decide (s.roleReading b nx.tempRole ≤ nx.maxStartTemp) && (s.bay b).ltu.startPermitted)) := by
  have hcool : (s.vented b c).coolEnough b nx =
      (decide (s.roleReading b nx.tempRole ≤ nx.maxStartTemp) && (s.bay b).ltu.startPermitted) := by
    unfold State.coolEnough State.cavityTemp State.roleReading State.roleLatch State.roleEntry
    rw [vented_bay]
    rfl
  rw [enterCavities_cons b rest (i + 1) _ h0, hcool]
  refine if_neg (mt (leak_done ?_).mp ?_)
  · refine (inLeak_iff b _).mpr ?_
    rw [updLtu_bay, vented_bay]
    exact (inLeak_iff b s).mp hin
  · rw [updLtu_bay]
    exact inCavity_ne_done nx (i + 1) _ _

/-- In STOPPING the Leak Test Unit is IDLE after its vent (R141). -/
theorem vent_stopping (hs : (s.bay b).ctl.state = .stopping) :
    advance b (ventNext b c (s.bay b).ltu.afterVent (s.vented b c)) =
      (s.vented b c).updLtu b fun u => { u with phase := .idle, cavityIndex := none } := by
  have hrun : ¬ (s.vented b c).running b = true := by unfold State.running; rw [vented_bay]; simp [hs]
  unfold ventNext
  rw [if_neg hrun]
  refine if_neg ?_
  unfold State.subPhaseDone State.running
  rw [updLtu_bay, vented_bay]
  simp [hs]

end

section
variable {b : Bay} {c : Cavity} {s : State} (ha : s.awaits (.ltu b)) (hc : s.cavityOf b = some c) (hp : (s.bay b).ltu.phase = .vent)
  (ht : c.ventTime ≤ (s.bay b).ltu.phaseTimer + 1)
include ha hc hp ht

/-- After the last vent of the plan the record of a bay at standstill is finalized (R34, R35, R138). -/
theorem ventEnd_completes {r : Recipe} {i : Nat} {j : RecIx} {x : AxleRecord} (hin : s.inLeak b = true)
    (hw : (s.bay b).ltu.afterVent = some .next) (hq : s.recipeOf b = some r) (hi : (s.bay b).ltu.cavityIndex = some i)
    (hl : r.cavities.length ≤ i + 1) (hplan : (s.bay b).ctl.planAfter = []) (hstill : (s.bay b).spu.standstill = true)
    (hf : (s.bay b).ltu.fill = 0) (hv : (s.bay b).ltu.vent = pairBit c.pair) (hj : s.bindsOpen b j x) :
    ∃ t : State, exec (.ventEnd b) s = .next t ∧ KeptBut b s t ∧ t.tbs = (s.serving (.ltu b)).tbs
      ∧ (t.bay b).ctl.state = .complete ∧ (t.bay b).ctl.cause = (s.bay b).ctl.cause
      ∧ (t.bay b).ltu = .reset ∧ (t.bay b).ris = .reset
      ∧ ∃ v : Verdict, Finalized j x v s t ∧ QualityJudged s.mga.params.qualityStopLimit v (s.bay b).ctl (t.bay b).ctl
          ∧ ∀ y : Recipe, (s.slot x.slot).recipe = some y → VerdictIs y x v := by
  have hex := exec_ventEnd ha hc hp ht
  have hend : runPlan b (s.bay b).ctl.planAfter (s.ventedDone b c) =
      enterComplete b (releaseBay b ((s.ventedDone b c).updCtl b BayCtl.stop)) := by
    rw [hplan]; exact vent_complete hstill hf hv
  rw [(vent_last hin hw hq hi hl).trans hend] at hex
  have hwork := (ventedDone_work s b c).trans (runPlan_work b _ (s.bay b).ctl.planAfter)
  rw [hend] at hwork
  obtain ⟨⟨v, -, hb⟩, hrec⟩ := stopped_complete b (s.ventedDone b c)
  obtain ⟨m, al, l, hctl, -, -⟩ := ((s.ventedDone b c).bay b).ctl.stop.completed_fields (s.ventedDone b c).mga.params.qualityStopLimit v
  rw [hctl, ventedDone_bay] at hb
  rw [ventedDone_bay] at hrec
  obtain ⟨w, hfin, hjudged, hverdict⟩ := hrec j x ((ventedDone_writes s b c).bindsOpen hj)
  have hfin' := (ventedDone_writes s b c).finalized hfin
  generalize enterComplete b (releaseBay b ((s.ventedDone b c).updCtl b BayCtl.stop)) = t at *
  refine ⟨_, hex, .of_ticking hwork, rfl, ?_⟩
  rw [show ({ t with tbs := (s.serving (.ltu b)).tbs } : State).bay b = t.bay b from rfl]
  refine ⟨by rw [hb], by rw [hb]; rfl, by rw [hb], by rw [hb], w, ?_, hjudged, hverdict⟩
  exact FinalizedAt.finalized (t := { t with tbs := (s.serving (.ltu b)).tbs }) hfin' rfl

/-- The next cavity stands in FILL where it is cool enough and the start is permitted, in COOL_WAIT otherwise (R132, R138). -/
theorem ventEnd_entersNext {r : Recipe} {i : Nat} {nx : Cavity} (hin : s.inLeak b = true)
    (hw : (s.bay b).ltu.afterVent = some .next) (hq : s.recipeOf b = some r) (hi : (s.bay b).ltu.cavityIndex = some i)
    (hnx : r.cavities[i + 1]? = some nx) (h0 : 0 < nx.coolWaitLimit) :
    ∃ t : State, exec (.ventEnd b) s = .next t ∧ KeptBut b s t ∧ t.tbs = (s.serving (.ltu b)).tbs
      ∧ (t.bay b).ctl = (s.bay b).ctl ∧ (t.bay b).ris = (s.bay b).ris ∧ t.art = s.art
      ∧ (t.bay b).ltu =
          { (s.bay b).ltu with vent := (s.bay b).ltu.vent &&& ~~~ pairBit c.pair, afterVent := none }.inCavity nx (i + 1)
            (decide (s.roleReading b nx.tempRole ≤ nx.maxStartTemp) && (s.bay b).ltu.startPermitted) := by
  have hex := exec_ventEnd ha hc hp ht
  obtain ⟨hlt, he⟩ := List.getElem?_eq_some_iff.mp hnx
  rw [vent_next hin hw hq hi, List.drop_eq_getElem_cons hlt, he, vent_enters _ i hin h0] at hex
  have hwork := (vented_work s b c).trans (updLtu_work b (s.vented b c) (Ltu.inCavity nx (i + 1)
      (decide (s.roleReading b nx.tempRole ≤ nx.maxStartTemp) && (s.bay b).ltu.startPermitted)))
  have hb := updLtu_bay b (s.vented b c) (Ltu.inCavity nx (i + 1)
      (decide (s.roleReading b nx.tempRole ≤ nx.maxStartTemp) && (s.bay b).ltu.startPermitted))
  rw [vented_bay] at hb
  have hart : ((s.vented b c).updLtu b (Ltu.inCavity nx (i + 1)
      (decide (s.roleReading b nx.tempRole ≤ nx.maxStartTemp) && (s.bay b).ltu.startPermitted))).art = s.art := rfl
  generalize (s.vented b c).updLtu b _ = t at *
  refine ⟨_, hex, .of_ticking hwork, rfl, ?_⟩
  rw [show ({ t with tbs := (s.serving (.ltu b)).tbs } : State).bay b = t.bay b from rfl, hb]
  exact ⟨rfl, rfl, hart, rfl⟩

/-- After the last cavity of LEAK_PRE the bay takes RUNIN and its RIS enters the steps of the recipe (R3, R88, R92). -/
theorem ventEnd_beginsRunin {r : Recipe} {i : Nat} {rest : List SubPhase} {u : Ltu} {x : Ris} (hin : s.inLeak b = true)
    (hw : (s.bay b).ltu.afterVent = some .next) (hq : s.recipeOf b = some r) (hi : (s.bay b).ltu.cavityIndex = some i)
    (hl : r.cavities.length = i + 1) (hplan : (s.bay b).ctl.planAfter = .runin :: rest)
    (hu : u = { (s.bay b).ltu with
      vent := (s.bay b).ltu.vent &&& ~~~ pairBit c.pair, afterVent := none, phase := .done, cavityIndex := none
      phaseTimer := (s.bay b).ltu.phaseTimer + 1 })
    (hx : x = { (s.bay b).ris with cmdSpeed := 0, driveEnable := true, overload := 0 }) :
    ∃ t : State, exec (.ventEnd b) s = .next t ∧ KeptBut b s t ∧ t.tbs = (s.serving (.ltu b)).tbs
      ∧ ((s.bay b).spu.standstill = true → EntersAtRest b r 0 0 rest u x s t)
      ∧ ((s.bay b).spu.standstill = false → ∀ st : Step, r.steps[0]? = some st →
          (t.bay b).ctl = { (s.bay b).ctl with subPhase := some .runin } ∧ (t.bay b).ltu = u ∧ t.art = s.art
          ∧ (t.bay b).ris = x.stepEntered st 0) := by
  have hex := exec_ventEnd ha hc hp ht
  obtain ⟨hr, hsub⟩ := (inLeak_iff b s).mp hin
  have hend : runPlan b (s.bay b).ctl.planAfter (s.ventedDone b c) =
      goOn b rest (enterSteps b (r.steps.drop 0) 0 ((s.ventedDone b c).runinBegun b)) := by
    rw [hplan, runPlan_cons, beginSubPhase_runin ((ventedDone_recipe s b c).trans hq)]
  rw [(vent_last hin hw hq hi (Nat.le_of_eq hl)).trans hend] at hex
  have hwork := (ventedDone_work s b c).trans (runPlan_work b _ (s.bay b).ctl.planAfter)
  rw [hend] at hwork
  obtain ⟨n, hn⟩ := runinBegun_bay (s.ventedDone b c) b
  rw [ventedDone_bay] at hn
  have hwrites : Writes b id (s.ticking (.ltu b)) ((s.ventedDone b c).runinBegun b) :=
    (ventedDone_writes s b c).trans (runinBegun_writes _ b)
  refine ⟨_, hex, .of_ticking hwork, rfl, fun hstill => ?_, fun hstill st hst => ?_⟩
  · have hin' : InRunin b r 0 u (s.ticking (.ltu b)) ((s.ventedDone b c).runinBegun b) :=
      ⟨hr, hq, by rw [hn]; rfl, by rw [hn, hu], by rw [hn]; exact hstill, hwrites,
        (ventedDone_work s b c).trans (runinBegun_work _ b)⟩
    have hrest := entersAtRest_of (k := 0) (z := (s.serving (.ltu b)).tbs) rest hin' (by rw [hn]) rfl
    rw [hn] at hrest
    subst hx
    exact hrest
  · obtain ⟨f, hf, hsteps, -⟩ := goOn_turning (r := r) (k := 0) (t := (s.ventedDone b c).runinBegun b) rest
      (by rw [hn]; exact hr) (by rw [hn]) (.inr (by rw [hn]; exact hstill))
    have hfe := (hsteps st hst).2 fun hrev => hrev.1 (by rw [hn])
    have hb := updRis_bay b ((s.ventedDone b c).runinBegun b) f
    have hart : (((s.ventedDone b c).runinBegun b).updRis b f).art = s.art := hwrites.art_id
    rw [hf]
    rw [hn, hfe] at hb
    rw [hfe] at hart
    rw [hfe]
    generalize ((s.ventedDone b c).runinBegun b).updRis b (Ris.stepEntered st 0) = t at *
    rw [show ({ t with tbs := (s.serving (.ltu b)).tbs } : State).bay b = t.bay b from rfl, hb]
    exact ⟨rfl, hu.symm, hart, by subst hx; rfl⟩

/-- In STOPPING the Leak Test Unit is IDLE after its vent, and the bay is COMPLETE where it is at rest (R13, R141). -/
theorem ventEnd_stopped (hs : (s.bay b).ctl.state = .stopping) :
    ∃ t : State, exec (.ventEnd b) s = .next t ∧ KeptBut b s t ∧ t.tbs = (s.serving (.ltu b)).tbs
      ∧ t.stopped b ∧ (t.bay b).ctl.cause = (s.bay b).ctl.cause
      ∧ (t.bay b).ltu.phase = .idle ∧ (t.bay b).ltu.cavityIndex = none
      ∧ (t.bay b).ltu.vent = (s.bay b).ltu.vent &&& ~~~ pairBit c.pair := by
  have hex := exec_ventEnd ha hc hp ht
  rw [vent_stopping hs] at hex
  have hb := updLtu_bay b (s.vented b c) fun u => { u with phase := .idle, cavityIndex := none }
  rw [vented_bay] at hb
  have hwork := (vented_work s b c).trans (updLtu_work b (s.vented b c) fun u => { u with phase := .idle, cavityIndex := none })
  generalize (s.vented b c).updLtu b (fun u => { u with phase := .idle, cavityIndex := none }) = v at *
  have hwork' := hwork.trans (testStopped_work b v)
  refine ⟨_, hex, .of_ticking hwork', rfl, ?_⟩
  unfold State.stopped
  rw [show ({ testStopped b v with tbs := (s.serving (.ltu b)).tbs } : State).bay b = (testStopped b v).bay b from rfl]
  by_cases hrest : (v.bay b).ctl.state = .stopping ∧ v.atRest b
  · rw [show testStopped b v = enterComplete b v from if_pos hrest, enterComplete_bay]
    obtain ⟨m, al, l, hctl, -, -⟩ := (v.bay b).ctl.completed_fields v.mga.params.qualityStopLimit (v.verdictAt b)
    have hvent : (v.bay b).ltu.vent = 0 := by
      have := hrest.2
      unfold State.atRest at this
      simp only [Bool.and_eq_true, beq_iff_eq] at this
      obtain ⟨⟨-, hv⟩, -⟩ := this
      exact hv
    rw [hctl, hb]
    rw [hb] at hvent
    exact ⟨.inr rfl, rfl, rfl, rfl, hvent.symm⟩
  · rw [show testStopped b v = v from if_neg hrest, hb]
    exact ⟨.inl hs, rfl, rfl, rfl, rfl⟩

end

/-- Settles O60. -/
theorem ventEnded : Obligations.VentEnded := by
  intro b c s ha hc hp ht
  refine ⟨fun hin hw => ?_, fun r i j x hin hw hq hi hl hplan hstill hf hv hj => ?_, fun r i nx hin hw hq hi hnx h0 => ?_,
    fun r i rest u x hin hw hq hi hl hplan hu hx => ?_, fun hs => ?_⟩
  · rw [exec_ventEnd ha hc hp ht, vent_refill hin hw]
    rfl
  · exact ventEnd_completes ha hc hp ht hin hw hq hi hl hplan hstill hf hv hj
  · exact ventEnd_entersNext ha hc hp ht hin hw hq hi hnx h0
  · exact ventEnd_beginsRunin ha hc hp ht hin hw hq hi hl hplan hu hx
  · exact ventEnd_stopped ha hc hp ht hs

end Sys2Proof.Machine
end

section
/-! STANDSTILL_JUDGED (O49) in a state whose Leak Test Unit waits for its start while the bay is in RUNIN. STANDSTILL is tested
by every unit of the bay (R81), the test of R132 among them, so the statement's "the LTU is as it was" fails there. -/

namespace Sys2Proof.Machine

/-! ### A bay in STOP_WAIT with its Leak Test Unit in COOL_WAIT -/

/-- A step of a kind without a target. -/
def idleStep (kind : StepKind) : Step :=
  { kind := kind, loadMode := .fwdDrive, torqueLimit := 1800, rampRate := 300, target := 8000, dwell := 100
    measureIndex := 0, vibSet := .off, ambient := false, blocks := 0, minBlocks := 0, windowLimit := 0, retry := 0
    rerunOnFail := false, rerunDwell := 0 }

/-- A cavity that any reading up to 36.00 lets start. -/
def coolCavity : Cavity :=
  { id := .carrier, pressRole := .press1, tempRole := .housingTemp, pair := 1, fillTarget := 5000, fillTolerance := 30,
    overfillMargin := 100, fillTimeout := 1000, grossMargin := 150, settleTime := 100, measureTime := 20000, decayLimit := 8,
    negDecayLimit := 3, retry := 1, ventTime := 100, maxStartTemp := 3600, coolWaitLimit := 10000 }

/-- A STOP step, a RUN step and one cavity. -/
def stopRunRecipe : Recipe :=
  { name := [], version := 1, maxSpeed := 30000, stopRamp := 400, leakOrder := .after, stopAtFirstFail := false, ppr := 120,
    gate := 41, standstillTime := 100, tolerance := 80, settleFrames := 20, settleTimeout := 8000, oilWarn := 9000,
    oilAbort := 10000, hysteresis := 500, maxHold := 1000, overloadMargin := 15, overloadFrames := 4, blockExp := 10,
    laneWaitLimit := 1000, ambientRatio := 128, steps := [idleStep .stop, idleStep .run], lines := [], limits := [],
    cavities := [coolCavity] }

/-- The Speed Unit's parameters of the recipe. -/
def stopRunParams : SpuParams := { ppr := 120, gate := 41, standstillTime := 100, tolerance := 80, settleFrames := 20 }

/-- Bay 0 in RUNIN: its RIS waits for STANDSTILL in the STOP step, its Speed Unit judges it at the next tick, and its LTU stands in
COOL_WAIT with the start permitted. -/
def coolingInRunin : State :=
  { State.reset with
    rbk := State.reset.rbk.set 0 { Slot.reset with state := .valid, recipe := some stopRunRecipe, pins := 1 }
    bays := State.reset.bays.set 0
      { BayUnit.reset with
        ctl := { BayCtl.reset with state := .running, subPhase := some .runin, plan := [.runin, .leakPost], slot := some 0 }
        spu := { Spu.reset with active := true, params := some stopRunParams, standstill := false, quiet := 99 }
        ris := { Ris.reset with phase := .stopWait, stepIndex := some 0, driveEnable := true }
        ltu := { Ltu.reset with phase := .coolWait, cavityIndex := some 0, startPermitted := true } } }

/-- The state meets the hypotheses of the statement. -/
theorem coolingInRunin_waits : (coolingInRunin.bay 0).spu.active = true
    ∧ (coolingInRunin.bay 0).spu.params = some stopRunParams ∧ (coolingInRunin.bay 0).spu.standstill = false
    ∧ stopRunParams.standstillTime ≤ min 65535 ((coolingInRunin.bay 0).spu.quiet + 1) ∧ coolingInRunin.inRunin 0 = true
    ∧ (coolingInRunin.bay 0).ris.cmdSpeed = 0 ∧ coolingInRunin.recipeOf 0 = some stopRunRecipe
    ∧ (coolingInRunin.bay 0).ris.stepIndex = some 0 ∧ (coolingInRunin.bay 0).ris.phase = .stopWait
    ∧ (coolingInRunin.bay 0).ltu.phase = .coolWait := by
  decide +kernel

/-- The cavity goes to FILL at the command. -/
theorem coolingInRunin_fills :
    ((expire [] (.spu 0) (coolingInRunin.bay 0).spu.judges coolingInRunin).bay 0).ltu.phase = .fill := by
  decide +kernel

/-- Refutes O49: in `coolingInRunin` the STOP step is finished and the RUN step entered, but the LTU does not stay as it was. -/
theorem not_standstillJudged : ¬ Obligations.StandstillJudged := by
  intro h
  obtain ⟨hactive, hparams, hturns, hquiet, hin, hcmd, hrecipe, hstep, hphase, hcool⟩ := coolingInRunin_waits
  obtain ⟨t, hex, -, -, -, -, -, -, hrunin⟩ := h 0 stopRunParams coolingInRunin (by simp [State.awaits, coolingInRunin, State.reset])
    hactive hparams hturns hquiet
  obtain ⟨-, hwait, -⟩ := hrunin stopRunRecipe 0 (idleStep .stop) hin hcmd hrecipe hstep rfl
  obtain ⟨hrun, -⟩ := hwait (.inl hphase) 0 fun j y h1 h2 => by omega
  obtain ⟨-, hltu, -⟩ := hrun (idleStep .run) rfl (by decide)
  have ht : expire [] (.spu 0) (coolingInRunin.bay 0).spu.judges coolingInRunin = t := Host.Outcome.next.inj hex
  have hfill := coolingInRunin_fills
  rw [ht, hltu, hcool] at hfill
  cases hfill

end Sys2Proof.Machine
end

section
/-! OUTPUT_FRAME (O21): the link state, and the command records written into the payload (R72, R159, R161, R174). -/

namespace Sys2Proof.Machine

/-! ### A block of bytes written into a payload -/

theorem length_overwrite {p x : Bytes} {n : Nat} (h : n + x.length ≤ p.length) : (overwrite p n x).length = p.length := by
  simp only [overwrite, List.length_append, List.length_take, List.length_drop]
  omega

theorem getElem?_overwrite_in {p x : Bytes} {n k : Nat} (h : n + x.length ≤ p.length) (hk : k < x.length) :
    (overwrite p n x)[n + k]? = x[k]? := by
  have hn : (p.take n).length = n := by simp only [List.length_take]; omega
  unfold overwrite
  rw [List.append_assoc, List.getElem?_append_right (by omega), hn, Nat.add_sub_cancel_left, List.getElem?_append_left hk]

theorem getElem?_overwrite_out {p x : Bytes} {n j : Nat} (h : n + x.length ≤ p.length) (hj : j < n ∨ n + x.length ≤ j) :
    (overwrite p n x)[j]? = p[j]? := by
  have hn : (p.take n).length = n := by simp only [List.length_take]; omega
  unfold overwrite
  obtain hj | hj := hj
  · rw [List.append_assoc, List.getElem?_append_left (by omega), List.getElem?_take_of_lt hj]
  · rw [List.getElem?_append_right (by simp only [List.length_append]; omega), List.getElem?_drop, List.length_append, hn]
    congr 1
    omega

/-! ### The records of the bays -/

theorem commandRecord_length (c : CommandRecord) : c.bytes.length = 12 := rfl

/-- The place of a bay's record is enabled and fits a payload of n bytes. -/
def State.places (s : State) (n : Nat) (b : Bay) : Prop :=
  (s.chx.outputMap.get b).enabled = true ∧ (s.chx.outputMap.get b).offset + 12 ≤ n

theorem places_iff (s : State) (n : Nat) (b : Bay) :
    ((s.chx.outputMap.get b).enabled && (s.chx.outputMap.get b).fits n) = true ↔ s.places n b := by
  simp [State.places, OutputPlace.fits]

/-- The records of some bays written into a payload of n bytes. -/
def writeBays (s : State) (n : Nat) (l : List Bay) (p : Bytes) : Bytes :=
  l.foldl (fun acc b =>
    if (s.chx.outputMap.get b).enabled && (s.chx.outputMap.get b).fits n then
      overwrite acc (s.chx.outputMap.get b).offset ((s.command b).override s.lfe.link).bytes
    else acc) p

theorem writeRecords_eq (s : State) (p : Bytes) : writeRecords s p = writeBays s p.length allBays p := rfl

/-- One record written, or none. -/
theorem writeBays_cons (s : State) (n : Nat) (b : Bay) (l : List Bay) (p : Bytes) :
    (s.places n b → writeBays s n (b :: l) p =
      writeBays s n l (overwrite p (s.chx.outputMap.get b).offset ((s.command b).override s.lfe.link).bytes))
    ∧ (¬ s.places n b → writeBays s n (b :: l) p = writeBays s n l p) := by
  constructor
  all_goals
    intro h
    unfold writeBays
    rw [List.foldl_cons]
  · rw [if_pos ((places_iff s n b).mpr h)]
  · rw [if_neg (mt (places_iff s n b).mp h)]

/-- The length stands, and so does every byte outside the records written. -/
theorem writeBays_outside {s : State} {n : Nat} (l : List Bay) {p : Bytes} (hp : p.length = n) :
    (writeBays s n l p).length = n
    ∧ ∀ j, (∀ b ∈ l, s.places n b → j < (s.chx.outputMap.get b).offset ∨ (s.chx.outputMap.get b).offset + 12 ≤ j) →
        (writeBays s n l p)[j]? = p[j]? := by
  induction l generalizing p with
  | nil => exact ⟨hp, fun _ _ => rfl⟩
  | cons b l ih =>
    obtain ⟨hwrite, hskip⟩ := writeBays_cons s n b l p
    by_cases hb : s.places n b
    · have hfit : (s.chx.outputMap.get b).offset + ((s.command b).override s.lfe.link).bytes.length ≤ p.length := by
        rw [commandRecord_length, hp]; exact hb.2
      obtain ⟨h1, h2⟩ := ih ((length_overwrite hfit).trans hp)
      rw [hwrite hb]
      refine ⟨h1, fun j hj => (h2 j fun c hc => hj c (List.mem_cons_of_mem b hc)).trans ?_⟩
      exact getElem?_overwrite_out hfit (hj b List.mem_cons_self hb)
    · obtain ⟨h1, h2⟩ := ih hp
      rw [hskip hb]
      exact ⟨h1, fun j hj => h2 j fun c hc => hj c (List.mem_cons_of_mem b hc)⟩

/-- Places that do not overlap each take the record of their bay. -/
theorem writeBays_record {s : State} {n : Nat} (ha : PlacesApart s) {l : List Bay} (hl : l.Nodup) {p : Bytes} (hp : p.length = n)
    {b : Bay} (hb : b ∈ l) (hplace : s.places n b) {k : Nat} (hk : k < 12) :
    (writeBays s n l p)[(s.chx.outputMap.get b).offset + k]? = ((s.command b).override s.lfe.link).bytes[k]? := by
  induction l generalizing p with
  | nil => cases hb
  | cons c l ih =>
    obtain ⟨hc, hl⟩ := List.nodup_cons.mp hl
    obtain ⟨hwrite, hskip⟩ := writeBays_cons s n c l p
    by_cases hbc : b = c
    · subst hbc
      have hfit : (s.chx.outputMap.get b).offset + ((s.command b).override s.lfe.link).bytes.length ≤ p.length := by
        rw [commandRecord_length, hp]; exact hplace.2
      rw [hwrite hplace, (writeBays_outside l ((length_overwrite hfit).trans hp)).2 _ fun d hd hdp => ?_]
      · exact getElem?_overwrite_in hfit (by rw [commandRecord_length]; exact hk)
      · have := ha.2 d b (fun h => hc (h ▸ hd)) hdp.1 hplace.1
        omega
    · have hmem : b ∈ l := (List.mem_cons.mp hb).resolve_left hbc
      by_cases hcp : s.places n c
      · have hfit : (s.chx.outputMap.get c).offset + ((s.command c).override s.lfe.link).bytes.length ≤ p.length := by
          rw [commandRecord_length, hp]; exact hcp.2
        rw [hwrite hcp]
        exact ih hl ((length_overwrite hfit).trans hp) hmem
      · rw [hskip hcp]
        exact ih hl hp hmem

/-- The bytes of a place are the record written there. -/
theorem take_drop_eq_of_getElem? {p x : Bytes} {n : Nat} (h : ∀ k, k < x.length → p[n + k]? = x[k]?) :
    (p.drop n).take x.length = x := by
  refine List.ext_getElem? fun k => ?_
  by_cases hk : k < x.length
  · rw [List.getElem?_take_of_lt hk, List.getElem?_drop, h k hk]
  · rw [List.getElem?_eq_none (by simp only [List.length_take]; omega), List.getElem?_eq_none (by omega)]

/-! ### The link state at a good OUTPUT frame -/

/-- The bays when the link returns from LOST (R78, R161). -/
def BayUnit.resynced (u : BayUnit) : BayUnit :=
  if u.spu.active = true then { u with spu := { u.spu with ring := List.replicate 64 none, newest := none } } else u

/-- Work done on each bay of a list by itself. -/
theorem overBays_updBay {l : List Bay} (hl : l.Nodup) (g : Bay → BayUnit → BayUnit) (b : Bay) (s : State) :
    (overBays (fun c t => t.updBay c (g c)) l s).bay b = if b ∈ l then g b (s.bay b) else s.bay b := by
  induction l generalizing s with
  | nil => simp [overBays]
  | cons c l ih =>
    obtain ⟨hc, hl⟩ := List.nodup_cons.mp hl
    have hcons : overBays (fun c t => t.updBay c (g c)) (c :: l) s = overBays (fun c t => t.updBay c (g c)) l (s.updBay c (g c)) := rfl
    rw [hcons, ih hl]
    by_cases hbc : c = b
    · subst hbc
      rw [if_neg hc, if_pos List.mem_cons_self, State.bay_updBay_same]
    · rw [State.bay_updBay_ne _ hbc]
      simp only [List.mem_cons, Ne.symm hbc, false_or]

theorem resyncSpus_eq (s : State) : resyncSpus s = { s with bays := s.bays.map BayUnit.resynced } := by
  have hbays : (resyncSpus s).bays = s.bays.map BayUnit.resynced := by
    refine Vector.ext fun i hi => ?_
    have hb (b : Bay) : (resyncSpus s).bay b = (s.bay b).resynced := by
      have hgen := overBays_updBay (l := allBays) (by decide)
        (fun _ u => { u with spu := (fun p : Spu => if p.active then p.resync else p) u.spu }) b s
      rw [if_pos (mem_allBays b)] at hgen
      refine (hgen : (resyncSpus s).bay b = _).trans ?_
      unfold BayUnit.resynced Spu.resync
      by_cases hact : (s.bay b).spu.active = true
      · simp only [hact, if_true]
        rfl
      · simp only [hact]
        rfl
    rw [Vector.getElem_map]
    exact hb ⟨i, hi⟩
  have hframe : ∃ v, resyncSpus s = { s with bays := v } := ⟨_, rfl⟩
  obtain ⟨v, hv⟩ := hframe
  rw [hv] at hbays ⊢
  rw [← hbays]

/-- The link state and the bays after a good OUTPUT frame (R161). -/
theorem goodFrame_output (s : State) : goodFrame false s =
    { s with
      lfe := s.lfe.afterGood false
      bays := if s.lfe.link = .lost ∧ s.lfe.sampleSeen = true then s.bays.map BayUnit.resynced else s.bays } := by
  unfold goodFrame Lfe.afterGood
  cases hl : s.lfe.link with
  | up => simp [Lfe.heard, hl]
  | down =>
    by_cases hs : s.lfe.sampleSeen = true
    · simp [hs, Lfe.seen, Lfe.up]
    · simp [hs, hl, Lfe.seen]
  | lost =>
    by_cases hs : s.lfe.sampleSeen = true
    · simp [hs, Lfe.seen, Lfe.up, resyncSpus_eq]
    · simp [hs, hl, Lfe.seen]

theorem goodFrame_bay (s : State) (b : Bay) :
    ((goodFrame false s).bay b).ctl = (s.bay b).ctl ∧ ((goodFrame false s).bay b).ris = (s.bay b).ris
      ∧ ((goodFrame false s).bay b).ltu = (s.bay b).ltu := by
  have hres (u : BayUnit) : u.resynced.ctl = u.ctl ∧ u.resynced.ris = u.ris ∧ u.resynced.ltu = u.ltu := by
    unfold BayUnit.resynced
    split <;> exact ⟨rfl, rfl, rfl⟩
  rw [goodFrame_output]
  unfold State.bay
  dsimp only
  split
  · simp only [Vector.get_eq_getElem, Vector.getElem_map]
    exact hres _
  · exact ⟨rfl, rfl, rfl⟩

/-! ### OUTPUT_FRAME -/

theorem frameGood_whole {f : Bytes} (h : frameGood f = true) : frameLen f + 12 ≤ f.length := by
  unfold frameGood frameCheckOk frameWhole at h
  simp only [Bool.and_eq_true, decide_eq_true_eq] at h
  exact h.1.1

theorem framePayload_length {f : Bytes} (h : frameGood f = true) : (framePayload f).length = frameLen f := by
  have := frameGood_whole h
  simp only [framePayload, List.length_take, List.length_drop]
  omega

theorem arrivalOf_output {f : Bytes} (h : frameKind f = some 2) (n : BitVec 6) : arrivalOf .c n f = .output := by
  simp [arrivalOf, h]

theorem anyWritten_iff (s : State) (n : Nat) : anyWritten s n = true ↔ ∃ b, s.places n b := by
  unfold anyWritten
  rw [List.any_eq_true]
  exact ⟨fun ⟨b, _, hb⟩ => ⟨b, (places_iff s n b).mp hb⟩, fun ⟨b, hb⟩ => ⟨b, mem_allBays b, (places_iff s n b).mpr hb⟩⟩

theorem anySkipped_iff (s : State) (n : Nat) : anySkipped s n = true ↔
    ∃ b : Bay, (s.chx.outputMap.get b).enabled = true ∧ n < (s.chx.outputMap.get b).offset + 12 := by
  unfold anySkipped
  rw [List.any_eq_true]
  simp only [OutputPlace.fits, Bool.and_eq_true, Bool.not_eq_true', decide_eq_false_iff_not, Nat.not_le]
  exact ⟨fun ⟨b, _, hb⟩ => ⟨b, hb⟩, fun ⟨b, hb⟩ => ⟨b, mem_allBays b, hb⟩⟩

/-- Settles O21. -/
theorem outputFrameWritten : Obligations.OutputFrameWritten := by
  intro f s hkind
  have hexec : exec (.outputFrame f) s = .next (outputArrives f s) :=
    congrArg Host.Outcome.next (if_pos (arrivalOf_output hkind s.lfe.nodeAddr))
  refine ⟨fun hbad hwhole => ?_, fun hgood hapart short hshort => ?_⟩
  · rw [hexec]
    unfold outputArrives badFrameOut
    rw [hbad, if_neg (by decide), if_pos hwhole]
    rfl
  · have hframe := goodFrame_output s
    have hbay := goodFrame_bay s
    have hchx : (goodFrame false s).chx = s.chx := by rw [hframe]
    have hlink : (goodFrame false s).lfe = s.lfe.afterGood false := by rw [hframe]
    have hplaces (n : Nat) (b : Bay) : (goodFrame false s).places n b ↔ s.places n b := by unfold State.places; rw [hchx]
    have hskip : anySkipped (goodFrame false s) (frameLen f) = short := by
      rw [Bool.eq_iff_iff, anySkipped_iff, hshort, hchx]
    have hlen := framePayload_length hgood
    obtain ⟨hplen, hout⟩ := writeBays_outside (s := goodFrame false s) allBays hlen
    refine ⟨writeBays (goodFrame false s) (frameLen f) allBays (framePayload f), ?_, hplen, fun b he hfit => ?_, fun j _ hj => ?_⟩
    · rw [hexec]
      unfold outputArrives outputShort outputFrameOut frameWithPayload
      rw [hgood, if_pos rfl]
      dsimp only
      rw [hskip, writeRecords_eq, hlen]
      have hsent : (if anyWritten (goodFrame false s) (frameLen f) = true then
            sealFrame (f.take 8 ++ writeBays (goodFrame false s) (frameLen f) allBays (framePayload f)) else f) =
          if ∃ b : Bay, (s.chx.outputMap.get b).enabled = true ∧ (s.chx.outputMap.get b).offset + 12 ≤ frameLen f then
            sealFrame (f.take 8 ++ writeBays (goodFrame false s) (frameLen f) allBays (framePayload f)) else f := by
        refine if_congr ?_ rfl rfl
        rw [anyWritten_iff]
        exact exists_congr fun b => hplaces _ b
      rw [hsent]
      generalize writeBays (goodFrame false s) (frameLen f) allBays (framePayload f) = p
      rw [hframe]
      cases short <;> rfl
    · have hb : (goodFrame false s).places (frameLen f) b := (hplaces _ b).mpr ⟨he, hfit⟩
      have hrec := take_drop_eq_of_getElem? (p := writeBays (goodFrame false s) (frameLen f) allBays (framePayload f))
        (n := ((goodFrame false s).chx.outputMap.get b).offset)
        (x := (((goodFrame false s).command b).override (goodFrame false s).lfe.link).bytes)
        fun k hk => writeBays_record (by unfold PlacesApart; rw [hchx]; exact hapart) (by decide) hlen (mem_allBays b) hb hk
      rw [commandRecord_length, hchx] at hrec
      obtain ⟨hctl, hris, hltu⟩ := hbay b
      rw [hrec, command_bytes, commandBytes_eq, commandBytes_eq, hctl, hris, hltu, hlink]
    · exact hout j fun b _ hb => by rw [hchx]; exact hj b ((hplaces _ b).mp hb).1 ((hplaces _ b).mp hb).2

end Sys2Proof.Machine
end

section
/-! MS_TICK when nothing expires (O17): each block's share of the tick, in any order (R81, R89, R94, R102, R109, R111, R153). -/

namespace Sys2Proof.Machine

/-! ### Additions to a counter -/

/-- A counter after n additions of 1. -/
def Counter.raised (n : Nat) (c : Counter) : Counter := if n = 0 then c else c.added n

theorem Counter.raised_succ (n : Nat) (c : Counter) : (c.raised n).added 1 = c.raised (n + 1) := by
  unfold Counter.raised
  rw [if_neg (Nat.succ_ne_zero n)]
  split
  · next h => rw [h]
  · unfold Counter.added
    have hval : min (min (c.value + n) (2 ^ 32 - 1) + 1) (2 ^ 32 - 1) = min (c.value + (n + 1)) (2 ^ 32 - 1) := by omega
    have hsat : (decide (2 ^ 32 - 1 ≤ c.value + n) || decide (2 ^ 32 - 1 ≤ min (c.value + n) (2 ^ 32 - 1) + 1)) =
        decide (2 ^ 32 - 1 ≤ c.value + (n + 1)) := by
      rw [← Bool.decide_or, decide_eq_decide]
      omega
    have halarm : (decide (c.alarmLimit ≠ 0 ∧ c.alarmLimit ≤ min (c.value + n) (2 ^ 32 - 1))
          || decide (c.alarmLimit ≠ 0 ∧ c.alarmLimit ≤ min (c.value + (n + 1)) (2 ^ 32 - 1))) =
        decide (c.alarmLimit ≠ 0 ∧ c.alarmLimit ≤ min (c.value + (n + 1)) (2 ^ 32 - 1)) := by
      rw [← Bool.decide_or, decide_eq_decide]
      omega
    dsimp only
    rw [hval, Bool.or_assoc, hsat, Bool.or_assoc, halarm]

theorem Counter.raised_fields (n : Nat) (c : Counter) : (c.raised n).event = c.event ∧ (c.raised n).mode = c.mode
    ∧ (c.raised n).baySet = c.baySet ∧ (c.raised n).resultSet = c.resultSet ∧ (c.raised n).slotMatch = c.slotMatch := by
  unfold Counter.raised
  split <;> exact ⟨rfl, rfl, rfl, rfl, rfl⟩

/-- An occupancy sampled (R153). -/
theorem Counter.tick_eq (x : Nat) (c : Counter) : c.tick x = c.sampled x := by
  unfold Counter.tick Counter.sampled Counter.tickAdd Counter.setLevel
  simp only [← Counter.added_eq]
  cases hm : c.mode with
  | count => simp [Counter.added, hm]
  | threshold =>
    by_cases h : c.threshold ≤ x
    · simp [h, Counter.added, hm]
    · simp [h, hm]
  | edge =>
    by_cases h : c.threshold ≤ x ∧ c.above = false
    · simp [h, Counter.added, hm]
    · simp [h, hm]

theorem countP_insert {α : Type} [DecidableEq α] {l : List α} (hl : l.Nodup) {b : α} (hb : b ∈ l) (q d : α → Bool) (hd : d b = false) :
    l.countP (fun a => q a && (decide (a = b) || d a)) = l.countP (fun a => q a && d a) + if q b then 1 else 0 := by
  induction l with
  | nil => cases hb
  | cons c l ih =>
    obtain ⟨hc, hl⟩ := List.nodup_cons.mp hl
    rw [List.countP_cons, List.countP_cons]
    by_cases hcb : c = b
    · subst hcb
      have hsame : l.countP (fun a => q a && (decide (a = c) || d a)) = l.countP (fun a => q a && d a) := by
        refine List.countP_congr fun a ha => ?_
        have hne : a ≠ c := fun h => hc (h ▸ ha)
        simp [hne]
      rw [hsame, hd]
      simp
    · have hmem : b ∈ l := (List.mem_cons.mp hb).resolve_left (Ne.symm hcb)
      rw [ih hl hmem]
      simp [hcb]
      omega

/-! ### Ramps and timers of the RIS -/

/-- The RIS after a tick of a ramp (R89). -/
def Ris.ramped (r : Recipe) (st : Step) (target rate : Nat) (x : Ris) : Ris :=
  if rampedSpeed r target rate x = target then
    { x with
      cmdSpeed := rampedSpeed r target rate x, rampFrac := 0, phaseTimer := 0
      phase := if x.phase ≠ .ramp then x.phase else if st.kind = .stop then .stopWait else .settle }
  else { x with cmdSpeed := rampedSpeed r target rate x, rampFrac := (x.rampFrac + 16 * rate) % 1000 }

/-- The RIS after a tick of its ramp or its timer, for the recipe and the step in progress and whether its timer runs. -/
def Ris.stepped (timed : Bool) (r : Recipe) (st : Step) (x : Ris) : Ris :=
  match rampInForce r st x with
  | some (target, rate) => if x.hold then x else x.ramped r st target rate
  | none => if timed then { x with phaseTimer := x.phaseTimer + 1 } else x

theorem rampInForce_iff (r : Recipe) (st : Step) (x : Ris) (target rate : Nat) :
    rampInForce r st x = some (target, rate) ↔ Ramps r st x target rate := by
  unfold rampInForce Ramps Step.rampTarget
  cases x.phase
  case ramp => simp [eq_comm]
  case reverseStop => by_cases h : x.cmdSpeed = 0 <;> simp [h, eq_comm]
  case rundown => by_cases h : x.cmdSpeed = 0 <;> simp [h, eq_comm]
  all_goals simp

theorem ramped_fields (r : Recipe) (st : Step) (target rate : Nat) (x : Ris) :
    (x.ramped r st target rate).stepIndex = x.stepIndex ∧ (x.ramped r st target rate).driveEnable = x.driveEnable
      ∧ (x.ramped r st target rate).hold = x.hold ∧ (x.phase ≠ .idle → (x.ramped r st target rate).phase ≠ .idle) := by
  unfold Ris.ramped
  split
  · refine ⟨rfl, rfl, rfl, fun h => ?_⟩
    dsimp only
    split
    · exact h
    · split <;> decide
  · exact ⟨rfl, rfl, rfl, id⟩

theorem State.updBay_congr {s : State} {b : Bay} {f g : BayUnit → BayUnit} (h : f (s.bay b) = g (s.bay b)) :
    s.updBay b f = s.updBay b g := by
  unfold State.updBay
  rw [h]

/-- A change of the commanded speed (R84). -/
theorem setCmdSpeed_eq (s : State) (b : Bay) (v : Nat) : s.setCmdSpeed b v = s.updBay b fun u =>
    { u with
      ris := { u.ris with cmdSpeed := v }
      spu := { u.spu with steadyCount := if v ≠ u.ris.cmdSpeed then 0 else u.spu.steadyCount } } := by
  unfold State.setCmdSpeed
  dsimp only
  by_cases h : v = (s.bay b).ris.cmdSpeed
  · rw [if_neg (by simp [h])]
    refine State.updBay_congr ?_
    dsimp only
    rw [if_neg (by simp [h])]
  · rw [if_pos (by simpa using Ne.symm h)]
    refine (State.updBay_updBay s b _ _).trans (State.updBay_congr ?_)
    dsimp only
    rw [if_pos h]

/-- A ramp that reaches its target where no wait for STANDSTILL is over at once (R88, R89, R90). -/
theorem reachTarget_quiet {b : Bay} {st : Step} {s : State}
    (h : ((s.bay b).ris.phase = .ramp ∧ st.kind ≠ .stop) ∨ (s.bay b).spu.standstill = false) :
    reachTarget b st s = s.updRis b fun x =>
      { x with
        rampFrac := 0, phaseTimer := 0
        phase := if x.phase ≠ .ramp then x.phase else if st.kind = .stop then .stopWait else .settle } := by
  have hstill {t : State} (ht : t.bay b = { s.bay b with ris := (t.bay b).ris }) (hp : (t.bay b).ris.phase ≠ .stopWait ∨
      (s.bay b).spu.standstill = false) : t.stopStepDone b = false := by
    unfold State.stopStepDone State.atStandstill
    obtain hp | hp := hp
    · simp [hp]
    · rw [ht, hp]; simp
  unfold reachTarget
  dsimp only
  rw [State.updRis_ris_same]
  by_cases hp : (s.bay b).ris.phase = .ramp
  · rw [if_pos hp, State.updRis_updRis]
    have hdone : (s.updRis b fun x => Ris.leaveRamp st { x with rampFrac := 0 }).stopStepDone b = false := by
      refine hstill (by rw [updRis_bay]) ?_
      rw [updRis_bay]
      obtain ⟨-, hk⟩ | hs := h
      · left
        simp [Ris.leaveRamp, hk]
      · exact .inr hs
    rw [if_neg (by simp [hdone])]
    refine State.updBay_congr ?_
    simp [Ris.leaveRamp, hp]
  · have hs : (s.bay b).spu.standstill = false := h.resolve_left fun hr => hp hr.1
    rw [if_neg hp, State.updRis_updRis]
    unfold standstillTest State.atStandstill
    rw [updRis_bay]
    dsimp only
    rw [hs, Bool.and_false, if_neg (by decide)]
    refine State.updBay_congr ?_
    simp [hp]

/-- A bay with another commanded speed and ramp fraction (R84, R89). -/
def BayUnit.rampMoved (v f : Nat) (u : BayUnit) : BayUnit :=
  { u with
    ris := { u.ris with cmdSpeed := v, rampFrac := f }
    spu := { u.spu with steadyCount := if v ≠ u.ris.cmdSpeed then 0 else u.spu.steadyCount } }

/-- A tick of a ramp that does not end a wait for STANDSTILL (R89). -/
theorem rampTick_quiet {b : Bay} {r : Recipe} {st : Step} {target rate : Nat} {s : State}
    (h : rampedSpeed r target rate (s.bay b).ris = target →
      ((s.bay b).ris.phase = .ramp ∧ st.kind ≠ .stop) ∨ (s.bay b).spu.standstill = false) :
    rampTick b r st target rate s = s.updBay b fun u =>
      { u with
        ris := u.ris.ramped r st target rate
        spu := { u.spu with steadyCount := if (u.ris.ramped r st target rate).cmdSpeed ≠ u.ris.cmdSpeed then 0 else u.spu.steadyCount } } := by
  have hcmd (x : Ris) : (x.ramped r st target rate).cmdSpeed = rampedSpeed r target rate x := by
    unfold Ris.ramped
    split <;> rfl
  generalize hs1 : (s.setCmdSpeed b (rampedSpeed r target rate (s.bay b).ris)).updRis b
    (fun y => { y with rampFrac := ((s.bay b).ris.rampFrac + 16 * rate) % 1000 }) = s1
  have hs1' : s1 = s.updBay b (BayUnit.rampMoved (rampedSpeed r target rate (s.bay b).ris) (((s.bay b).ris.rampFrac + 16 * rate) % 1000)) := by
    rw [← hs1, setCmdSpeed_eq]
    exact State.updBay_updBay s b _ _
  have hb1 := State.bay_updBay_same s b (BayUnit.rampMoved (rampedSpeed r target rate (s.bay b).ris) (((s.bay b).ris.rampFrac + 16 * rate) % 1000))
  rw [← hs1'] at hb1
  have htick : rampTick b r st target rate s = if (s1.bay b).ris.cmdSpeed = target then reachTarget b st s1 else s1 := by
    rw [← hs1]; rfl
  rw [htick, hb1]
  unfold BayUnit.rampMoved at *
  dsimp only
  by_cases ht : rampedSpeed r target rate (s.bay b).ris = target
  · rw [if_pos ht, reachTarget_quiet (by rw [hb1]; exact h ht), hs1']
    refine (State.updBay_updBay s b _ _).trans (State.updBay_congr ?_)
    dsimp only
    rw [hcmd]
    unfold Ris.ramped
    rw [if_pos ht]
  · rw [if_neg ht, hs1']
    refine State.updBay_congr ?_
    dsimp only
    rw [hcmd]
    unfold Ris.ramped
    rw [if_neg ht]

end Sys2Proof.Machine
end

section
/-! MS_TICK when nothing expires (O17): the shares of the bays' units. -/

namespace Sys2Proof.Machine

/-! ### Limits and ramps of the RIS -/

theorem ramped_holdTimer (r : Recipe) (st : Step) (target rate n : Nat) (x : Ris) :
    ({ x with holdTimer := n } : Ris).ramped r st target rate = { x.ramped r st target rate with holdTimer := n } := by
  unfold Ris.ramped
  rw [show rampedSpeed r target rate { x with holdTimer := n } = rampedSpeed r target rate x from rfl]
  split <;> rfl

theorem settleTimed_iff (s : State) (b : Bay) : s.settleTimed b = true ↔ (s.bay b).ctl.state = .running
    ∧ ((s.bay b).ris.phase = .settle ∨ ((s.bay b).ris.cmdSpeed = 0
      ∧ ((s.bay b).ris.phase = .reverseStop ∨ (s.bay b).ris.phase = .stopWait ∨ (s.bay b).ris.phase = .rundown))) := by
  unfold State.settleTimed State.running
  rw [Bool.and_eq_true, beq_iff_eq]
  refine and_congr_right fun _ => ?_
  cases (s.bay b).ris.phase <;> simp

theorem risLimit_iff (s : State) (b : Bay) (r : Recipe) (st : Step) (n : Nat) :
    s.risLimit b r st = some n ↔ RisTimed ((s.bay b).ctl.state = .running) r st (s.bay b).ris n := by
  unfold State.risLimit RisTimed
  by_cases hs : s.settleTimed b = true
  · rw [if_pos hs, Option.some_inj]
    obtain ⟨hr, hp⟩ := (settleTimed_iff s b).mp hs
    refine ⟨fun h => .inl ⟨hr, hp, h.symm⟩, fun h => ?_⟩
    obtain ⟨-, -, h⟩ | ⟨h, -⟩ | ⟨h, -⟩ := h
    · exact h.symm
    all_goals
      obtain hp | ⟨-, hp | hp | hp⟩ := hp <;> rw [h] at hp <;> cases hp
  · rw [if_neg hs]
    have hno : ¬ ((s.bay b).ctl.state = .running ∧ ((s.bay b).ris.phase = .settle ∨ ((s.bay b).ris.cmdSpeed = 0
      ∧ ((s.bay b).ris.phase = .reverseStop ∨ (s.bay b).ris.phase = .stopWait ∨ (s.bay b).ris.phase = .rundown))) ∧ n = r.settleTimeout) :=
      fun h => hs ((settleTimed_iff s b).mpr ⟨h.1, h.2.1⟩)
    simp only [hno, false_or]
    cases (s.bay b).ris.phase
    case dwell => cases (s.bay b).ris.hold <;> simp [eq_comm]
    case rerun => cases (s.bay b).ris.hold <;> simp [eq_comm]
    all_goals simp

/-! ### A bay after some shares of the tick -/

/-- The RIS after its share of ramp and timers, but for the hold timer. -/
def State.risTicked (s : State) (b : Bay) : Ris :=
  match s.recipeOf b, s.stepOf b with
  | some r, some st => (s.bay b).ris.stepped (s.risLimit b r st).isSome r st
  | _, _ => (s.bay b).ris

/-- The LTU's phase timer after its share. -/
def State.ltuTicked (s : State) (b : Bay) : Nat :=
  match (s.cavityOf b).bind fun c => (s.bay b).ltu.limit c with
  | some _ => (s.bay b).ltu.phaseTimer + 1
  | none => (s.bay b).ltu.phaseTimer

/-- A bay of state s once the units of a list have taken their shares of a tick at which nothing expires. -/
def State.bayAfter (s : State) (D : List TickUnit) (b : Bay) : BayUnit :=
  { ctl := { (s.bay b).ctl with
      stoppingTime := (s.bay b).ctl.stoppingTime + if .byc b ∈ D ∧ (s.bay b).ctl.state = .stopping then 1 else 0 }
    spu := { (s.bay b).spu with
      quiet := if .spu b ∈ D ∧ (s.bay b).spu.active = true then min 65535 ((s.bay b).spu.quiet + 1) else (s.bay b).spu.quiet
      steadyCount := if .risPhase b ∈ D ∧ (s.risTicked b).cmdSpeed ≠ (s.bay b).ris.cmdSpeed then 0 else (s.bay b).spu.steadyCount }
    ris := { (if .risPhase b ∈ D then s.risTicked b else (s.bay b).ris) with
      holdTimer := (s.bay b).ris.holdTimer + if .risCount b ∈ D ∧ (s.bay b).ris.hold = true then 1 else 0 }
    ltu := { (s.bay b).ltu with phaseTimer := if .ltu b ∈ D then s.ltuTicked b else (s.bay b).ltu.phaseTimer }
    window := if .window b ∈ D then (s.bay b).window.map (fun w => { w with timer := w.timer + 1 }) else (s.bay b).window }

theorem State.updBay_self (s : State) (b : Bay) (u : BayUnit) (h : u = s.bay b) : s.updBay b (fun _ => u) = s := by
  subst h
  show { s with bays := s.bays.set b (s.bay b) } = s
  rw [show s.bays.set b (s.bay b) = s.bays from Vector.set_getElem_self _]

theorem stepped_fields (timed : Bool) (r : Recipe) (st : Step) (x : Ris) :
    (x.stepped timed r st).stepIndex = x.stepIndex ∧ (x.stepped timed r st).driveEnable = x.driveEnable
      ∧ (x.stepped timed r st).hold = x.hold ∧ (x.phase ≠ .idle → (x.stepped timed r st).phase ≠ .idle) := by
  unfold Ris.stepped
  split
  · split
    · exact ⟨rfl, rfl, rfl, id⟩
    · exact ramped_fields r st _ _ x
  · split
    · exact ⟨rfl, rfl, rfl, id⟩
    · exact ⟨rfl, rfl, rfl, id⟩

theorem risTicked_fields (s : State) (b : Bay) :
    (s.risTicked b).stepIndex = (s.bay b).ris.stepIndex ∧ (s.risTicked b).driveEnable = (s.bay b).ris.driveEnable
      ∧ (s.risTicked b).hold = (s.bay b).ris.hold ∧ ((s.bay b).ris.phase ≠ .idle → (s.risTicked b).phase ≠ .idle) := by
  unfold State.risTicked
  split
  · exact stepped_fields _ _ _ _
  · exact ⟨rfl, rfl, rfl, id⟩

section
variable {s t : State} {D : List TickUnit} {b : Bay}

theorem bayAfter_ris (s : State) (D : List TickUnit) (b : Bay) :
    (s.bayAfter D b).ris.stepIndex = (s.bay b).ris.stepIndex ∧ (s.bayAfter D b).ris.driveEnable = (s.bay b).ris.driveEnable
      ∧ (s.bayAfter D b).ris.hold = (s.bay b).ris.hold
      ∧ ((s.bay b).ris.phase ≠ .idle → (s.bayAfter D b).ris.phase ≠ .idle) := by
  unfold State.bayAfter
  dsimp only
  split
  · exact risTicked_fields s b
  · exact ⟨rfl, rfl, rfl, id⟩

/-- State t is s with some shares of the tick taken, as far as bay b and the recipes show. -/
structure BayOn (s : State) (D : List TickUnit) (b : Bay) (t : State) : Prop where
  bay : t.bay b = s.bayAfter D b
  rbk : t.rbk = s.rbk
  mga : t.mga = s.mga

variable (h : BayOn s D b t)
include h

theorem BayOn.recipeOf : t.recipeOf b = s.recipeOf b := recipeOf_congr (by rw [h.bay]; rfl) fun k => by rw [h.rbk]

theorem BayOn.stepOf : t.stepOf b = s.stepOf b := stepOf_congr h.recipeOf (by rw [h.bay]; exact (bayAfter_ris s D b).1)

theorem BayOn.cavityOf : t.cavityOf b = s.cavityOf b := cavityOf_congr h.recipeOf (by rw [h.bay]; rfl)

theorem BayOn.running : t.running b = s.running b := by unfold State.running; rw [h.bay]; rfl

/-- No sub-phase ends (R3). -/
theorem BayOn.notDone (hq : QuietBay s b) {u : State} (hu : (u.bay b).ctl = (t.bay b).ctl)
    (hr : (t.bay b).ris.phase ≠ .idle → (u.bay b).ris.phase ≠ .idle) (hl : (u.bay b).ltu.phase = (t.bay b).ltu.phase) :
    advance b u = u := by
  obtain ⟨-, -, -, -, -, hrunin, hleak, -⟩ := hq
  have hctl : (u.bay b).ctl.state = (s.bay b).ctl.state ∧ (u.bay b).ctl.subPhase = (s.bay b).ctl.subPhase := by
    rw [hu, h.bay]; exact ⟨rfl, rfl⟩
  refine if_neg fun hd => ?_
  have hrun := running_of_subPhaseDone b u hd
  rw [hctl.1] at hrun
  unfold State.subPhaseDone State.running at hd
  rw [hctl.1, hctl.2] at hd
  have hltu : (u.bay b).ltu.phase = (s.bay b).ltu.phase := by rw [hl, h.bay]; rfl
  cases hp : (s.bay b).ctl.subPhase with
  | none => simp [hp] at hd
  | some p =>
    cases p
    case runin =>
      simp only [hp, hrun, beq_self_eq_true, Bool.true_and, beq_iff_eq] at hd
      refine hr ?_ hd
      rw [h.bay]
      exact (bayAfter_ris s D b).2.2.2 (hrunin ((inRunin_iff b s).mpr ⟨hrun, hp⟩))
    all_goals
      simp only [hp, hrun, beq_self_eq_true, Bool.true_and, beq_iff_eq, hltu] at hd
      exact hleak ((inLeak_iff b s).mpr ⟨hrun, by simp [hp]⟩) hd

/-! ### The shares of one bay's units -/

/-- The Speed Unit's share (R81). -/
theorem BayOn.spuShare (hq : QuietBay s b) (hu : .spu b ∉ D) :
    spuTick b t = t.updBay b fun _ => s.bayAfter (.spu b :: D) b := by
  obtain ⟨hspu, -⟩ := hq
  have hquiet : (t.bay b).spu.quiet = (s.bay b).spu.quiet := by rw [h.bay]; simp [State.bayAfter, hu]
  have hjudge : (t.bay b).spu.judges = false := by
    unfold Spu.judges
    rw [hquiet, h.bay]
    show (match (s.bay b).spu.active, (s.bay b).spu.params with | true, some q => _ | _, _ => false) = false
    cases ha : (s.bay b).spu.active with
    | false => rfl
    | true =>
      cases hp : (s.bay b).spu.params with
      | none => rfl
      | some q =>
        show (!(s.bay b).spu.standstill && decide (q.standstillTime ≤ min 65535 ((s.bay b).spu.quiet + 1))) = false
        cases hs : (s.bay b).spu.standstill with
        | true => rfl
        | false =>
          have := hspu q ha hp hs
          simp only [Bool.not_false, Bool.true_and, decide_eq_false_iff_not, Nat.not_le]
          exact this
  unfold spuTick
  dsimp only
  rw [hjudge, if_neg (by decide)]
  refine State.updBay_congr ?_
  unfold Spu.tick
  rw [hjudge, h.bay]
  by_cases ha : (s.bay b).spu.active = true
  · simp [State.bayAfter, hu, ha]
  · simp [State.bayAfter, hu, ha]

/-- The Bay Controller's share (R14). -/
theorem BayOn.bycShare (hq : QuietBay s b) (hu : .byc b ∉ D) :
    bycTick b t = t.updBay b fun _ => s.bayAfter (.byc b :: D) b := by
  obtain ⟨-, -, -, -, -, -, -, hstop⟩ := hq
  have hstate : (t.bay b).ctl.state = (s.bay b).ctl.state := by rw [h.bay]; rfl
  have htime : (t.bay b).ctl.stoppingTime = (s.bay b).ctl.stoppingTime := by rw [h.bay]; simp [State.bayAfter, hu]
  have hexp : t.stopExpires b = false := by
    unfold State.stopExpires
    rw [hstate, htime, h.mga]
    by_cases hs : (s.bay b).ctl.state = .stopping
    · have := (hstop hs).1
      simp only [hs, beq_self_eq_true, Bool.true_and, decide_eq_false_iff_not, Nat.not_le]
      exact this
    · simp [hs]
  unfold bycTick
  dsimp only
  rw [hexp, if_neg (by decide), hstate]
  by_cases hs : (s.bay b).ctl.state = .stopping
  · rw [if_pos hs]
    refine State.updBay_congr ?_
    rw [h.bay]
    simp [State.bayAfter, hu, hs]
  · rw [if_neg hs, State.updBay_self]
    rw [h.bay]
    simp [State.bayAfter, hs]

/-- A window's share (R111). -/
theorem BayOn.windowShare (hq : QuietBay s b) (hu : .window b ∉ D) :
    windowTick b t = t.updBay b fun _ => s.bayAfter (.window b :: D) b := by
  obtain ⟨-, -, -, hwin, -⟩ := hq
  have hw : (t.bay b).window = (s.bay b).window := by rw [h.bay]; simp [State.bayAfter, hu]
  unfold windowTick
  rw [hw]
  cases hs : (s.bay b).window with
  | none =>
    rw [State.updBay_self]
    rw [h.bay]
    simp [State.bayAfter, hs]
  | some w =>
    have hlt := hwin w hs
    dsimp only
    rw [if_neg (by omega)]
    refine State.updBay_congr ?_
    rw [h.bay]
    simp [State.bayAfter, hs]

/-- The Leak Test Unit's share (R132 to R138). -/
theorem BayOn.leakShare (hq : QuietBay s b) (hu : .ltu b ∉ D) :
    leakTick b t = t.updBay b fun _ => s.bayAfter (.ltu b :: D) b := by
  have hq' := hq
  obtain ⟨-, -, -, -, hltu, -, -, hstop⟩ := hq'
  have hl : (t.bay b).ltu = (s.bay b).ltu := by rw [h.bay]; simp [State.bayAfter, hu]
  have htick : ltuTick b t = t.updBay b fun _ => s.bayAfter (.ltu b :: D) b := by
    unfold ltuTick
    rw [h.cavityOf, hl]
    cases hc : s.cavityOf b with
    | none =>
      rw [State.updBay_self]
      rw [h.bay]
      simp [State.bayAfter, hu, State.ltuTicked, hc]
    | some c =>
      dsimp only
      cases hn : (s.bay b).ltu.limit c with
      | none =>
        rw [State.updBay_self]
        rw [h.bay]
        simp [State.bayAfter, hu, State.ltuTicked, hc, hn]
      | some n =>
        have htimed : LtuTimed c (s.bay b).ltu n := by
          unfold Ltu.limit at hn
          unfold LtuTimed
          cases hp : (s.bay b).ltu.phase <;> rw [hp] at hn <;> simp at hn <;> simp [hn]
        have hlt := hltu c n hc htimed
        dsimp only
        rw [if_neg (by omega)]
        refine State.updBay_congr ?_
        rw [h.bay]
        simp [State.bayAfter, hu, State.ltuTicked, hc, hn]
  have hbay : ((t.updBay b fun _ => s.bayAfter (.ltu b :: D) b).bay b) = s.bayAfter (.ltu b :: D) b := State.bay_updBay_same t b _
  unfold leakTick
  rw [htick, h.notDone hq (by rw [hbay, h.bay]; simp [State.bayAfter]) (by rw [hbay, h.bay]; simp [State.bayAfter])
    (by rw [hbay, h.bay]; simp [State.bayAfter])]
  refine if_neg ?_
  rintro ⟨hs, hrest⟩
  rw [hbay] at hs
  refine (hstop hs).2 ?_
  unfold State.atRest at hrest
  rw [hbay] at hrest
  simpa [State.bayAfter, and_assoc] using hrest

/-- The share of the RIS's ramp and timers (R89, R91). -/
theorem BayOn.risPhaseShare (hq : QuietBay s b) (hu : .risPhase b ∉ D) :
    risPhaseTick b t = t.updBay b fun _ => s.bayAfter (.risPhase b :: D) b := by
  have hq' := hq
  obtain ⟨-, -, hris, -⟩ := hq'
  have hr : (t.bay b).ris = { (s.bay b).ris with holdTimer := (t.bay b).ris.holdTimer } := by
    rw [h.bay]; simp [State.bayAfter, hu]
  have hstill : (t.bay b).spu.standstill = (s.bay b).spu.standstill := by rw [h.bay]; rfl
  have hself (hsame : s.risTicked b = (s.bay b).ris) : t = t.updBay b fun _ => s.bayAfter (.risPhase b :: D) b := by
    rw [State.updBay_self]
    rw [h.bay]
    simp [State.bayAfter, hu, hsame]
  unfold risPhaseTick
  rw [h.recipeOf, h.stepOf]
  cases hrec : s.recipeOf b with
  | none => exact hself (by simp [State.risTicked, hrec])
  | some r =>
  cases hst : s.stepOf b with
  | none => exact hself (by simp [State.risTicked, hrec, hst])
  | some st =>
  have hticked : s.risTicked b = (s.bay b).ris.stepped (s.risLimit b r st).isSome r st := by simp [State.risTicked, hrec, hst]
  have hramp : rampInForce r st (t.bay b).ris = rampInForce r st (s.bay b).ris := by rw [hr]; rfl
  have hlimit : t.risLimit b r st = s.risLimit b r st := by
    unfold State.risLimit State.settleTimed
    rw [h.running, hr]
  dsimp only
  rw [hramp]
  cases hforce : rampInForce r st (s.bay b).ris with
  | some x =>
    obtain ⟨target, rate⟩ := x
    dsimp only
    by_cases hh : (s.bay b).ris.hold = true
    · rw [if_pos (by rw [hr]; exact hh)]
      exact hself (by rw [hticked]; unfold Ris.stepped; rw [hforce]; simp [hh])
    · rw [if_neg (by rw [hr]; exact hh)]
      have hquiet := (hris r st target rate hrec hst).1 ((rampInForce_iff r st _ target rate).mp hforce) (by simpa using hh)
      have htick : rampTick b r st target rate t = t.updBay b fun _ => s.bayAfter (.risPhase b :: D) b := by
        rw [rampTick_quiet (by rw [hstill, hr]; exact hquiet)]
        refine State.updBay_congr ?_
        dsimp only
        rw [hr, ramped_holdTimer, h.bay]
        have hstep : s.risTicked b = (s.bay b).ris.ramped r st target rate := by
          rw [hticked]; unfold Ris.stepped; rw [hforce]; simp [hh]
        simp [State.bayAfter, hu, hstep]
      rw [htick]
      have hbay : ((t.updBay b fun _ => s.bayAfter (.risPhase b :: D) b).bay b) = s.bayAfter (.risPhase b :: D) b :=
        State.bay_updBay_same t b _
      refine h.notDone hq (by rw [hbay, h.bay]; simp [State.bayAfter]) (fun hidle => ?_) (by rw [hbay, h.bay]; simp [State.bayAfter])
      rw [hbay]
      refine (bayAfter_ris s _ b).2.2.2 ?_
      rw [hr] at hidle
      exact hidle
  | none =>
    dsimp only
    rw [hlimit]
    cases hn : s.risLimit b r st with
    | none => exact hself (by rw [hticked]; unfold Ris.stepped; rw [hforce, hn]; rfl)
    | some n =>
      have hlt := (hris r st n 0 hrec hst).2 ((risLimit_iff s b r st n).mp hn)
      have htimer : (t.bay b).ris.phaseTimer = (s.bay b).ris.phaseTimer := by rw [hr]
      dsimp only
      rw [htimer, if_neg (by omega)]
      refine State.updBay_congr ?_
      have hstep : s.risTicked b = { (s.bay b).ris with phaseTimer := (s.bay b).ris.phaseTimer + 1 } := by
        rw [hticked]; unfold Ris.stepped; rw [hforce, hn]; rfl
      dsimp only
      rw [hr, h.bay]
      simp [State.bayAfter, hu, hstep]

end

end Sys2Proof.Machine
end

section
/-! MS_TICK (O17): all shares of a tick, in any order (R161, R169). -/

namespace Sys2Proof.Machine

/-! ### The state after some shares of the tick -/

/-- The link after its share (R161). -/
def Lfe.ticked (l : Lfe) : Lfe := if l.link = .up then l.quieter else l

/-- Lane requests after the allocator's share (R109). -/
def Oae.ticked (o : Oae) : Oae := { o with queue := o.queue.map fun q => { q with wait := q.wait + 1 } }

/-- A record after the share of its bay's RIS (R94, R102). -/
def AxleRecord.ticked (on hold : Bool) (x : AxleRecord) : AxleRecord := if hold then (x.driven on).held else x.driven on

/-- A counter counts the HOLD of a bay (R94, R152). -/
def State.holdCounts (s : State) (c : Counter) (b : Bay) : Bool :=
  (s.bay b).ris.hold && (c.baySet == 0 || c.baySet.getLsbD b.val)
    && ((s.bay b).ctl.slot.isNone || c.slotMatch.isNone || c.slotMatch == (s.bay b).ctl.slot)

/-- A counter once the units of a list have taken their shares. -/
def State.counterAfter (s : State) (D : List TickUnit) (c : Counter) : Counter :=
  match c.event with
  | .laneWaiting => if .stc ∈ D then c.sampled s.laneWaiting else c
  | .spoolDepth => if .stc ∈ D then c.sampled s.rsp.spool.length else c
  | .holdMs =>
    if c.mode = .count then c.raised ((List.finRange 4).countP fun b => s.holdCounts c b && decide (.risCount b ∈ D)) else c
  | _ => c

/-- State t is s once the units of D have taken their shares of a tick at which nothing expires. -/
structure TickOn (s : State) (D : List TickUnit) (t : State) : Prop where
  lfe : t.lfe = if .lfe ∈ D then s.lfe.ticked else s.lfe
  oae : t.oae = if .alloc ∈ D then s.oae.ticked else s.oae
  rbk : t.rbk = s.rbk
  rsp : t.rsp = s.rsp
  mga : t.mga = s.mga
  bay : ∀ b, t.bay b = s.bayAfter D b
  record : ∀ (b : Bay) (i : RecIx) (x : AxleRecord), s.bindsOpen b i x → (∀ c : Bay, c ≠ b → (s.bay c).ctl.bound ≠ some i) →
    t.art.get i = some (if .risCount b ∈ D then x.ticked (s.bay b).ris.driveEnable (s.bay b).ris.hold else x)
  counters : ∀ i : Fin 8, t.stc.counters.get i = s.counterAfter D (s.stc.counters.get i)

theorem TickOn.refl (s : State) : TickOn s [] s where
  lfe := by simp
  oae := by simp
  rbk := rfl
  rsp := rfl
  mga := rfl
  bay b := by simp [State.bayAfter]
  record b i x hi _ := by simpa using hi.2.1
  counters i := by
    unfold State.counterAfter
    split <;> simp [Counter.raised]

/-- The configuration of a counter stands under additions and samples. -/
theorem State.counterAfter_filters (s : State) (D : List TickUnit) (c : Counter) : (s.counterAfter D c).event = c.event
    ∧ (s.counterAfter D c).mode = c.mode ∧ (s.counterAfter D c).baySet = c.baySet ∧ (s.counterAfter D c).resultSet = c.resultSet
    ∧ (s.counterAfter D c).slotMatch = c.slotMatch := by
  have hsampled (x : Nat) : (c.sampled x).event = c.event ∧ (c.sampled x).mode = c.mode ∧ (c.sampled x).baySet = c.baySet
      ∧ (c.sampled x).resultSet = c.resultSet ∧ (c.sampled x).slotMatch = c.slotMatch := by
    unfold Counter.sampled
    split
    · exact ⟨rfl, rfl, rfl, rfl, rfl⟩
    · split <;> exact ⟨rfl, rfl, rfl, rfl, rfl⟩
    · dsimp only
      split <;> exact ⟨rfl, rfl, rfl, rfl, rfl⟩
  unfold State.counterAfter
  split
  · split
    · exact hsampled _
    · exact ⟨rfl, rfl, rfl, rfl, rfl⟩
  · split
    · exact hsampled _
    · exact ⟨rfl, rfl, rfl, rfl, rfl⟩
  · split
    · exact c.raised_fields _
    · exact ⟨rfl, rfl, rfl, rfl, rfl⟩
  · exact ⟨rfl, rfl, rfl, rfl, rfl⟩

/-- The filters of a counter for the HOLD_MS of a bay (R152). -/
theorem Counter.passes_holdMs (c : Counter) (b : Bay) (k : Option SlotIx) :
    c.passes { event := .holdMs, bay := some b, result := none, slot := k } = true ↔
      c.event = .holdMs ∧ c.mode = .count ∧ (c.baySet == 0 || c.baySet.getLsbD b.val) = true
        ∧ (k.isNone || c.slotMatch.isNone || c.slotMatch == k) = true := by
  unfold Counter.passes
  cases hs : c.slotMatch with
  | none => simp [and_assoc]
  | some j =>
    cases k with
    | none => simp [and_assoc]
    | some i => simp [and_assoc]

/-- A bay in HOLD adds 1 to the counters that count its HOLD. -/
theorem State.counterAfter_risCount (s : State) {D : List TickUnit} {b : Bay} (c : Counter) (hu : .risCount b ∉ D) :
    s.counterAfter (.risCount b :: D) c =
      if c.event = .holdMs ∧ c.mode = .count ∧ s.holdCounts c b = true then (s.counterAfter D c).added 1 else s.counterAfter D c := by
  unfold State.counterAfter
  cases he : c.event
  case holdMs =>
    have hins := countP_insert (List.nodup_finRange 4) (List.mem_finRange b) (s.holdCounts c) (fun a => decide (.risCount a ∈ D))
      (by simpa using hu)
    have hmem : (fun a : Bay => s.holdCounts c a && decide (TickUnit.risCount a ∈ TickUnit.risCount b :: D)) =
        fun a => s.holdCounts c a && (decide (a = b) || decide (.risCount a ∈ D)) := by
      funext a
      simp [Bool.decide_or]
    dsimp only
    by_cases hm : c.mode = .count
    · rw [if_pos hm, if_pos hm, hmem, hins]
      by_cases hc : s.holdCounts c b = true
      · rw [if_pos hc, if_pos ⟨rfl, hm, hc⟩, Counter.raised_succ]
      · rw [if_neg hc, if_neg fun hx => hc hx.2.2]
        rfl
    · rw [if_neg hm, if_neg hm, if_neg fun hx => hm hx.2.1]
  all_goals simp

/-- The counters on occupancies take their sample, and the others stand (R153). -/
theorem stcTick_get (s : State) (i : Fin 8) :
    ((s.stc.counters.get i).event = .laneWaiting → (stcTick s).stc.counters.get i = (s.stc.counters.get i).tick s.laneWaiting)
    ∧ ((s.stc.counters.get i).event = .spoolDepth →
      (stcTick s).stc.counters.get i = (s.stc.counters.get i).tick s.rsp.spool.length)
    ∧ ((s.stc.counters.get i).event ≠ .laneWaiting → (s.stc.counters.get i).event ≠ .spoolDepth →
      (stcTick s).stc.counters.get i = s.stc.counters.get i) := by
  simp only [stcTick, Vector.get_eq_getElem, Vector.getElem_map]
  generalize s.stc.counters[i.val] = c
  refine ⟨fun h => by rw [h], fun h => by rw [h], fun h1 h2 => ?_⟩
  cases he : c.event
  case laneWaiting => exact absurd he h1
  case spoolDepth => exact absurd he h2
  all_goals rfl

section
variable {s t : State} {D : List TickUnit} (h : TickOn s D t)
include h

theorem TickOn.on (b : Bay) : BayOn s D b t := ⟨h.bay b, h.rbk, h.mga⟩

/-- The share of a unit that works on its bay alone. -/
theorem TickOn.unit {b : Bay} {u : TickUnit} (hu : u = .spu b ∨ u = .risPhase b ∨ u = .window b ∨ u = .ltu b ∨ u = .byc b) :
    TickOn s (u :: D) (t.updBay b fun _ => s.bayAfter (u :: D) b) where
  lfe := by
    rw [State.updBay_lfe, h.lfe]
    obtain rfl | rfl | rfl | rfl | rfl := hu <;> simp
  oae := by
    rw [State.updBay_oae, h.oae]
    obtain rfl | rfl | rfl | rfl | rfl := hu <;> simp
  rbk := h.rbk
  rsp := h.rsp
  mga := h.mga
  bay c := by
    by_cases hbc : b = c
    · subst hbc
      exact State.bay_updBay_same t b _
    · rw [State.bay_updBay_ne _ hbc, h.bay c]
      obtain rfl | rfl | rfl | rfl | rfl := hu <;> simp [State.bayAfter, Ne.symm hbc]
  record c i x hi hx := by
    rw [State.updBay_art, h.record c i x hi hx]
    obtain rfl | rfl | rfl | rfl | rfl := hu <;> simp
  counters i := by
    rw [State.updBay_stc, h.counters i]
    unfold State.counterAfter
    obtain rfl | rfl | rfl | rfl | rfl := hu <;> simp

/-- The link's share (R161). -/
theorem TickOn.lfeShare (bays : List Bay) (hq : QuietTick s) (hu : .lfe ∉ D) : TickOn s (.lfe :: D) (lfeTick bays t) := by
  obtain ⟨hlink, -⟩ := hq
  have hl : t.lfe = s.lfe := by rw [h.lfe, if_neg hu]
  have hexp : t.linkExpires = false := by
    unfold State.linkExpires
    rw [hl, h.mga]
    by_cases hup : s.lfe.link = .up
    · have := hlink hup
      simp only [hup, beq_self_eq_true, Bool.true_and, decide_eq_false_iff_not]
      omega
    · simp [hup]
  have htick : lfeTick bays t = { t with lfe := s.lfe.ticked } := by
    unfold lfeTick Lfe.ticked
    dsimp only
    rw [hexp, if_neg (by decide), hl]
    split
    · rfl
    · rw [← hl]
  rw [htick]
  exact {
    lfe := by simp
    oae := by rw [h.oae]; simp
    rbk := h.rbk
    rsp := h.rsp
    mga := h.mga
    bay := fun b => (h.bay b).trans (by simp [State.bayAfter])
    record := fun b i x hi hx => (h.record b i x hi hx).trans (by simp)
    counters := fun i => (h.counters i).trans (by unfold State.counterAfter; simp) }

theorem TickOn.recipeOf (b : Bay) : t.recipeOf b = s.recipeOf b := (h.on b).recipeOf

/-- The allocator's share (R109). -/
theorem TickOn.allocShare (bays : List Bay) (hq : QuietTick s) (hu : .alloc ∉ D) : TickOn s (.alloc :: D) (allocTick bays t) := by
  obtain ⟨-, hwait, -⟩ := hq
  have ho : t.oae = s.oae := by rw [h.oae, if_neg hu]
  have hexp : ∀ q ∈ t.oae.queue, t.waitExpires q = false := by
    intro q hmem
    rw [ho] at hmem
    unfold State.waitExpires State.waitLimit
    rw [h.recipeOf]
    cases hr : s.recipeOf q.bay with
    | none => rfl
    | some r =>
      have := hwait q hmem r hr
      simp only [Option.map_some, decide_eq_false_iff_not]
      omega
  have hleaving : t.oae.queue.filter t.waitExpires = [] := List.filter_eq_nil_iff.mpr fun q hmem => by simp [hexp q hmem]
  have hnone (l : List Bay) (v : State) : overBays (fun b t => if ([] : List Bay).contains b then withdrawRequest b t else t) l v = v := by
    induction l with
    | nil => rfl
    | cons c l ih => exact ih
  have htick : allocTick bays t = { t with oae := s.oae.ticked } := by
    unfold allocTick
    dsimp only
    rw [hleaving, List.map_nil, hnone]
    have hraise : t.raiseWaits = { t with oae := s.oae.ticked } := by
      unfold State.raiseWaits Oae.ticked
      rw [← ho]
    rw [hraise]
    cases hqueue : t.oae.queue with
    | nil => rfl
    | cons q rest => exact if_neg (by simp [hexp q (by rw [hqueue]; exact List.mem_cons_self)])
  rw [htick]
  exact {
    lfe := by rw [h.lfe]; simp
    oae := by simp
    rbk := h.rbk
    rsp := h.rsp
    mga := h.mga
    bay := fun b => (h.bay b).trans (by simp [State.bayAfter])
    record := fun b i x hi hx => (h.record b i x hi hx).trans (by simp)
    counters := fun i => (h.counters i).trans (by unfold State.counterAfter; simp) }

/-- The counters' share (R153). -/
theorem TickOn.stcShare (hu : .stc ∉ D) : TickOn s (.stc :: D) (stcTick t) := by
  have hlane : t.laneWaiting = s.laneWaiting := by
    unfold State.laneWaiting
    rw [h.oae]
    split
    · simp [Oae.ticked, Function.comp_def]
    · rfl
  refine
    { lfe := by rw [show (stcTick t).lfe = t.lfe from rfl, h.lfe]; simp
      oae := by rw [show (stcTick t).oae = t.oae from rfl, h.oae]; simp
      rbk := h.rbk
      rsp := h.rsp
      mga := h.mga
      bay := fun b => (h.bay b).trans (by simp [State.bayAfter])
      record := fun b i x hi hx => (h.record b i x hi hx).trans (by simp)
      counters := fun i => ?_ }
  have hevent : (t.stc.counters.get i).event = (s.stc.counters.get i).event := by rw [h.counters i]; exact (s.counterAfter_filters D _).1
  obtain ⟨h1, h2, h3⟩ := stcTick_get t i
  rw [hevent] at h1 h2 h3
  have hc := h.counters i
  unfold State.counterAfter at hc ⊢
  cases he : (s.stc.counters.get i).event
  case laneWaiting =>
    simp only [he, hu, if_false] at hc
    rw [h1 he, Counter.tick_eq, hlane, hc]
    simp
  case spoolDepth =>
    simp only [he, hu, if_false] at hc
    rw [h2 he, Counter.tick_eq, h.rsp, hc]
    simp
  all_goals
    rw [h3 (by simp [he]) (by simp [he]), hc]
    simp [he]

/-- The share of the RIS's counts, where HOLD does not expire (R94, R102). -/
theorem TickOn.risCountTick_eq {b : Bay} (hq : QuietBay s b) (hu : .risCount b ∉ D) :
    (∃ a, risCountTick b t =
      { (t.updRis b fun x => { x with holdTimer := x.holdTimer + if (s.bay b).ris.hold = true then 1 else 0 }) with
        art := a, stc := if (s.bay b).ris.hold = true then (t.emitBay .holdMs b none).stc else t.stc })
    ∧ Writes b (AxleRecord.ticked (s.bay b).ris.driveEnable (s.bay b).ris.hold) t (risCountTick b t) := by
  obtain ⟨-, hhold, -⟩ := hq
  obtain ⟨-, hdrive, hheld, -⟩ := bayAfter_ris s D b
  have hb := h.bay b
  have htimer : (t.bay b).ris.holdTimer = (s.bay b).ris.holdTimer := by rw [hb]; simp [State.bayAfter, hu]
  rw [← hb] at hdrive hheld
  have hexp : t.holdExpires b = false := by
    unfold State.holdExpires
    rw [h.recipeOf, hheld, htimer]
    cases hr : s.recipeOf b with
    | none => rfl
    | some r =>
      cases hh : (s.bay b).ris.hold with
      | false => rfl
      | true =>
        have := hhold r hr hh
        simp only [Bool.true_and, decide_eq_false_iff_not]
        omega
  have hd : ∃ a, driveTick b t = { t with art := a } := by
    unfold driveTick State.writeSummary
    split
    · exact writeBound_frame t b _
    · exact ⟨t.art, rfl⟩
  have hw := driveTick_writes b t
  rw [hdrive] at hw
  have htick : risCountTick b t = if (s.bay b).ris.hold = true then holdTick b (driveTick b t) else driveTick b t := by
    unfold risCountTick
    dsimp only
    rw [hexp, if_neg (by decide), driveTick_bay, hheld]
  rw [htick]
  by_cases hh : (s.bay b).ris.hold = true
  · rw [if_pos hh]
    obtain ⟨a, ha⟩ := hd
    refine ⟨?_, ?_⟩
    · obtain ⟨a', ha'⟩ := writeBound_frame ((driveTick b t).updRis b fun r => { r with holdTimer := r.holdTimer + 1 }) b
        fun r => { r with summary := { r.summary with holdTime := countUp32 r.summary.holdTime } }
      have hframe : holdTick b (driveTick b t) =
          ({ (driveTick b t).updRis b fun r => { r with holdTimer := r.holdTimer + 1 } with art := a' } : State).emitBay .holdMs b none := by
        rw [← ha']; rfl
      refine ⟨a', ?_⟩
      have hslot : (({ t with art := a } : State).updRis b fun r => { r with holdTimer := r.holdTimer + 1 }).bay b =
          { t.bay b with ris := { (t.bay b).ris with holdTimer := (t.bay b).ris.holdTimer + 1 } } := updRis_bay b _ _
      rw [hframe, ha, if_pos hh]
      simp only [hh, if_true]
      unfold State.emitBay
      rw [show ({ ({ t with art := a } : State).updRis b fun r => { r with holdTimer := r.holdTimer + 1 } with art := a' } : State).bay b =
        (({ t with art := a } : State).updRis b fun r => { r with holdTimer := r.holdTimer + 1 }).bay b from rfl, hslot]
      rfl
    · have := hw.trans (holdTick_writes b (driveTick b t))
      refine this.congr ?_
      funext x
      simp [AxleRecord.ticked, hh]
  · rw [if_neg hh]
    refine ⟨?_, ?_⟩
    · obtain ⟨a, ha⟩ := hd
      refine ⟨a, ?_⟩
      have hid : t.updRis b (fun x => { x with holdTimer := x.holdTimer + 0 }) = t := updCtl_id b t
      rw [ha]
      simp only [if_neg hh]
      rw [hid]
    · refine hw.congr ?_
      funext x
      simp [AxleRecord.ticked, hh]

/-- The share of the RIS's counts (R94, R102). -/
theorem TickOn.risCountShare {b : Bay} (hq : QuietBay s b) (hu : .risCount b ∉ D) : TickOn s (.risCount b :: D) (risCountTick b t) := by
  obtain ⟨⟨a, ha⟩, hw⟩ := h.risCountTick_eq hq hu
  have hbound (c : Bay) : (t.bay c).ctl.bound = (s.bay c).ctl.bound := by rw [h.bay c]; rfl
  refine
    { lfe := by rw [ha]; refine h.lfe.trans ?_; simp
      oae := by rw [ha]; refine h.oae.trans ?_; simp
      rbk := by rw [ha]; exact h.rbk
      rsp := by rw [ha]; exact h.rsp
      mga := by rw [ha]; exact h.mga
      bay := fun c => ?_
      record := fun c i x hi hx => ?_
      counters := fun i => ?_ }
  · have hbay : (risCountTick b t).bay c =
        (t.updRis b fun x => { x with holdTimer := x.holdTimer + if (s.bay b).ris.hold = true then 1 else 0 }).bay c := by rw [ha]; rfl
    rw [hbay]
    by_cases hbc : b = c
    · subst hbc
      rw [updRis_bay, h.bay b]
      simp [State.bayAfter, hu]
    · rw [State.updRis_ne t hbc, h.bay c]
      simp [State.bayAfter, Ne.symm hbc]
  · have hrec := h.record c i x hi hx
    by_cases hbc : b = c
    · subst hbc
      rw [if_neg hu] at hrec
      rw [(hw.bindsOpen ⟨(hbound b).trans hi.1, hrec, hi.2.2⟩).2.1]
      simp
    · rw [hw.other (by rw [hbound b]; exact hx b hbc), hrec]
      simp [Ne.symm hbc]
  · have hcount : s.counterAfter (.risCount b :: D) (s.stc.counters.get i) =
        if (s.stc.counters.get i).event = .holdMs ∧ (s.stc.counters.get i).mode = .count ∧ s.holdCounts (s.stc.counters.get i) b = true
        then (t.stc.counters.get i).added 1 else t.stc.counters.get i := by
      rw [h.counters i]
      exact s.counterAfter_risCount (s.stc.counters.get i) hu
    have hstc : (risCountTick b t).stc = if (s.bay b).ris.hold = true then (t.emitBay .holdMs b none).stc else t.stc := by rw [ha]
    rw [hstc, hcount]
    have hfields := s.counterAfter_filters D (s.stc.counters.get i)
    rw [← h.counters i] at hfields
    by_cases hh : (s.bay b).ris.hold = true
    · rw [if_pos hh]
      have hget : (t.emitBay .holdMs b none).stc.counters.get i =
          if (t.stc.counters.get i).passes { event := .holdMs, bay := some b, result := none, slot := (t.bay b).ctl.slot } = true then
            (t.stc.counters.get i).add 1 else t.stc.counters.get i := by
        simp only [State.emitBay, State.emit, Vector.get_eq_getElem, Vector.getElem_map]
      have hslot : (t.bay b).ctl.slot = (s.bay b).ctl.slot := by rw [h.bay b]; rfl
      rw [hget, hslot, Counter.added_eq]
      refine if_congr ?_ rfl rfl
      obtain ⟨h1, h2, h3, -, h5⟩ := hfields
      rw [Counter.passes_holdMs, h1, h2, h3, h5]
      unfold State.holdCounts
      rw [hh, Bool.true_and, Bool.and_eq_true]
    · rw [if_neg hh, if_neg]
      rintro ⟨-, -, hc⟩
      unfold State.holdCounts at hc
      simp [hh] at hc

/-- Every block's share. -/
theorem TickOn.share (bays : List Bay) (hq : QuietTick s) {u : TickUnit} (hu : u ∉ D) : TickOn s (u :: D) (tickUnit bays u t) := by
  have hbays : ∀ b, QuietBay s b := hq.2.2
  cases u with
  | lfe => exact h.lfeShare bays hq hu
  | risCount b => exact h.risCountShare (hbays b) hu
  | risPhase b =>
    rw [show tickUnit bays (.risPhase b) t = risPhaseTick b t from rfl, (h.on b).risPhaseShare (hbays b) hu]
    exact h.unit (.inr (.inl rfl))
  | spu b =>
    rw [show tickUnit bays (.spu b) t = spuTick b t from rfl, (h.on b).spuShare (hbays b) hu]
    exact h.unit (.inl rfl)
  | alloc => exact h.allocShare bays hq hu
  | window b =>
    rw [show tickUnit bays (.window b) t = windowTick b t from rfl, (h.on b).windowShare (hbays b) hu]
    exact h.unit (.inr (.inr (.inl rfl)))
  | ltu b =>
    rw [show tickUnit bays (.ltu b) t = leakTick b t from rfl, (h.on b).leakShare (hbays b) hu]
    exact h.unit (.inr (.inr (.inr (.inl rfl))))
  | byc b =>
    rw [show tickUnit bays (.byc b) t = bycTick b t from rfl, (h.on b).bycShare (hbays b) hu]
    exact h.unit (.inr (.inr (.inr (.inr rfl))))
  | stc => exact h.stcShare hu

/-- The shares of a list of units, each once. -/
theorem TickOn.shares (bays : List Bay) (hq : QuietTick s) {l : List TickUnit} (hl : l.Nodup) (hd : ∀ u ∈ l, u ∉ D) :
    ∃ D' : List TickUnit, (∀ u, u ∈ l ∨ u ∈ D → u ∈ D') ∧ TickOn s D' (l.foldl (fun v u => tickUnit bays u v) t) := by
  induction l generalizing t D with
  | nil => exact ⟨D, fun u hu => hu.resolve_left (List.not_mem_nil), h⟩
  | cons u l ih =>
    obtain ⟨hul, hl⟩ := List.nodup_cons.mp hl
    have hnew : ∀ v ∈ l, v ∉ u :: D := fun v hv hmem => by
      obtain rfl | hmem := List.mem_cons.mp hmem
      · exact hul hv
      · exact hd v (List.mem_cons_of_mem u hv) hmem
    obtain ⟨D', hD', hend⟩ := ih (h.share bays hq (hd u List.mem_cons_self)) hl hnew
    refine ⟨D', fun v hv => hD' v ?_, hend⟩
    simp only [List.mem_cons] at hv ⊢
    tauto

end

/-! ### What every tick leaves as it is -/

/-- What no share of a tick touches. -/
structure TickKept (s t : State) : Prop where
  chx : t.chx = s.chx
  ports : t.ports = s.ports
  mga : t.mga = s.mga
  emission : t.rsp.emission = s.rsp.emission
  reportSeq : t.rsp.reportSeq = s.rsp.reportSeq
  snapshot : t.stc.snapshot = s.stc.snapshot
  tbs : t.tbs = s.tbs
  slot : ∀ k, { t.rbk.get k with pins := 0 } = { s.rbk.get k with pins := 0 }

theorem TickKept.of_work {s t : State} (h : BayWork anyBay s t) : TickKept s t :=
  ⟨h.chx, h.ports, h.mga, h.emission, h.reportSeq, h.snapshot, h.tbs, h.slot⟩

theorem TickKept.trans {s t u : State} (h : TickKept s t) (g : TickKept t u) : TickKept s u :=
  ⟨g.chx.trans h.chx, g.ports.trans h.ports, g.mga.trans h.mga, g.emission.trans h.emission, g.reportSeq.trans h.reportSeq,
    g.snapshot.trans h.snapshot, g.tbs.trans h.tbs, fun k => (g.slot k).trans (h.slot k)⟩

theorem TickKept.of_lfe (s : State) (l : Lfe) : TickKept s { s with lfe := l } := ⟨rfl, rfl, rfl, rfl, rfl, rfl, rfl, fun _ => rfl⟩

theorem tickUnit_kept (bays : List Bay) (u : TickUnit) (s : State) : TickKept s (tickUnit bays u s) := by
  by_cases hu : u = .lfe
  · subst hu
    show TickKept s (lfeTick bays s)
    have h1 : TickKept s (if s.lfe.link = .up then { s with lfe := s.lfe.quieter } else s) := by
      split
      · exact .of_lfe s _
      · exact .of_lfe s s.lfe
    unfold lfeTick
    dsimp only
    split
    · exact (h1.trans (.of_lfe _ _)).trans (.of_work (deliverLink_work bays _))
    · exact h1
  · exact .of_work (tickUnit_work bays u hu s)

theorem tickUnits_kept (bays : List Bay) (l : List TickUnit) (s : State) : TickKept s (l.foldl (fun v u => tickUnit bays u v) s) := by
  induction l generalizing s with
  | nil => exact .of_lfe s s.lfe
  | cons u l ih => exact (tickUnit_kept bays u s).trans (ih _)

/-- The link after a tick at which it does not time out (R161). -/
theorem tickUnits_lfe (bays : List Bay) {l : List TickUnit} (hl : l.Nodup) (s : State) (he : s.linkExpires = false) :
    (l.foldl (fun v u => tickUnit bays u v) s).lfe = if .lfe ∈ l then s.lfe.ticked else s.lfe := by
  induction l generalizing s with
  | nil => rfl
  | cons u l ih =>
    obtain ⟨hul, hl⟩ := List.nodup_cons.mp hl
    rw [List.foldl_cons]
    by_cases hu : u = .lfe
    · subst hu
      have hrest (v : State) : ∀ l : List TickUnit, .lfe ∉ l → (l.foldl (fun v u => tickUnit bays u v) v).lfe = v.lfe := by
        intro l
        induction l generalizing v with
        | nil => exact fun _ => rfl
        | cons w l ihl =>
          intro hw
          rw [List.mem_cons, not_or] at hw
          exact (ihl (tickUnit bays w v) hw.2).trans (tickUnit_work bays w (Ne.symm hw.1) v).lfe
      rw [hrest _ l hul, if_pos List.mem_cons_self]
      show (lfeTick bays s).lfe = _
      unfold lfeTick Lfe.ticked
      dsimp only
      rw [he, if_neg (by decide)]
      split <;> rfl
    · have hw := tickUnit_work bays u hu s
      have he' : (tickUnit bays u s).linkExpires = false := by
        unfold State.linkExpires at he ⊢
        rw [hw.lfe, hw.mga]
        exact he
      rw [ih hl _ he', hw.lfe]
      simp [Ne.symm hu]

/-! ### MS_TICK -/

theorem wholeTick_eq (units : List TickUnit) (bays : List Bay) {s : State} (h : s.tbs.served = []) :
    wholeTick units bays s =
      { (unitOrder units).foldl (fun v u => tickUnit bays u v) { s with tbs := { s.tbs with cellTime := s.tbs.cellTime + 1 } } with
        tbs := { cellTime := s.tbs.cellTime + 1, served := [] } } := by
  have hrest : (unitOrder units).filter (fun u => !s.tbs.served.contains u) = unitOrder units := by
    rw [h]; exact List.filter_eq_self.mpr fun _ _ => rfl
  have hopen : openTick s = { s with tbs := { s.tbs with cellTime := s.tbs.cellTime + 1 } } := if_pos h
  have htbs := (tickUnits_kept bays (unitOrder units) { s with tbs := { s.tbs with cellTime := s.tbs.cellTime + 1 } }).tbs
  unfold wholeTick
  dsimp only
  rw [hrest, hopen, htbs]

theorem mem_unitOrder (units : List TickUnit) (u : TickUnit) : u ∈ unitOrder units := by
  have hall : u ∈ allUnits := by
    unfold allUnits
    simp only [List.mem_append, List.mem_map, List.mem_singleton]
    cases u
    case risCount b => simp [mem_allBays b]
    case risPhase b => simp [mem_allBays b]
    case spu b => simp [mem_allBays b]
    case window b => simp [mem_allBays b]
    case ltu b => simp [mem_allBays b]
    case byc b => simp [mem_allBays b]
    all_goals simp
  exact List.mem_eraseDups.mpr (List.mem_append_right units hall)

theorem nodup_eraseDups {α : Type} [DecidableEq α] (l : List α) : l.eraseDups.Nodup := by
  induction h : l.length using Nat.strong_induction_on generalizing l with
  | _ n ih =>
    cases l with
    | nil => simp
    | cons a l =>
      rw [List.eraseDups_cons]
      refine List.nodup_cons.mpr ⟨fun hm => ?_, ih _ ?_ _ rfl⟩
      · have := List.mem_eraseDups.mp hm
        simp at this
      · have := List.length_filter_le (fun b => !b == a) l
        simp only [List.length_cons] at h
        omega

theorem nodup_unitOrder (units : List TickUnit) : (unitOrder units).Nodup := nodup_eraseDups _

/-- What a ramp or timer changes of a RIS. -/
theorem stepped_frame (timed : Bool) (r : Recipe) (st : Step) (x : Ris) : x.stepped timed r st =
    { x with
      cmdSpeed := (x.stepped timed r st).cmdSpeed, rampFrac := (x.stepped timed r st).rampFrac
      phaseTimer := (x.stepped timed r st).phaseTimer, phase := (x.stepped timed r st).phase } := by
  unfold Ris.stepped Ris.ramped
  repeat' split
  all_goals rfl

theorem risTicked_frame (s : State) (b : Bay) : s.risTicked b =
    { (s.bay b).ris with
      cmdSpeed := (s.risTicked b).cmdSpeed, rampFrac := (s.risTicked b).rampFrac
      phaseTimer := (s.risTicked b).phaseTimer, phase := (s.risTicked b).phase } := by
  unfold State.risTicked
  split
  · exact stepped_frame _ _ _ _
  · rfl

section
variable {s : State} {b : Bay} {r : Recipe} {st : Step} (hr : s.recipeOf b = some r) (hst : s.stepOf b = some st)
include hr hst

theorem risTicked_eq : s.risTicked b = (s.bay b).ris.stepped (s.risLimit b r st).isSome r st := by
  simp [State.risTicked, hr, hst]

/-- A ramp that is not in HOLD goes on (R89). -/
theorem risTicked_ramps {target rate : Nat} (h : Ramps r st (s.bay b).ris target rate) (hh : (s.bay b).ris.hold = false) :
    s.risTicked b = (s.bay b).ris.ramped r st target rate := by
  rw [risTicked_eq hr hst]
  unfold Ris.stepped
  rw [(rampInForce_iff r st _ target rate).mpr h]
  simp [hh]

/-- Without a ramp, or in HOLD, phase, commanded speed and ramp fraction stand (R89, R94). -/
theorem risTicked_stands (h : (∀ target rate : Nat, ¬ Ramps r st (s.bay b).ris target rate) ∨ (s.bay b).ris.hold = true) :
    (s.risTicked b).phase = (s.bay b).ris.phase ∧ (s.risTicked b).cmdSpeed = (s.bay b).ris.cmdSpeed
      ∧ (s.risTicked b).rampFrac = (s.bay b).ris.rampFrac := by
  rw [risTicked_eq hr hst]
  unfold Ris.stepped
  split
  · next target rate hf =>
    obtain h | h := h
    · exact absurd ((rampInForce_iff r st _ target rate).mp hf) (h target rate)
    · rw [if_pos h]
      exact ⟨rfl, rfl, rfl⟩
  · split <;> exact ⟨rfl, rfl, rfl⟩

/-- The phase timer of a timed phase rises by 1 (R91, R92, R99). -/
theorem risTicked_timed {n : Nat} (h : RisTimed ((s.bay b).ctl.state = .running) r st (s.bay b).ris n) :
    (s.risTicked b).phaseTimer = (s.bay b).ris.phaseTimer + 1 := by
  have hnone : rampInForce r st (s.bay b).ris = none := by
    unfold rampInForce
    obtain ⟨-, hp | ⟨h0, hp | hp | hp⟩, -⟩ | ⟨hp, -⟩ | ⟨hp, -⟩ := h
    · rw [hp]
    · rw [hp]; exact if_pos h0
    · rw [hp]
    · rw [hp]; exact if_pos h0
    · rw [hp]
    · rw [hp]
  rw [risTicked_eq hr hst, (risLimit_iff s b r st n).mpr h]
  unfold Ris.stepped
  rw [hnone]
  rfl

end

theorem limit_iff (c : Cavity) (u : Ltu) (n : Nat) : u.limit c = some n ↔ LtuTimed c u n := by
  unfold Ltu.limit LtuTimed
  cases u.phase <;> simp [eq_comm]

/-- A bay after all shares of a tick at which nothing expires. -/
theorem bayTicked_of {s t : State} {D : List TickUnit} (hD : ∀ u, u ∈ D) {b : Bay} (h : t.bay b = s.bayAfter D b) : BayTicked s t b := by
  have hafter : s.bayAfter D b =
      { ctl := { (s.bay b).ctl with
          stoppingTime := (s.bay b).ctl.stoppingTime + if (s.bay b).ctl.state = .stopping then 1 else 0 }
        spu := { (s.bay b).spu with
          quiet := if (s.bay b).spu.active = true then min 65535 ((s.bay b).spu.quiet + 1) else (s.bay b).spu.quiet
          steadyCount := if (s.risTicked b).cmdSpeed ≠ (s.bay b).ris.cmdSpeed then 0 else (s.bay b).spu.steadyCount }
        ris := { s.risTicked b with holdTimer := (s.bay b).ris.holdTimer + if (s.bay b).ris.hold = true then 1 else 0 }
        ltu := { (s.bay b).ltu with phaseTimer := s.ltuTicked b }
        window := (s.bay b).window.map (fun w => { w with timer := w.timer + 1 }) } := by
    unfold State.bayAfter
    simp only [hD, true_and, if_true]
  rw [hafter] at h
  unfold BayTicked
  rw [h]
  refine ⟨rfl, rfl, rfl, ?_, fun r st hr hst => ⟨fun target rate hramp hh => ?_, fun hno => ?_, fun n hn => ?_⟩, rfl, fun c n hc hn => ?_⟩
  · dsimp only
    rw [risTicked_frame s b]
  · dsimp only
    rw [risTicked_ramps hr hst hramp hh]
    unfold Ris.ramped
    by_cases ht : rampedSpeed r target rate (s.bay b).ris = target
    · rw [if_pos ht]
      exact ⟨rfl, fun hne => absurd ht hne, fun _ => ⟨rfl, rfl, rfl⟩⟩
    · rw [if_neg ht]
      exact ⟨rfl, fun _ => ⟨rfl, rfl, rfl⟩, fun he => absurd he ht⟩
  · exact risTicked_stands hr hst hno
  · exact risTicked_timed hr hst hn
  · dsimp only
    unfold State.ltuTicked
    rw [hc, Option.bind_some, (limit_iff c _ n).mpr hn]

/-- Settles O17. -/
theorem tickRaisesCellTime : Obligations.TickRaisesCellTime := by
  intro units bays s hs
  have hex : exec (.msTick units bays) s = .next (wholeTick units bays s) := rfl
  rw [wholeTick_eq units bays hs] at hex
  generalize hs1 : ({ s with tbs := { s.tbs with cellTime := s.tbs.cellTime + 1 } } : State) = s1 at hex
  have hkept := tickUnits_kept bays (unitOrder units) s1
  have hlfe (he : s.linkExpires = false) : ((unitOrder units).foldl (fun v u => tickUnit bays u v) s1).lfe = s.lfe.ticked := by
    rw [tickUnits_lfe bays (nodup_unitOrder units) s1 (by rw [← hs1]; exact he), if_pos (mem_unitOrder units .lfe), ← hs1]
  have hon : TickOn s [] s1 := by
    have := TickOn.refl s
    rw [← hs1]
    exact ⟨this.lfe, this.oae, this.rbk, this.rsp, this.mga, this.bay, this.record, this.counters⟩
  have hquiet (hq : QuietTick s) := hon.shares bays hq (nodup_unitOrder units) fun _ _ => List.not_mem_nil
  generalize (unitOrder units).foldl (fun v u => tickUnit bays u v) s1 = t at *
  subst hs1
  refine ⟨_, hex, rfl, fun hl => ?_, fun hl h1 h2 => ?_, hkept.chx, hkept.ports, hkept.mga, hkept.emission, hkept.reportSeq,
    hkept.snapshot, hkept.slot, fun hq => ?_⟩
  · exact (hlfe (by simp [State.linkExpires, hl])).trans (if_neg hl)
  · refine (hlfe ?_).trans (if_pos hl)
    simp only [State.linkExpires, hl, beq_self_eq_true, Bool.true_and, decide_eq_false_iff_not]
    omega
  · obtain ⟨D, hD, hend⟩ := hquiet hq
    have hall (u : TickUnit) : u ∈ D := hD u (.inl (mem_unitOrder units u))
    refine ⟨fun b => ⟨bayTicked_of hall (hend.bay b), fun i x hi hx => ?_⟩, ?_, hend.rbk, hend.rsp, fun i c hc => ?_⟩
    · refine (hend.record b i x hi hx).trans ?_
      rw [if_pos (hall _)]
      unfold AxleRecord.ticked
      cases (s.bay b).ris.hold <;> rfl
    · exact hend.oae.trans (if_pos (hall .alloc))
    · have hcounter : t.stc.counters.get i = s.counterAfter D c := by rw [hc]; exact hend.counters i
      rw [show ({ t with tbs := { cellTime := s.tbs.cellTime + 1, served := [] } } : State).stc.counters.get i = t.stc.counters.get i
        from rfl, hcounter]
      unfold State.counterAfter
      refine ⟨fun he => ?_, fun he => ?_, fun he hm n hn => ?_, fun h1 h2 h3 => ?_⟩
      · rw [he]; exact if_pos (hall .stc)
      · rw [he]; exact if_pos (hall .stc)
      · rw [he]
        dsimp only
        rw [if_pos hm, hn]
        have hcount : (fun b => s.holdCounts c b && decide (TickUnit.risCount b ∈ D)) = s.holdCounts c := by
          funext b
          simp [hall]
        rw [hcount]
        rfl
      · split
        · next he => exact absurd he h1
        · next he => exact absurd he h2
        · next he => exact absurd he h3
        · rfl

end Sys2Proof.Machine
end

section
/-! SAMPLE_FRAME (O47) in a state in which a bay holds a window although its RIS waits for lanes. A frame that ends HOLD has the
request posted and granted within the frame (R93, R96, R107), and since the bay held a window when the frame came, its OAE part
is taken too (log entry 21): it finds the new window full, closes it, and run-in ends. The statement says that nothing of the
controller changes on such a frame. -/

namespace Sys2Proof.Machine

/-! ### A bay in MEASURE_WAIT with a window -/

/-- A recipe of one MEASURE step without lanes and without blocks. -/
def measureRecipe : Recipe := { stopRunRecipe with steps := [idleStep .measure], cavities := [] }

/-- Bay 0 in RUNIN, the last sub-phase of its plan: its RIS stands in MEASURE_WAIT in HOLD, at rest, and its window is open. -/
def windowInWait : State :=
  { State.reset with
    rbk := State.reset.rbk.set 0 { Slot.reset with state := .valid, recipe := some measureRecipe, pins := 1 }
    bays := State.reset.bays.set 0
      { BayUnit.reset with
        ctl := { BayCtl.reset with state := .running, subPhase := some .runin, plan := [.runin], slot := some 0 }
        ris := { Ris.reset with phase := .measureWait, stepIndex := some 0, driveEnable := true, hold := true }
        window := some (Window.opened measureRecipe (idleStep .measure)) } }

/-- A SAMPLE frame without payload. -/
def emptySample : Bytes := buildFrame 1 0 0 1 []

/-- The state after that frame, its parts taken in the default order. -/
def windowInWaitAfter : State := sampleArrives emptySample [] windowInWait

/-- The state meets the hypotheses of the statement, before the frame and after it. -/
theorem windowInWait_waits : frameKind emptySample = some 1 ∧ frameGood emptySample = true ∧ windowInWait.testsSample
    ∧ windowInWait.lfe.lastSeq = none ∧ windowInWait.inRunin 0 = true ∧ (windowInWait.bay 0).ris.phase = .measureWait
    ∧ windowInWait.recipeOf 0 = some measureRecipe ∧ ¬ windowInWaitAfter.fixtureOpen 0 ∧ ¬ windowInWaitAfter.sensorStale 0
    ∧ windowInWaitAfter.roleReading 0 .oilTemp < measureRecipe.oilAbort
    ∧ ¬ Overloads measureRecipe (windowInWait.bay 0).ris (windowInWaitAfter.roleReading 0 .torque)
    ∧ (windowInWait.bay 0).ris.hold = true := by
  unfold State.testsSample State.fixtureOpen State.sensorStale Overloads
  decide +kernel

/-- The test of the bay is over at the frame. -/
theorem windowInWait_ends : (windowInWait.bay 0).ctl.state = .running ∧ (windowInWaitAfter.bay 0).ctl.state = .complete := by
  decide +kernel

/-- Refutes O47: in `windowInWait` no fault arises and HOLD does not begin, but the controller does not stay as it was. -/
theorem not_frameSupervises : ¬ Obligations.FrameSupervises := by
  intro h
  obtain ⟨hkind, hgood, htests, hlast, hin, hphase, hrecipe, hfixture, hstale, hoil, hload, hhold⟩ := windowInWait_waits
  have hex : exec (.sampleFrame emptySample []) windowInWait = .next windowInWaitAfter := by
    refine congrArg Host.Outcome.next (if_pos ?_)
    simp [arrivalOf, hkind]
  obtain ⟨-, -, hone⟩ := h emptySample [] 1 windowInWait windowInWaitAfter hkind hgood htests (.inl ⟨hlast, rfl⟩) le_rfl
    (by decide) hex 0
  obtain ⟨-, -, -, -, hrunin, -⟩ := hone rfl
  obtain ⟨-, hcool⟩ := hrunin measureRecipe _ _ hin (by rw [hphase]; decide) hrecipe hfixture hstale rfl rfl
  obtain ⟨-, hquiet, -⟩ := hcool hoil
  obtain ⟨-, -, hkept, -⟩ := hquiet hload
  obtain ⟨-, hctl, -⟩ := hkept (by rw [hphase]; decide) (by rw [hphase]; exact nofun)
  have hsame := hctl fun hb => by rw [hb.1] at hhold; cases hhold
  obtain ⟨hbefore, hafter⟩ := windowInWait_ends
  rw [hsame, hbefore] at hafter
  cases hafter

end Sys2Proof.Machine
end

section
/-! Requests on records: READ_RECORD (O40) and RELEASE_RECORD (O41). -/

namespace Sys2Proof.Machine

/-- A management command that is taken answers what its body replies to the arguments. -/
theorem exec_replied {c : Command} {q : MgmtRequest} {s : State} {r : Reply} (h : TakenAs c q s)
    (hr : c.body (reqArgs q.payload) s.popRequest = r) :
    exec c.instr s = .next (r.state.respond q r.status r.results) := by
  rw [exec_instr, serve_taken _ h, hr]

/-! ### READ_RECORD -/

section
variable {args : Bytes} {s : State} {i : RecIx} {r : AxleRecord}

theorem doReadRecord_out_of_range (h : 12 ≤ byteAt args 0) : doReadRecord args s = .refuse s .badArg := by
  simp [doReadRecord, recArg_none.mpr h]

theorem doReadRecord_free (hi : byteAt args 0 = i.val) (hr : s.art.get i = none) :
    doReadRecord args s = .refuse s .notFound := by
  simp [doReadRecord, recArg_eq.mpr hi, hr]

theorem doReadRecord_held (hi : byteAt args 0 = i.val) (hr : s.art.get i = some r) :
    doReadRecord args s =
      if partCountOf (recordBytes i r).length ≤ byteAt args 1 then .refuse s .badArg
      else .ok s (partBytes s i r (byteAt args 1) (partCountOf (recordBytes i r).length)) := by
  simp [doReadRecord, recArg_eq.mpr hi, hr]

/-! ### RELEASE_RECORD -/

theorem doReleaseRecord_bad_args (h : 12 ≤ byteAt args 0 ∨ readSerial (args.drop 1) = none) :
    doReleaseRecord args s = .refuse s .badArg := by
  unfold doReleaseRecord
  split
  · next i serial hi hs =>
    obtain h | h := h
    · rw [recArg_none.mpr h] at hi; cases hi
    · rw [h] at hs; cases hs
  · rfl

theorem doReleaseRecord_free {serial : Bytes} (hi : byteAt args 0 = i.val) (hs : readSerial (args.drop 1) = some serial)
    (hr : s.art.get i = none) : doReleaseRecord args s = .refuse s .notFound := by
  simp only [doReleaseRecord, recArg_eq.mpr hi, hs, hr]

theorem doReleaseRecord_held {serial : Bytes} (hi : byteAt args 0 = i.val) (hs : readSerial (args.drop 1) = some serial)
    (hr : s.art.get i = some r) :
    doReleaseRecord args s =
      if r.serial ≠ serial then .refuse s .serialMismatch
      else if r.state ≠ .sent then .refuse s .wrongState
      else .ok { s with art := s.art.set i none } [] := by
  simp only [doReleaseRecord, recArg_eq.mpr hi, hs, hr]

end

/-- Settles O40: the part is that of the record in the table, and every other request is refused. -/
theorem recordPartRead : Obligations.RecordPartRead := by
  intro q s h
  refine ⟨fun hi => exec_replied h (doReadRecord_out_of_range hi), fun i hi =>
    ⟨fun hr => exec_replied h (doReadRecord_free hi hr), fun r part count hr hpart hcount => ?_⟩⟩
  subst hpart hcount
  have hbody := doReadRecord_held (s := s.popRequest) hi hr
  split
  · next hc => exact exec_replied h (hbody.trans (if_pos hc))
  · next hc => exact exec_replied h (hbody.trans (if_neg hc))

/-- Settles O41, with one reply for each check of R39. -/
theorem recordReleased : Obligations.RecordReleased := by
  intro q s h
  refine ⟨fun hbad => exec_replied h (doReleaseRecord_bad_args hbad), fun i serial hi hs =>
    ⟨fun hr => exec_replied h (doReleaseRecord_free hi hs hr), fun r hr => ?_⟩⟩
  have hbody := doReleaseRecord_held (s := s.popRequest) hi hs hr
  split
  · next hc => exact exec_replied h (hbody.trans (if_pos hc))
  next hc =>
  replace hbody := hbody.trans (if_neg hc)
  split
  · next hn => exact exec_replied h (hbody.trans (if_pos hn))
  · next hn => exact exec_replied h (hbody.trans (if_neg hn))

end Sys2Proof.Machine
end

section
/-! What commands do to the books: the record table, the pin counts and the spooler. `BookStep c s t` lists the elementary
changes, each with the condition under which the model makes it; every command is a chain of them. The invariants of O6 and
the freeze of O12 are then proved once per change. -/

namespace Sys2Proof.Machine

/-! ### Changes of the books -/

/-- The head's emission after one more part. -/
def Emission.next (e : Emission) : Emission := { e with nextPart := e.nextPart + 1 }

/-- The elementary changes of record table, recipe slots and spooler under a command. -/
inductive BookStep (c : Instr) (s : State) : State → Prop where
  | kept {t : State} (h : SameBooks s t) : BookStep c s t
  | written (i : RecIx) (r x : AxleRecord) (hr : s.art.get i = some r) (ho : r.state = .opened) (hs : x.state = r.state)
      (hk : x.slot = r.slot) : BookStep c s { s with art := s.art.set i (some x) }
  | closed (i : RecIx) (r : AxleRecord) (hr : s.art.get i = some r) (ho : r.state = .opened) :
      BookStep c s (finalize i r s).1
  | opened (i : RecIx) (r : AxleRecord) (hi : s.art.get i = none) (ho : r.state = .opened)
      (hv : (s.slot r.slot).state = .valid) : BookStep c s { s.pin r.slot with art := s.art.set i (some r) }
  | slot (k : SlotIx) (x : Slot) (hx : x.pins = (s.slot k).pins) (hk : (s.slot k).pins = 0 ∨ (s.slot k).state = .loading) :
      BookStep c s (s.setSlot k x)
  | numbered (n : BitVec 16) : BookStep c s { s with rsp := { s.rsp with reportSeq := n } }
  | part (i : RecIx) (rest : List RecIx) (r : AxleRecord) (hs : s.rsp.spool = i :: rest)
      (hr : s.art.get i = some r) (hn : (s.headEmission i r).next.nextPart < (s.headEmission i r).partCount) :
      BookStep c s { s with rsp := { s.rsp with emission := some (s.headEmission i r).next } }
  | sent (i : RecIx) (rest : List RecIx) (r : AxleRecord) (hs : s.rsp.spool = i :: rest) (hr : s.art.get i = some r) :
      BookStep c s (recordSent i r s)
  | released (hc : c = .releaseRecord) (i : RecIx) (r : AxleRecord) (hr : s.art.get i = some r) (hs : r.state = .sent) :
      BookStep c s { s with art := s.art.set i none }
  | cleared (hc : c = .resetApply ∨ ∃ strap, c = .powerOn strap) {t : State} (ha : ∀ i, t.art.get i = none)
      (hk : ∀ k, (t.rbk.get k).pins = 0) (hs : t.rsp.spool = []) (he : t.rsp.emission = none) : BookStep c s t

/-- A chain of changes of the books. -/
def BookSteps (c : Instr) : State → State → Prop := Relation.ReflTransGen (BookStep c)

theorem BookStep.one {c : Instr} {s t : State} (h : BookStep c s t) : BookSteps c s t := Relation.ReflTransGen.single h

theorem BookSteps.refl {c : Instr} {s : State} : BookSteps c s s := Relation.ReflTransGen.refl

theorem BookSteps.trans {c : Instr} {s t u : State} (h : BookSteps c s t) (g : BookSteps c t u) : BookSteps c s u :=
  Relation.ReflTransGen.trans h g

theorem BookSteps.same {c : Instr} {s t : State} (h : SameBooks s t) : BookSteps c s t := (BookStep.kept h).one

/-- What every change of the books keeps, a chain of them keeps. -/
theorem BookSteps.keeps {c : Instr} {P : State → Prop} (hp : ∀ {s t}, BookStep c s t → P s → P t) {s t : State}
    (h : BookSteps c s t) (hs : P s) : P t := by
  induction h with
  | refl => exact hs
  | tail _ h ih => exact hp h ih

/-! ### Every command -/

section
variable {c : Instr} {s : State}

theorem writeBound_books (b : Bay) {f : AxleRecord → AxleRecord} (h : ContentOnly f) : BookSteps c s (s.writeBound b f) := by
  by_cases ho : ∃ i r, s.bindsOpen b i r
  · obtain ⟨i, r, ho⟩ := ho
    rw [writeBound_open f ho]
    obtain ⟨-, hr, hs⟩ := ho
    obtain ⟨hstate, -, hslot⟩ := h r
    exact (BookStep.written i r (f r) hr hs hstate hslot).one
  · rw [writeBound_none f fun i r h => ho ⟨i, r, h⟩]
    exact .refl

theorem finalizedAt_books (b : Bay) : BookSteps c s (s.finalizedAt b) := by
  unfold State.finalizedAt
  split
  · next i r h =>
    obtain ⟨-, hr, ho⟩ := openRecord_eq_some.mp h
    exact (BookStep.closed i r hr ho).one
  · exact .refl

theorem Deed.books {t : State} (h : Deed s t) : BookSteps c s t := by
  cases h with
  | record b f h => exact writeBound_books b h
  | cause b k h =>
    have hw : BookSteps c s (s.writeBound b fun r => { r with cause := some k }) := writeBound_books b fun _ => ⟨rfl, rfl, rfl⟩
    exact hw.trans (.same ⟨rfl, rfl, rfl⟩)
  | complete b h => exact (finalizedAt_books b).trans (.same (enterComplete_books b s))
  | outside h => exact .same ⟨h.art, h.rbk, h.rsp⟩
  | _ => exact .same ⟨rfl, rfl, rfl⟩

theorem Deeds.books {t : State} (h : Deeds s t) : BookSteps c s t :=
  h.keeps (P := BookSteps c) (fun _ => .refl) .trans Deed.books

theorem openTest_books (b : Bay) {k : SlotIx} {r : Recipe} (serial : Bytes) {i : RecIx} (roles : List (Role × EntryIx))
    (hk : s.validRecipe k = some r) (hi : s.freeRecord = some i) : BookSteps c s (openTest b k r serial i roles s) := by
  have hv : (s.slot k).state = .valid := by
    by_contra hv
    rw [State.validRecipe, if_neg hv] at hk
    cases hk
  exact (BookStep.opened i (openingRecord s b k r serial) (freeRecord_free hi) rfl hv).one.trans (.same ⟨rfl, rfl, rfl⟩)

theorem Served.books {t : State} {m : Command} (h : Served s m t) : BookSteps m.instr s t := by
  cases h with
  | slot m k x hx hk => exact (BookStep.slot k x hx hk).one
  | start b k r serial i roles hb hk hi => exact openTest_books b serial roles hk hi
  | abortReady b h => exact (abortReady_deeds b s _ h).books
  | abortRunning b h => exact (abortBay_deeds b s _ h).books
  | release i r hi hr => exact (BookStep.released rfl i r hi hr).one
  | _ => exact .same ⟨rfl, rfl, rfl⟩

/-- The state with a report frame sent and the next one numbered (R148 step 2). -/
def State.reporting (s : State) (f : Bytes) : State :=
  { s.sendC f with rsp := { s.rsp with reportSeq := s.rsp.reportSeq + 1 } }

theorem reporting_books (f : Bytes) : BookSteps c s (s.reporting f) :=
  BookSteps.trans (t := s.sendC f) (.same ⟨rfl, rfl, rfl⟩) (BookStep.numbered (s := s.sendC f) _).one

/-- A report part is a part of the head record: the emission goes on, or the record is SENT. -/
theorem insertReportPart_books : BookSteps c s (insertReportPart s) := by
  unfold insertReportPart
  split
  · exact .refl
  next i rest hs =>
  split
  · exact .refl
  next r hr =>
  split
  · have hsend := reporting_books (c := c) (s := s) (reportFrame s i r (s.headEmission i r))
    dsimp only
    split
    · exact hsend.trans (BookStep.sent (s := s.reporting _) i rest r hs hr).one
    · next hn => exact hsend.trans (BookStep.part (s := s.reporting _) i rest r hs hr (Nat.lt_of_not_le hn)).one
  · exact .refl

theorem resetPart_pins (k : SlotIx) : (s.resetPart.rbk.get k).pins = 0 := by
  have h : s.resetPart.rbk.get k = (s.rbk.get k).resetPart := by simp [State.resetPart, Vector.get_eq_getElem]
  rw [h, Slot.resetPart]
  split <;> rfl

/-- Every command is a chain of changes of the books. -/
theorem Outcome.books {t : State} (h : Outcome s c t) : BookSteps c s t := by
  cases h with
  | deeds _ h => exact h.books
  | powerOn strap =>
    exact (BookStep.cleared (t := Machine.powerOn strap s) (.inr ⟨strap, rfl⟩) State.reset_art
      (fun k => congrArg Slot.pins (State.reset_slot k)) rfl rfl).one
  | reset => exact (BookStep.cleared (t := s.resetPart) (.inl rfl) State.reset_art resetPart_pins rfl rfl).one
  | report => exact insertReportPart_books
  | served m st rs hq h => exact ((popRequest_deeds s).books.trans h.books).trans (.same ⟨rfl, rfl, rfl⟩)

end

end Sys2Proof.Machine
end

section
/-! The record table: every step keeps the spool queue, the pin counts, the VALID state of pinned slots and the emission in
agreement with the records (O6), and a record that is not OPEN is frozen (O12). -/

namespace Sys2Proof.Machine

/-! ### Reading a record or a slot after a write -/

/-- A write of another record leaves a record as it is. -/
theorem art_set_keeps {v : Vector (Option AxleRecord) 12} {i j : RecIx} {y : Option AxleRecord} {x : AxleRecord}
    (hj : v.get j = some x) (hi : v.get i ≠ some x) : (v.set i y).get j = some x := by
  rw [get_set_art, if_neg fun h => hi (by rw [h, hj]), hj]

theorem State.setSlot_get (s : State) (k j : SlotIx) (x : Slot) :
    (s.setSlot k x).rbk.get j = if k = j then x else s.rbk.get j := by
  simp only [State.setSlot, Vector.get_eq_getElem, Vector.getElem_set, Fin.ext_iff]

/-- A written pin count changes nothing else of any slot. -/
theorem State.setPins_slot (s : State) (k j : SlotIx) (n : Nat) :
    (s.setSlot k { s.rbk.get k with pins := n }).rbk.get j =
      { s.rbk.get j with pins := if k = j then n else (s.rbk.get j).pins } := by
  rw [State.setSlot_get]
  by_cases h : k = j
  · subst h; simp
  · simp [h]

theorem State.pin_slot (s : State) (k j : SlotIx) : (s.pin k).rbk.get j =
    { s.rbk.get j with pins := if k = j then (s.rbk.get k).pins + 1 else (s.rbk.get j).pins } := s.setPins_slot k j _

theorem State.unpin_slot (s : State) (k j : SlotIx) : (s.unpin k).rbk.get j =
    { s.rbk.get j with pins := if k = j then (s.rbk.get k).pins - 1 else (s.rbk.get j).pins } := s.setPins_slot k j _

theorem finalize_art (i : RecIx) (r : AxleRecord) (s : State) :
    ∃ v, (finalize i r s).1.art = s.art.set i (some (finalized s.tbs.cellTime v r)) := ⟨_, rfl⟩

theorem finalize_rbk (i : RecIx) (r : AxleRecord) (s : State) : (finalize i r s).1.rbk = (s.unpin r.slot).rbk := rfl

theorem finalize_rsp (i : RecIx) (r : AxleRecord) (s : State) :
    (finalize i r s).1.rsp = { s.rsp with spool := s.rsp.spool ++ [i] } := rfl

/-! ### The spool queue -/

theorem recState_of_get {s : State} {i : RecIx} {x : Option AxleRecord} (h : s.art.get i = x) :
    s.recState i = x.map (·.state) := by rw [State.recState, h]

theorem recState_of_set {s t : State} {i : RecIx} {x : Option AxleRecord} (h : t.art = s.art.set i x) (j : RecIx) :
    t.recState j = if i = j then x.map (·.state) else s.recState j := by
  rw [State.recState, h, get_set_art]
  split <;> rfl

theorem SpoolMatches.of_same {s t : State} (h : SpoolMatches s) (ha : t.art = s.art) (hp : t.rsp.spool = s.rsp.spool) :
    SpoolMatches t := by
  unfold SpoolMatches State.recState
  rw [ha, hp]
  exact h

/-- A record that is not QUEUED, before and after, has no place in the spool. -/
theorem SpoolMatches.of_set {s t : State} {i : RecIx} {x : Option AxleRecord} (h : SpoolMatches s) (ha : t.art = s.art.set i x)
    (hp : t.rsp.spool = s.rsp.spool) (hold : s.recState i ≠ some .queued) (hnew : x.map (·.state) ≠ some .queued) :
    SpoolMatches t := by
  obtain ⟨hnodup, hmem⟩ := h
  refine ⟨by rwa [hp], fun j => ?_⟩
  rw [hp, hmem, recState_of_set ha]
  split
  · next hij => subst hij; simp only [hold, hnew]
  · rfl

/-- A record that becomes QUEUED joins the spool at its tail. -/
theorem SpoolMatches.finalize {s : State} {i : RecIx} {r : AxleRecord} (h : SpoolMatches s) (hi : s.recState i ≠ some .queued) :
    SpoolMatches (finalize i r s).1 := by
  obtain ⟨hnodup, hmem⟩ := h
  obtain ⟨v, ha⟩ := finalize_art i r s
  have hnot : i ∉ s.rsp.spool := fun hin => hi ((hmem i).mp hin)
  unfold SpoolMatches
  rw [finalize_rsp]
  refine ⟨List.nodup_append.mpr ⟨hnodup, List.nodup_singleton i, ?_⟩, fun j => ?_⟩
  · intro a ha b hb hab
    rw [hab, List.mem_singleton.mp hb] at ha
    exact hnot ha
  · rw [List.mem_append, List.mem_singleton, hmem, recState_of_set ha]
    by_cases hij : i = j
    · subst hij; simp [finalized]
    · simp [hij, Ne.symm hij]

/-- A record that is SENT leaves the spool at its head. -/
theorem SpoolMatches.recordSent {s : State} {i : RecIx} {rest : List RecIx} {r : AxleRecord} (h : SpoolMatches s)
    (hs : s.rsp.spool = i :: rest) : SpoolMatches (recordSent i r s) := by
  obtain ⟨hnodup, hmem⟩ := h
  rw [hs, List.nodup_cons] at hnodup
  obtain ⟨hnot, hrest⟩ := hnodup
  have hp : (Machine.recordSent i r s).rsp.spool = rest := congrArg (List.drop 1) hs
  refine ⟨by rwa [hp], fun j => ?_⟩
  have hj := hmem j
  rw [hs, List.mem_cons] at hj
  rw [hp, recState_of_set (s := s) rfl]
  by_cases hij : i = j
  · subst hij; simp [hnot, AxleRecord.reported]
  · simpa [hij, Ne.symm hij] using hj

/-- The head of the spool is QUEUED. -/
theorem SpoolMatches.head_queued {s : State} {i : RecIx} {rest : List RecIx} {r : AxleRecord} (h : SpoolMatches s)
    (hs : s.rsp.spool = i :: rest) (hr : s.art.get i = some r) : r.state = .queued := by
  obtain ⟨-, hmem⟩ := h
  have hq := (hmem i).mp (by rw [hs]; exact List.mem_cons_self)
  rw [recState_of_get hr] at hq
  exact Option.some.inj hq

theorem BookStep.spool {c : Instr} {s t : State} (h : BookStep c s t) (hs : SpoolMatches s) : SpoolMatches t := by
  cases h with
  | kept h => exact hs.of_same h.art (by rw [h.rsp])
  | written i r x hr ho hx hk =>
    exact hs.of_set rfl rfl (by rw [recState_of_get hr]; simp [ho]) (by simp [hx, ho])
  | closed i r hr ho => exact hs.finalize (by rw [recState_of_get hr]; simp [ho])
  | opened i r hi ho hv => exact hs.of_set rfl rfl (by rw [recState_of_get hi]; simp) (by simp [ho])
  | slot k x hx hk => exact hs.of_same rfl rfl
  | numbered n => exact hs.of_same rfl rfl
  | part i rest r hp hr hn => exact hs.of_same rfl rfl
  | sent i rest r hp hr => exact hs.recordSent hp
  | released hc i r hr hsent => exact hs.of_set rfl rfl (by rw [recState_of_get hr]; simp [hsent]) (by simp)
  | cleared hc ha hk hp he =>
    refine ⟨by rw [hp]; exact List.nodup_nil, fun i => ?_⟩
    rw [hp, recState_of_get (ha i)]
    simp

/-! ### Pin counts -/

/-- The record is OPEN and names the slot. -/
def AxleRecord.opens (k : SlotIx) (r : AxleRecord) : Bool := r.state == .opened && r.slot == k

theorem opensSlot_eq (s : State) (k : SlotIx) (i : RecIx) : s.opensSlot k i = (s.art.get i).any (AxleRecord.opens k) := by
  unfold State.opensSlot
  cases s.art.get i <;> rfl

theorem AxleRecord.opens_of_open {r : AxleRecord} (ho : r.state = .opened) (k : SlotIx) : r.opens k = (r.slot == k) := by
  simp [AxleRecord.opens, ho]

theorem AxleRecord.opens_of_closed {r : AxleRecord} (ho : r.state ≠ .opened) (k : SlotIx) : r.opens k = false := by
  simp [AxleRecord.opens, ho]

/-- Two counts over a list without repetition, of tests that differ in one element at most. -/
theorem countP_add_of_differ {α : Type} [DecidableEq α] {l : List α} {a : α} {p q : α → Bool} (hl : l.Nodup) (ha : a ∈ l)
    (h : ∀ b, b ≠ a → p b = q b) : l.countP p + (q a).toNat = l.countP q + (p a).toNat := by
  have hperm := List.perm_cons_erase ha
  have hrest : (l.erase a).countP p = (l.erase a).countP q :=
    List.countP_congr fun b hb => by rw [h b (hl.mem_erase_iff.mp hb).1]
  rw [hperm.countP_eq, hperm.countP_eq, List.countP_cons, List.countP_cons, hrest]
  cases p a <;> cases q a <;> simp

/-- The number of OPEN records that name a slot, after a write of one record. -/
theorem opensSlot_count {s t : State} {i : RecIx} {x : Option AxleRecord} (ha : t.art = s.art.set i x) (k : SlotIx) :
    (List.finRange 12).countP (t.opensSlot k) + ((s.art.get i).any (AxleRecord.opens k)).toNat =
      (List.finRange 12).countP (s.opensSlot k) + (x.any (AxleRecord.opens k)).toNat := by
  have h := countP_add_of_differ (p := t.opensSlot k) (q := s.opensSlot k) (List.nodup_finRange 12) (List.mem_finRange i)
    fun j hj => by rw [opensSlot_eq, opensSlot_eq, ha, get_set_art, if_neg hj.symm]
  rwa [opensSlot_eq s, opensSlot_eq t k i, ha, get_set_art, if_pos rfl] at h

theorem PinsMatch.of_same {s t : State} (h : PinsMatch s) (ha : t.art = s.art)
    (hk : ∀ k, (t.rbk.get k).pins = (s.rbk.get k).pins) : PinsMatch t := by
  intro k
  rw [hk, h k]
  congr 1
  funext i
  rw [opensSlot_eq, opensSlot_eq, ha]

/-- A write of one record, with the pin counts raised and lowered as it opens and closes. -/
theorem PinsMatch.of_set {s t : State} {i : RecIx} {x : Option AxleRecord} (h : PinsMatch s) (ha : t.art = s.art.set i x)
    (hk : ∀ k, (t.rbk.get k).pins + ((s.art.get i).any (AxleRecord.opens k)).toNat =
      (s.rbk.get k).pins + (x.any (AxleRecord.opens k)).toNat) : PinsMatch t := by
  intro k
  have hpins := hk k
  rw [h k, ← opensSlot_count ha k] at hpins
  exact Nat.add_right_cancel hpins

/-- A write of a record that is not OPEN, before and after. -/
theorem PinsMatch.of_set_closed {s t : State} {i : RecIx} {r : AxleRecord} {x : Option AxleRecord} (h : PinsMatch s)
    (ha : t.art = s.art.set i x) (hk : t.rbk = s.rbk) (hr : s.art.get i = some r) (ho : r.state ≠ .opened)
    (hx : ∀ y, x = some y → y.state ≠ .opened) : PinsMatch t := by
  refine h.of_set ha fun k => ?_
  have hnew : x.any (AxleRecord.opens k) = false := by
    cases x with
    | none => rfl
    | some y => exact AxleRecord.opens_of_closed (hx y rfl) k
  rw [hk, hr, hnew, Option.any_some, AxleRecord.opens_of_closed ho]

/-- The slot of an OPEN record is pinned. -/
theorem PinsMatch.pinned {s : State} {i : RecIx} {r : AxleRecord} (h : PinsMatch s) (hr : s.art.get i = some r)
    (ho : r.state = .opened) : 0 < (s.rbk.get r.slot).pins := by
  rw [h, List.countP_pos_iff]
  exact ⟨i, List.mem_finRange i, by simp [opensSlot_eq, hr, AxleRecord.opens_of_open ho]⟩

theorem BookStep.pins {c : Instr} {s t : State} (h : BookStep c s t) (hs : SpoolMatches s) (hp : PinsMatch s) : PinsMatch t := by
  cases h with
  | kept h => exact hp.of_same h.art fun k => by rw [h.rbk]
  | written i r x hr ho hx hk =>
    refine hp.of_set rfl fun k => ?_
    rw [hr, Option.any_some, Option.any_some, AxleRecord.opens, AxleRecord.opens, hx, hk]
  | closed i r hr ho =>
    obtain ⟨v, ha⟩ := finalize_art i r s
    refine hp.of_set ha fun k => ?_
    have hpos := hp.pinned hr ho
    have hclosed : (finalized s.tbs.cellTime v r).opens k = false := AxleRecord.opens_of_closed (by simp [finalized]) k
    rw [finalize_rbk, State.unpin_slot, hr, Option.any_some, Option.any_some, AxleRecord.opens_of_open ho, hclosed]
    by_cases hk : r.slot = k
    · subst hk; simp; omega
    · simp [hk]
  | opened i r hi ho hv =>
    refine hp.of_set rfl fun k => ?_
    rw [State.pin_slot, hi, Option.any_some, AxleRecord.opens_of_open ho]
    by_cases hk : r.slot = k <;> simp [hk]
  | slot k x hx hk =>
    refine hp.of_same rfl fun j => ?_
    rw [State.setSlot_get]
    split
    · next h => subst h; exact hx
    · rfl
  | numbered n => exact hp.of_same rfl fun _ => rfl
  | part i rest r hspool hr hn => exact hp.of_same rfl fun _ => rfl
  | sent i rest r hspool hr =>
    refine hp.of_set_closed rfl rfl hr (by rw [hs.head_queued hspool hr]; exact nofun) fun y hy => ?_
    cases hy
    exact nofun
  | released hc i r hr hsent => exact hp.of_set_closed rfl rfl hr (by rw [hsent]; exact nofun) fun y hy => by cases hy
  | cleared hc ha hk hspool he =>
    intro k
    rw [hk, eq_comm, List.countP_eq_zero]
    intro i _
    simp [opensSlot_eq, ha]

/-! ### Pinned slots -/

/-- A pinned slot was VALID, and stays so where no pin is added. -/
theorem PinnedValid.of_le {s t : State} (h : PinnedValid s) (hk : ∀ k, (t.rbk.get k).state = (s.rbk.get k).state ∧
    (t.rbk.get k).pins ≤ (s.rbk.get k).pins) : PinnedValid t := by
  intro k hpos
  obtain ⟨hstate, hpins⟩ := hk k
  rw [hstate]
  exact h k (hpos.trans_le hpins)

theorem PinnedValid.of_same {s t : State} (h : PinnedValid s) (hk : t.rbk = s.rbk) : PinnedValid t :=
  h.of_le fun k => by rw [hk]; exact ⟨rfl, le_rfl⟩

theorem BookStep.pinnedValid {c : Instr} {s t : State} (h : BookStep c s t) (hs : PinnedValid s) : PinnedValid t := by
  cases h with
  | kept h => exact hs.of_same h.rbk
  | closed i r hr ho =>
    refine hs.of_le fun k => ?_
    rw [finalize_rbk, State.unpin_slot]
    by_cases hk : r.slot = k
    · subst hk; simp
    · simp [hk]
  | opened i r hi ho hv =>
    intro k hpos
    dsimp only at hpos ⊢
    rw [State.pin_slot] at hpos ⊢
    by_cases hk : r.slot = k
    · rw [← hk]; exact hv
    · rw [if_neg hk] at hpos; exact hs k hpos
  | slot k x hx hk =>
    intro j hpos
    rw [State.setSlot_get] at hpos ⊢
    split at hpos
    · next hj =>
      rw [hx] at hpos
      have hvalid := hs k hpos
      obtain hk | hk := hk
      · exact absurd hk hpos.ne'
      · exact absurd (hk.symm.trans hvalid) nofun
    · next hj => rw [if_neg hj]; exact hs j hpos
  | cleared hc ha hk hspool he => intro k hpos; rw [hk] at hpos; cases hpos
  | written | numbered | part | sent | released => exact hs.of_same rfl

/-! ### The emission -/

/-- Every QUEUED record stays as it is. -/
def QueuedKept (s t : State) : Prop := ∀ i x, s.art.get i = some x → x.state = .queued → t.art.get i = some x

/-- A write of a record that is not QUEUED leaves the QUEUED ones. -/
theorem QueuedKept.of_set {s t : State} {i : RecIx} {y : Option AxleRecord} (ha : t.art = s.art.set i y)
    (hi : s.recState i ≠ some .queued) : QueuedKept s t := by
  intro j x hj hq
  rw [ha]
  exact art_set_keeps hj fun h => hi (by rw [recState_of_get h, Option.map_some, hq])

theorem QueuedKept.of_same {s t : State} (ha : t.art = s.art) : QueuedKept s t := fun i x hx _ => by rw [ha]; exact hx

/-- An emission goes on while the QUEUED records stay and the spool grows at its tail alone. -/
theorem EmissionMatches.of_head {s t : State} (h : EmissionMatches s) (hs : SpoolMatches s)
    (he : t.rsp.emission = s.rsp.emission) (hp : ∃ more, t.rsp.spool = s.rsp.spool ++ more) (ha : QueuedKept s t) :
    EmissionMatches t := by
  intro e het
  obtain ⟨i, rest, r, hspool, hr, hcount⟩ := h e (he ▸ het)
  obtain ⟨more, hmore⟩ := hp
  rw [hspool, List.cons_append] at hmore
  exact ⟨i, rest ++ more, r, hmore, ha i r hr (hs.head_queued hspool hr), hcount⟩

/-- The emission of the head has the part count of its record, begun or not. -/
theorem EmissionMatches.headEmission_partCount {s : State} {i : RecIx} {rest : List RecIx} {r : AxleRecord}
    (h : EmissionMatches s) (hp : s.rsp.spool = i :: rest) (hr : s.art.get i = some r) :
    (s.headEmission i r).partCount = partCountOf (recordBytes i r.reported).length := by
  unfold State.headEmission
  split
  · next e he =>
    obtain ⟨j, more, x, hspool, hx, hcount, -⟩ := h e he
    rw [hp] at hspool
    cases hspool
    rw [hr] at hx
    cases hx
    exact hcount
  · rfl

theorem emissionMatches_of_none {t : State} (h : t.rsp.emission = none) : EmissionMatches t := fun e he => by
  rw [h] at he; cases he

theorem EmissionMatches.of_spool {s t : State} (h : EmissionMatches s) (hs : SpoolMatches s) (hp : t.rsp.emission = s.rsp.emission)
    (hq : t.rsp.spool = s.rsp.spool) (ha : QueuedKept s t) : EmissionMatches t :=
  h.of_head hs hp ⟨[], by rw [hq, List.append_nil]⟩ ha

theorem BookStep.emission {c : Instr} {s t : State} (h : BookStep c s t) (hs : SpoolMatches s) (he : EmissionMatches s) :
    EmissionMatches t := by
  cases h with
  | kept h => exact he.of_spool hs (by rw [h.rsp]) (by rw [h.rsp]) (.of_same h.art)
  | written i r x hr ho hx hk =>
    exact he.of_spool hs rfl rfl (.of_set rfl (by rw [recState_of_get hr]; simp [ho]))
  | closed i r hr ho =>
    obtain ⟨v, ha⟩ := finalize_art i r s
    exact he.of_head hs rfl ⟨[i], rfl⟩ (.of_set ha (by rw [recState_of_get hr]; simp [ho]))
  | opened i r hi ho hv =>
    exact he.of_spool hs rfl rfl (.of_set rfl (by rw [recState_of_get hi]; simp))
  | slot k x hx hk => exact he.of_spool hs rfl rfl (.of_same rfl)
  | numbered n => exact he.of_spool hs rfl rfl (.of_same rfl)
  | part i rest r hp hr hn =>
    intro e h
    cases h
    exact ⟨i, rest, r, hp, hr, he.headEmission_partCount hp hr, Nat.le_add_left 1 _, hn⟩
  | sent i rest r hp hr => exact emissionMatches_of_none rfl
  | released hc i r hr hsent =>
    exact he.of_spool hs rfl rfl (.of_set rfl (by rw [recState_of_get hr]; simp [hsent]))
  | cleared hc ha hk hp h => exact emissionMatches_of_none h

/-- Settles O6: each of the invariants is kept by every change of the books, the pins and the emission by way of the spool. -/
theorem stepKeepsRecordTable : Obligations.StepKeepsRecordTable := by
  intro s t h
  obtain rfl | ⟨c, rest, -, ho⟩ := step_next h
  · exact ⟨fun hs hp => ⟨hs, hp⟩, id, fun _ he => he⟩
  have hbooks := ho.books
  refine ⟨fun hs hp => ?_, fun hv => ?_, fun hs he => ?_⟩
  · exact hbooks.keeps (P := fun u => SpoolMatches u ∧ PinsMatch u) (fun h hu => ⟨h.spool hu.1, h.pins hu.1 hu.2⟩) ⟨hs, hp⟩
  · exact hbooks.keeps (P := PinnedValid) BookStep.pinnedValid hv
  · exact (hbooks.keeps (P := fun u => SpoolMatches u ∧ EmissionMatches u)
      (fun h hu => ⟨h.spool hu.1, h.emission hu.1 hu.2⟩) ⟨hs, he⟩).2

/-! ### Frozen records -/

/-- Record i holds content x, or x as its report carries it once x was QUEUED. -/
def State.holdsFrozen (i : RecIx) (x : AxleRecord) (s : State) : Prop :=
  s.art.get i = some x ∨ (x.state = .queued ∧ s.art.get i = some x.reported)

/-- A record that is not OPEN is QUEUED, or as its report carries it. -/
theorem AxleRecord.reported_of_closed (r : AxleRecord) (ho : r.state ≠ .opened) : r.state = .queued ∨ r.reported = r := by
  unfold AxleRecord.reported
  cases h : r.state with
  | opened => exact absurd h ho
  | queued => exact .inl rfl
  | sent => exact .inr (by rw [← h])

/-- A record that is not OPEN keeps its content, and becomes SENT at most. -/
theorem BookStep.art_frozen {c : Instr} {s t : State} {i : RecIx} {x : AxleRecord} (h : BookStep c s t) (hc : ¬ FreesRecords c)
    (hx : s.art.get i = some x) (ho : x.state ≠ .opened) : t.holdsFrozen i x := by
  have hclosed {j : RecIx} {r : AxleRecord} (hr : s.art.get j = some r) (hj : r.state = .opened) : s.art.get j ≠ some x :=
    fun h => ho (by rw [← Option.some.inj (hr.symm.trans h), hj])
  cases h with
  | kept h => exact .inl (by rw [h.art, hx])
  | written j r y hr hj hy hk => exact .inl (art_set_keeps hx (hclosed hr hj))
  | closed j r hr hj =>
    obtain ⟨v, ha⟩ := finalize_art j r s
    exact .inl (by rw [ha]; exact art_set_keeps hx (hclosed hr hj))
  | opened j r hj hr hv => exact .inl (art_set_keeps hx (by rw [hj]; exact nofun))
  | slot | numbered | part => exact .inl hx
  | sent j rest r hp hr =>
    by_cases hj : j = i
    · subst hj
      cases hr.symm.trans hx
      have ha : (recordSent j x s).art.get j = some x.reported := (get_set_art _ _ _ _).trans (if_pos rfl)
      obtain hq | hsent := x.reported_of_closed ho
      · exact .inr ⟨hq, ha⟩
      · exact .inl (hsent ▸ ha)
    · exact .inl (((get_set_art _ _ _ _).trans (if_neg hj)).trans hx)
  | released hr => exact absurd (.inl hr) hc
  | cleared hr => exact absurd (.inr hr) hc

theorem BookStep.frozen {c : Instr} {s t : State} {i : RecIx} {x : AxleRecord} (h : BookStep c s t) (hc : ¬ FreesRecords c)
    (ho : x.state ≠ .opened) (hs : s.holdsFrozen i x) : t.holdsFrozen i x := by
  obtain hx | ⟨hq, hx⟩ := hs
  · exact h.art_frozen hc hx ho
  · obtain ht | ⟨hsent, -⟩ := h.art_frozen hc hx nofun
    · exact .inr ⟨hq, ht⟩
    · cases hsent

/-- Settles O12: a change of the books that frees no record leaves one that is not OPEN, or makes it SENT. -/
theorem recordsFrozen : Obligations.RecordsFrozen := by
  intro c s t h hc i x hx ho
  exact (exec_next h).books.keeps (P := State.holdsFrozen i x) (fun h => h.frozen hc ho) (.inl hx)

end Sys2Proof.Machine
end

section
/-! Requests on the recipe bank: the read-outs (O26), RECIPE_PAGE (O31), RECIPE_COMMIT (O32) and RECIPE_ERASE (O33). -/

namespace Sys2Proof.Machine

/-! ### A slot that takes a page -/

section
variable {x : Slot} {n i j : Nat} {page : Bytes}

theorem Slot.openLoad_of_loading (h : x.state = .loading) : x.openLoad n = x := if_pos h

theorem Slot.openLoad_of_not_loading (h : x.state ≠ .loading) : x.openLoad n =
    { x with state := .loading, expected := some n, presence := 0, pages := [], recipe := none, failure := none } := if_neg h

theorem Slot.openLoad_state : (x.openLoad n).state = .loading := by
  by_cases h : x.state = .loading
  · rw [openLoad_of_loading h, h]
  · rw [openLoad_of_not_loading h]

theorem Slot.openLoad_expected (h : x.state = .loading → x.expected = some n) : (x.openLoad n).expected = some n := by
  by_cases hl : x.state = .loading
  · rw [openLoad_of_loading hl, h hl]
  · rw [openLoad_of_not_loading hl]

theorem Slot.openLoad_presence : (x.openLoad n).presence = if x.state = .loading then x.presence else 0 := by
  by_cases hl : x.state = .loading
  · rw [openLoad_of_loading hl, if_pos hl]
  · rw [openLoad_of_not_loading hl, if_neg hl]

theorem Slot.storePage_page_same : (x.storePage i page).page i = page := by
  have hold : (x.pages.filter fun p => p.1 != i).find? (fun p => p.1 == i) = none := by simp
  simp only [Slot.page, Slot.storePage, List.find?_append, hold]
  simp

theorem Slot.storePage_page_ne (h : j ≠ i) : (x.storePage i page).page j = x.page j := by
  have hfind : (x.storePage i page).pages.find? (fun p => p.1 == j) = x.pages.find? fun p => p.1 == j := by
    have hnew : [(i, page)].find? (fun p => p.1 == j) = none := by simp [h.symm]
    rw [Slot.storePage, List.find?_append, hnew, Option.or_none, List.find?_filter]
    congr 1
    funext p
    by_cases hp : p.1 = j
    · simp [hp, h]
    · simp [hp]
  simp only [Slot.page, hfind]

end

/-! ### Replies -/

section
variable {args : Bytes} {s : State} {k : SlotIx}

theorem doRecipePage_for (hk : slotArg args 0 = some k) (h1 : 1 ≤ byteAt args 2) (h8 : byteAt args 2 ≤ 8)
    (hi : byteAt args 1 < byteAt args 2) :
    doRecipePage args s =
      if 0 < (s.slot k).pins then .refuse s .pinned
      else if (s.slot k).state = .loading ∧ (s.slot k).expected ≠ some (byteAt args 2) then .refuse s .badArg
      else
        let x := ((s.slot k).openLoad (byteAt args 2)).storePage (byteAt args 1) (args.drop 4)
        .ok (s.setSlot k x) [Config.slotStateCode .loading, BitVec.ofNat 8 x.expectedOr0, x.presence] := by
  have hn : within 1 8 (byteAt args 2) ≠ false := by simp [within, h1, h8]
  simp only [doRecipePage, hk, if_neg hn, if_neg hi.not_ge, leBytes_one, BitVec.ofNat_toNat, BitVec.setWidth_eq,
    List.cons_append, List.nil_append]

theorem Slot.pagesHere_iff {x : Slot} :
    x.pagesHere = true ↔ ∀ i : Nat, i < x.expected.getD 0 → x.presence.getLsbD i = true := by
  simp [Slot.pagesHere, Slot.expectedOr0]

theorem Slot.commit_of_passed {x : Slot} (h : validationFault x.image x.expectedOr0 = none) :
    x.commit = { x with state := .valid, recipe := some (decodeRecipe x.image), failure := none, pages := [] } := by
  simp only [Slot.commit, h]

theorem Slot.commit_of_failed {x : Slot} {f : Reason × Nat} (h : validationFault x.image x.expectedOr0 = some f) :
    x.commit = { x with state := .invalid, recipe := none, failure := some f, pages := [] } := by
  simp only [Slot.commit, h]

theorem doRecipeCommit_for (hk : slotArg args 0 = some k) :
    doRecipeCommit args s =
      if (s.slot k).state ≠ .loading then .refuse s .wrongState
      else if (s.slot k).pagesHere then
        .ok (s.setSlot k (s.slot k).commit)
          (Config.slotStateCode (s.slot k).commit.state :: failureBytes (s.slot k).commit.failure)
      else { state := s, status := .pagesMissing, results := [(s.slot k).presence] } := by
  simp only [doRecipeCommit, hk, leBytes_one, BitVec.ofNat_toNat, BitVec.setWidth_eq]

theorem doRecipeCommit_out_of_range (h : 6 ≤ byteAt args 0) : doRecipeCommit args s = .refuse s .badArg := by
  simp only [doRecipeCommit, slotArg_none.mpr h]

theorem doRecipeErase_for (hk : slotArg args 0 = some k) :
    doRecipeErase args s = if 0 < (s.slot k).pins then .refuse s .pinned else .ok (s.setSlot k .reset) [] := by
  simp only [doRecipeErase, hk]

theorem doRecipeErase_out_of_range (h : 6 ≤ byteAt args 0) : doRecipeErase args s = .refuse s .badArg := by
  simp only [doRecipeErase, slotArg_none.mpr h]

theorem doRecipeStatus_out_of_range (h : 6 ≤ byteAt args 0) : doRecipeStatus args s = .refuse s .badArg := by
  simp only [doRecipeStatus, slotArg_none.mpr h]

theorem doRecipeStatus_for (hk : slotArg args 0 = some k) :
    doRecipeStatus args s = .ok s
      ([Config.slotStateCode (s.slot k).state, BitVec.ofNat 8 (s.slot k).pins]
        ++ optBytes 1 ((s.slot k).expected.map (leBytes 1)) ++ [(s.slot k).presence]
        ++ failureBytes (s.slot k).failure
        ++ optBytes 18 ((s.slot k).recipe.map fun r => padText 16 r.name ++ leBytes 2 r.version)
        ++ optBytes 4 ((s.slot k).recipe.map fun r =>
            [BitVec.ofNat 8 r.steps.length, BitVec.ofNat 8 r.lines.length, BitVec.ofNat 8 r.cavities.length,
             BitVec.ofNat 8 r.measureCount])) := by
  simp only [doRecipeStatus, hk, leBytes_one, BitVec.ofNat_toNat, BitVec.setWidth_eq, List.cons_append, List.nil_append]

/-- The cell alarm flags with COUNTER_ALARM fit in the five low bits of a byte. -/
theorem cellAlarmByte_toNat (s : State) :
    (cellAlarmByte s).toNat = s.mga.alarms.toNat + if counterAlarm s then 16 else 0 := by
  have hlt := s.mga.alarms.isLt
  unfold cellAlarmByte flagBit
  rw [BitVec.toNat_ofNat]
  split <;> omega

theorem doIdentify_reply (args : Bytes) (s : State) : doIdentify args s = .ok s
    ([0x31, 0x05, 0x04, 0x0A, 1, s.lfe.nodeAddr.zeroExtend 8] ++ leBytes 8 Config.unitNumber.toNat
      ++ [4, 64, 8, 6, 12, 8]) := by
  have haddr : leBytes 1 s.lfe.nodeAddr.toNat = [s.lfe.nodeAddr.zeroExtend 8] := by
    rw [leBytes_one, BitVec.ofNat_toNat]
  rw [doIdentify, haddr]
  rfl

theorem doReadCellParams_reply (args : Bytes) (s : State) : doReadCellParams args s = .ok s
    ([BitVec.ofNat 8 s.mga.params.linkLossTimeout, BitVec.ofNat 8 s.mga.params.staleLimit,
      BitVec.ofNat 8 s.mga.params.qualityStopLimit, BitVec.ofNat 8 s.mga.params.demandThreshold]
      ++ leBytes 4 s.mga.params.stopTimeout ++ leBytes 2 s.mga.params.statusOffset
      ++ [BitVec.ofNat 8 (linkStateCode s.lfe.link), s.lfe.nodeAddr.zeroExtend 8]
      ++ leBytes 2 (s.mga.alarms.toNat + if counterAlarm s then 16 else 0)
      ++ leBytes 4 s.tbs.cellTime.toNat) := by
  simp only [doReadCellParams, cellAlarmByte_toNat, leBytes_one, BitVec.ofNat_toNat, List.append_assoc, List.cons_append,
    List.nil_append]

end

/-! ### The statements -/

/-- Settles O26: each of the three replies leaves the state and spells the fields. -/
theorem partAndSlotReadOut : Obligations.PartAndSlotReadOut := by
  intro q s
  refine ⟨fun h => exec_replied h (doIdentify_reply (reqArgs q.payload) _), fun h => exec_replied h (doReadCellParams_reply (reqArgs q.payload) _),
    fun h hout => exec_replied h (doRecipeStatus_out_of_range hout), fun k h => ?_⟩
  obtain ⟨htaken, hk⟩ := h
  exact exec_replied htaken (doRecipeStatus_for hk)

/-- Settles O33: an erased slot has its power-on values. -/
theorem recipeErased : Obligations.RecipeErased := by
  intro q s
  refine ⟨fun h hout => exec_replied h (doRecipeErase_out_of_range hout), fun k h => ?_⟩
  obtain ⟨htaken, hk⟩ := h
  have hreply := doRecipeErase_for (s := s.popRequest) hk
  split
  · next hp => exact exec_replied htaken (hreply.trans (if_pos hp))
  · next hp => exact exec_replied htaken (hreply.trans (if_neg hp))

/-- Settles O31: the stored page goes into the slot as a load of n pages opens or continues it. -/
theorem recipePageStored : Obligations.RecipePageStored := by
  intro q k i n s h hi hn h1 h8 hlt
  subst hi hn
  obtain ⟨htaken, hk⟩ := h
  have hreply := doRecipePage_for (s := s.popRequest) hk h1 h8 hlt
  rw [State.popRequest_slot] at hreply
  refine ⟨fun hp => ?_, fun hp hl hx => ?_, fun hp hx => ?_⟩
  · exact exec_replied htaken (hreply.trans (if_pos hp))
  · rw [if_neg hp.not_gt, if_pos ⟨hl, hx⟩] at hreply
    exact exec_replied htaken hreply
  rw [if_neg hp.not_gt, if_neg fun h => h.2 (hx h.1)] at hreply
  dsimp only at hreply
  generalize hpage : (reqArgs q.payload).drop 4 = page at hreply ⊢
  generalize byteAt (reqArgs q.payload) 1 = i at hreply ⊢
  generalize byteAt (reqArgs q.payload) 2 = n at hx hreply ⊢
  have hexpected : (((s.slot k).openLoad n).storePage i page).expected = some n := Slot.openLoad_expected hx
  refine ⟨((s.slot k).openLoad n).storePage i page, ?_, Slot.openLoad_state, hexpected, ?_, ?_, Slot.storePage_page_same,
    fun hl j hj => ?_, fun hl => ?_⟩
  · rw [Slot.expectedOr0, hexpected] at hreply
    exact exec_replied htaken hreply
  · exact (Slot.openLoad_pins n _).trans hp
  · exact congrArg (· ||| _) Slot.openLoad_presence
  · rw [Slot.storePage_page_ne hj, Slot.openLoad_of_loading hl]
  · rw [Slot.openLoad_of_not_loading hl]
    exact ⟨rfl, rfl⟩

/-- Settles O32: a commit is decided by validation of the image, which fails as the stages say and otherwise decodes it. -/
theorem recipeCommitted : Obligations.RecipeCommitted := by
  intro q k img s h himg
  obtain ⟨htaken, hk⟩ := h
  have hreply := doRecipeCommit_for (s := s.popRequest) hk
  rw [State.popRequest_slot] at hreply
  refine ⟨fun hl => exec_replied htaken (hreply.trans (if_pos hl)), fun hl hmiss => ?missing, fun hl hall => ?complete⟩
  case missing =>
    have hhere : ¬ (s.slot k).pagesHere = true := by
      obtain ⟨i, hi, hbit⟩ := hmiss
      intro hp
      rw [Slot.pagesHere_iff.mp hp i hi] at hbit
      cases hbit
    rw [if_neg (not_not.mpr hl), if_neg hhere] at hreply
    exact exec_replied htaken hreply
  case complete =>
    rw [if_neg (not_not.mpr hl), if_pos (Slot.pagesHere_iff.mpr hall)] at hreply
    change img = (s.slot k).image at himg
    subst himg
    refine ⟨fun hsound => ?_, fun why item hfails => ?_⟩
    · have hpassed : validationFault (s.slot k).image (s.slot k).expectedOr0 = none := (validation_none _ _).mpr hsound
      rw [Slot.commit_of_passed hpassed] at hreply
      exact ⟨decodeRecipe (s.slot k).image, image_decoded hpassed, exec_replied htaken hreply⟩
    · have hfault : validationFault (s.slot k).image (s.slot k).expectedOr0 = some (why, item) :=
        (validation_fault _ _ _ _).mpr hfails
      rw [Slot.commit_of_failed hfault] at hreply
      exact exec_replied htaken hreply

end Sys2Proof.Machine
end

section
/-! What commands do to the recipe slots. `SlotMade c x y` lists what a command makes of a slot, each change with the condition
under which the model makes it; every command makes one of them of each slot. The invariant O9 and the rule O13 are then read
off the list. -/

namespace Sys2Proof.Machine

/-! ### Slots but for their pins -/

/-- A slot but for its pin count. -/
def Slot.content (x : Slot) : Slot := { x with pins := 0 }

/-- No slot differs but in its pin count. -/
def SlotsKept (s t : State) : Prop := ∀ k : SlotIx, (t.slot k).content = (s.slot k).content

theorem SlotsKept.trans {s t u : State} (h : SlotsKept s t) (g : SlotsKept t u) : SlotsKept s u := fun k => (g k).trans (h k)

theorem SlotsKept.of_eq {s t : State} (h : t.rbk = s.rbk) : SlotsKept s t := fun k => by rw [State.slot, h]; rfl

theorem SlotsKept.refl (s : State) : SlotsKept s s := .of_eq rfl

theorem BayWork.slotsKept {B : Bay → Prop} {s t : State} (h : BayWork B s t) : SlotsKept s t := h.slot

theorem Deeds.slotsKept {s t : State} (h : Deeds s t) : SlotsKept s t := by
  refine h.keeps (P := SlotsKept) .refl .trans fun hd => ?_
  obtain hw | ho := hd.work
  · exact hw.slotsKept
  · exact .of_eq ho.rbk

theorem openTest_slotsKept (b : Bay) (k : SlotIx) (r : Recipe) (serial : Bytes) (i : RecIx) (roles : List (Role × EntryIx))
    (s : State) : SlotsKept s (openTest b k r serial i roles s) := by
  intro j
  have hslot : (openTest b k r serial i roles s).slot j = (s.pin k).rbk.get j := rfl
  rw [hslot, State.pin_slot]
  rfl

theorem insertReportPart_slotsKept (s : State) : SlotsKept s (insertReportPart s) := by
  unfold insertReportPart
  split
  · exact .refl s
  split
  · exact .refl s
  split
  · dsimp only
    split <;> exact .of_eq rfl
  · exact .refl s

theorem resetPart_slot (s : State) (k : SlotIx) : s.resetPart.slot k = (s.slot k).resetPart := by
  simp [State.slot, State.resetPart, Vector.get_eq_getElem]

/-! ### What a command makes of a slot -/

/-- What a command makes of a recipe slot (R41 to R45, R53, R54, R56). -/
inductive SlotMade (c : Instr) (x : Slot) : Slot → Prop where
  | kept {y : Slot} (h : y.content = x.content) : SlotMade c x y
  | paged (n i : Nat) (page : Bytes) (hp : x.pins = 0) : SlotMade c x ((x.openLoad n).storePage i page)
  | committed (hl : x.state = .loading) : SlotMade c x x.commit
  | erased (hp : x.pins = 0) : SlotMade c x .reset
  | resetPart : SlotMade c x x.resetPart
  | powerOn (strap : BitVec 6) (hc : c = .powerOn strap) : SlotMade c x .reset

/-- A written slot is what a command makes of it, and the others are as they were. -/
theorem setSlot_made {c : Instr} {s : State} {k : SlotIx} {x : Slot} (h : SlotMade c (s.slot k) x) (j : SlotIx) :
    SlotMade c (s.slot j) ((s.setSlot k x).slot j) := by
  rw [show (s.setSlot k x).slot j = _ from s.setSlot_get k j x]
  split
  · next hk => exact hk ▸ h
  · exact .kept rfl

section
variable (args : Bytes) (s : State) (k : SlotIx)

theorem doRecipePage_made : SlotMade .recipePage (s.slot k) ((doRecipePage args s).state.slot k) := by
  unfold doRecipePage
  split
  · exact .kept rfl
  dsimp only
  split
  · exact .kept rfl
  split
  · exact .kept rfl
  split
  · exact .kept rfl
  next hp =>
  split
  · exact .kept rfl
  · exact setSlot_made (.paged _ _ _ (Nat.eq_zero_of_not_pos hp)) k

theorem doRecipeCommit_made : SlotMade .recipeCommit (s.slot k) ((doRecipeCommit args s).state.slot k) := by
  cases hk : slotArg args 0 with
  | none =>
    rw [doRecipeCommit_out_of_range (slotArg_none.mp hk)]
    exact .kept rfl
  | some j =>
    rw [doRecipeCommit_for hk]
    split
    · exact .kept rfl
    next hl =>
    split
    · exact setSlot_made (.committed (not_not.mp hl)) k
    · exact .kept rfl

theorem doRecipeErase_made : SlotMade .recipeErase (s.slot k) ((doRecipeErase args s).state.slot k) := by
  cases hk : slotArg args 0 with
  | none =>
    rw [doRecipeErase_out_of_range (slotArg_none.mp hk)]
    exact .kept rfl
  | some j =>
    rw [doRecipeErase_for hk]
    split
    · exact .kept rfl
    · next hp => exact setSlot_made (.erased (Nat.eq_zero_of_not_pos hp)) k

end

/-! ### Commands on other parts of the state -/

section
variable (args : Bytes) (s : State)

theorem withBay_slotsKept {f : Bay → Reply} (h : ∀ b, SlotsKept s (f b).state) : SlotsKept s (withBay args s f).state := by
  unfold withBay
  split
  · exact h _
  · exact .refl s

theorem startBay_slotsKept (b : Bay) (k : SlotIx) (serial : Bytes) : SlotsKept s (startBay b k serial s).state := by
  unfold startBay
  repeat' split
  case h_2 => exact openTest_slotsKept b k _ serial _ _ s
  all_goals exact .refl s

theorem doBayStart_slotsKept : SlotsKept s (doBayStart args s).state := by
  unfold doBayStart
  split
  · exact startBay_slotsKept s _ _ _
  · exact .refl s

theorem abortRequest_slotsKept (b : Bay) : SlotsKept s (abortRequest b s).state := by
  unfold abortRequest
  split
  · next h => rw [Reply.ok_state]; exact (abortReady_deeds b s _ h).slotsKept
  · next h => rw [Reply.ok_state]; exact (abortBay_deeds b s _ h).slotsKept
  all_goals exact .refl s

theorem unloadRequest_slotsKept (b : Bay) : SlotsKept s (unloadRequest b s).state := by
  unfold unloadRequest
  split <;> exact .of_eq rfl

theorem unlockRequest_slotsKept (b : Bay) : SlotsKept s (unlockRequest b s).state := by
  unfold unlockRequest
  split <;> exact .of_eq rfl

/-- A management command that is none of RECIPE_PAGE, RECIPE_COMMIT and RECIPE_ERASE keeps the slots but for their pins. -/
theorem body_slotsKept {m : Command} (hpage : m ≠ .recipePage) (hcommit : m ≠ .recipeCommit) (herase : m ≠ .recipeErase) :
    SlotsKept s (m.body args s).state := by
  cases m with
  | recipePage => exact absurd rfl hpage
  | recipeCommit => exact absurd rfl hcommit
  | recipeErase => exact absurd rfl herase
  | identify | readCellParams | resetPart => exact .of_eq rfl
  | bayStart => exact doBayStart_slotsKept args s
  | bayAbort => exact withBay_slotsKept args s fun b => abortRequest_slotsKept s b
  | bayUnload => exact withBay_slotsKept args s fun b => unloadRequest_slotsKept s b
  | bayLock => exact withBay_slotsKept args s fun b => .of_eq rfl
  | bayUnlock => exact withBay_slotsKept args s fun b => unlockRequest_slotsKept s b
  | readBay => exact withBay_slotsKept args s fun b => .of_eq rfl
  | setCellParams | loadChannelMap | loadOutputMap | readChannel | recipeStatus | ackAlarms | readRecord | releaseRecord
  | counterSetup | counterSnapshot =>
    simp only [Command.body, doSetCellParams, doLoadChannelMap, doLoadOutputMap, doReadChannel, doRecipeStatus, doAckAlarms,
      doReadRecord, doReleaseRecord, doCounterSetup, doCounterSnapshot]
    repeat' split
    all_goals exact .of_eq rfl

/-- What a management command makes of each slot. -/
theorem body_made (m : Command) (k : SlotIx) : SlotMade m.instr (s.slot k) ((m.body args s).state.slot k) := by
  cases m with
  | recipePage => exact doRecipePage_made args s k
  | recipeCommit => exact doRecipeCommit_made args s k
  | recipeErase => exact doRecipeErase_made args s k
  | _ => exact .kept (body_slotsKept args s (by nofun) (by nofun) (by nofun) k)

end

/-! ### Every command -/

theorem serve_made (m : Command) (s : State) (k : SlotIx) : SlotMade m.instr (s.slot k) ((serve m m.body s).slot k) := by
  obtain h | ⟨q, -, h⟩ | ⟨q, -, h⟩ := serve_cases m m.body s
  · rw [h]; exact .kept rfl
  · rw [h]; exact .kept rfl
  · rw [h]; exact body_made (reqArgs q.payload) s.popRequest m k

/-- What a command makes of each slot. -/
theorem exec_made {c : Instr} {s t : State} (h : exec c s = .next t) (k : SlotIx) : SlotMade c (s.slot k) (t.slot k) := by
  cases exec_next h with
  | deeds _ hd => exact .kept (hd.slotsKept k)
  | powerOn strap =>
    rw [show (powerOn strap s).slot k = Slot.reset from State.reset_slot k]
    exact .powerOn strap rfl
  | reset => rw [resetPart_slot]; exact .resetPart
  | report => exact .kept (insertReportPart_slotsKept s k)
  | served m st rs hq hs =>
    rw [exec_instr, Host.Outcome.next.injEq] at h
    rw [← h]
    exact serve_made m s k

/-! ### A pinned slot -/

theorem SlotMade.content_of_pinned {c : Instr} {x y : Slot} (h : SlotMade c x y) (hc : ∀ strap, c ≠ .powerOn strap)
    (hp : 0 < x.pins) (hv : x.state = .valid) : y.content = x.content := by
  cases h with
  | kept h => exact h
  | paged n i page h0 => exact absurd h0 hp.ne'
  | committed hl => rw [hv] at hl; cases hl
  | erased h0 => exact absurd h0 hp.ne'
  | resetPart => simp only [Slot.resetPart, hv, Slot.content]
  | powerOn strap hs => exact absurd hs (hc strap)

/-- Settles O13: no change of a slot but power-on is made to the content of a pinned VALID slot. -/
theorem pinnedSlotKept : Obligations.PinnedSlotKept := by
  intro c s t h hc k hpins hvalid
  exact (exec_made h k).content_of_pinned hc hpins hvalid

/-! ### Validated recipes -/

/-- A VALID slot holds a validated recipe, and a slot in another state none (R41, R45, R53). -/
def Slot.recipeAgrees (x : Slot) : Prop :=
  (x.state = .valid → ∃ r : Recipe, x.recipe = some r ∧ r.checked) ∧ (x.state ≠ .valid → x.recipe = none)

theorem Slot.recipeAgrees_of_none {x : Slot} (hs : x.state ≠ .valid) (hr : x.recipe = none) : x.recipeAgrees :=
  ⟨fun h => absurd h hs, fun _ => hr⟩

theorem Slot.recipeAgrees_congr {x y : Slot} (h : y.content = x.content) (hx : x.recipeAgrees) : y.recipeAgrees := by
  have hstate : y.state = x.state := show y.content.state = x.content.state by rw [h]
  have hrecipe : y.recipe = x.recipe := show y.content.recipe = x.content.recipe by rw [h]
  unfold Slot.recipeAgrees
  rw [hstate, hrecipe]
  exact hx

/-- A load holds no recipe: it is opened without one, and one in progress has none. -/
theorem Slot.openLoad_recipe {x : Slot} (n : Nat) (hx : x.recipeAgrees) : (x.openLoad n).recipe = none := by
  by_cases hl : x.state = .loading
  · rw [openLoad_of_loading hl]
    exact hx.2 (by rw [hl]; exact nofun)
  · rw [openLoad_of_not_loading hl]

/-- A commit puts a recipe in the slot only when the image has passed validation. -/
theorem Slot.commit_recipeAgrees (x : Slot) : x.commit.recipeAgrees := by
  cases h : validationFault x.image x.expectedOr0 with
  | none =>
    rw [commit_of_passed h]
    exact ⟨fun _ => ⟨_, rfl, recipe_in_range h⟩, fun hs => absurd rfl hs⟩
  | some f =>
    rw [commit_of_failed h]
    exact recipeAgrees_of_none nofun rfl

theorem Slot.resetPart_recipeAgrees {x : Slot} (hx : x.recipeAgrees) : x.resetPart.recipeAgrees := by
  unfold Slot.resetPart
  split
  · exact recipeAgrees_of_none nofun rfl
  · exact recipeAgrees_of_none nofun rfl
  · exact recipeAgrees_congr rfl hx
  · exact recipeAgrees_congr rfl hx

theorem SlotMade.recipeAgrees {c : Instr} {x y : Slot} (h : SlotMade c x y) (hx : x.recipeAgrees) : y.recipeAgrees := by
  cases h with
  | kept h => exact Slot.recipeAgrees_congr h hx
  | paged n i page hp =>
    exact Slot.recipeAgrees_of_none (by rw [Slot.storePage, Slot.openLoad_state]; exact nofun) (Slot.openLoad_recipe n hx)
  | committed hl => exact x.commit_recipeAgrees
  | resetPart => exact Slot.resetPart_recipeAgrees hx
  | erased | powerOn => exact Slot.recipeAgrees_of_none nofun rfl

/-- Settles O9: what a command makes of a slot agrees with its recipe. -/
theorem stepKeepsRecipes : Obligations.StepKeepsRecipes := by
  intro s t hs h
  unfold step at h
  split at h
  · cases h; exact hs
  · exact fun k => (exec_made h k).recipeAgrees (hs k)

end Sys2Proof.Machine
end

section
/-! Requests on channels and maps: READ_CHANNEL (O30), LOAD_OUTPUT_MAP (O29) and LOAD_CHANNEL_MAP (O28). -/

namespace Sys2Proof.Machine

section
variable {args : Bytes} {s : State}

theorem rolesHeld_iff (s : State) : s.rolesHeld = true ↔ ∃ b : Bay, (s.bay b).ctl.roles ≠ [] := by
  unfold State.rolesHeld
  rw [List.any_eq_true]
  simp only [Bool.not_eq_true', List.isEmpty_eq_false_iff]
  exact ⟨fun ⟨b, _, hb⟩ => ⟨b, hb⟩, fun ⟨b, hb⟩ => ⟨b, mem_allBays b, hb⟩⟩

theorem rolesHeld_eq_false (h : ∀ b : Bay, (s.bay b).ctl.roles = []) : s.rolesHeld = false := by
  rw [← Bool.not_eq_true, rolesHeld_iff]
  exact fun ⟨b, hb⟩ => hb (h b)

/-! ### LOAD_OUTPUT_MAP -/

theorem flagOf_isSome_iff (n : Nat) : (flagOf n).isSome = true ↔ n ≤ 1 := by
  obtain _ | _ | n := n <;> simp [flagOf]

theorem flagOf_of_le {n : Nat} (h : n ≤ 1) : flagOf n = some (decide (n = 1)) := by
  obtain _ | _ | n := n
  · rfl
  · rfl
  · omega

theorem flagOf_getD (n : Nat) : (flagOf n).getD false = decide (n = 1) := by
  obtain _ | _ | n := n <;> simp [flagOf]

theorem placeArg_isSome_iff (b : Bay) : (placeArg args b).isSome = true ↔ byteAt args (4 * b.val) ≤ 1 := by
  rw [placeArg, Option.isSome_map, flagOf_isSome_iff]

theorem placesOf_get {b : Bay} (h : byteAt args (4 * b.val) ≤ 1) : (placesOf args).get b =
    { enabled := decide (byteAt args (4 * b.val) = 1), offset := natAt args (4 * b.val + 2) 2 } := by
  simp [placesOf, placeArg, flagOf_of_le h, Vector.get_eq_getElem]

theorem OutputPlace.apart_iff (p q : OutputPlace) : p.apart q = true ↔
    (p.enabled = true → q.enabled = true → p.offset + 12 ≤ q.offset ∨ q.offset + 12 ≤ p.offset) := by
  unfold OutputPlace.apart
  cases p.enabled <;> cases q.enabled <;> simp

theorem placesApart_iff (m : Vector OutputPlace 4) : placesApart m = true ↔ ∀ a b : Bay, a ≠ b →
    (m.get a).enabled = true → (m.get b).enabled = true →
      (m.get a).offset + 12 ≤ (m.get b).offset ∨ (m.get b).offset + 12 ≤ (m.get a).offset := by
  unfold placesApart
  simp only [List.all_eq_true, Bool.or_eq_true, beq_iff_eq, OutputPlace.apart_iff, or_iff_not_imp_left]
  exact ⟨fun h a b => h a (mem_allBays a) b (mem_allBays b), fun h a _ b _ => h a b⟩

/-- The checks of R71, place by place. -/
theorem placesOk_iff (args : Bytes) : placesOk args = true ↔
    (∀ b : Bay, byteAt args (4 * b.val) ≤ 1 ∧ natAt args (4 * b.val + 2) 2 ≤ 500)
      ∧ ∀ a b : Bay, a ≠ b → byteAt args (4 * a.val) = 1 → byteAt args (4 * b.val) = 1 →
        natAt args (4 * a.val + 2) 2 + 12 ≤ natAt args (4 * b.val + 2) 2
          ∨ natAt args (4 * b.val + 2) 2 + 12 ≤ natAt args (4 * a.val + 2) 2 := by
  have hall (f : Bay → Bool) : allBays.all f = true ↔ ∀ b, f b = true := by
    rw [List.all_eq_true]
    exact ⟨fun h b => h b (mem_allBays b), fun h b _ => h b⟩
  unfold placesOk
  rw [Bool.and_eq_true, Bool.and_eq_true, hall, hall, placesApart_iff]
  simp only [placeArg_isSome_iff, decide_eq_true_eq, and_assoc, forall_and]
  refine and_congr_right fun hen => ?_
  simp only [placesOf_get (hen _), decide_eq_true_eq]

/-! ### LOAD_CHANNEL_MAP -/

/-- The entry that an item leaves. -/
def MapItem.entry : MapItem → ChannelEntry
  | .clear => .cleared
  | .write e => e

theorem takeItem_get_same (c : Chx) (e : EntryIx) (x : MapItem) : (c.takeItem (e, x)).entries.get e = x.entry
    ∧ (c.takeItem (e, x)).latches.get e = .cleared := by
  constructor
  · cases x <;> simp [Chx.takeItem, Vector.get_eq_getElem, MapItem.entry]
  · simp [Chx.takeItem, Vector.get_eq_getElem]

theorem takeItem_get_ne (c : Chx) {x : EntryIx × MapItem} {e : EntryIx} (h : x.1 ≠ e) :
    (c.takeItem x).entries.get e = c.entries.get e ∧ (c.takeItem x).latches.get e = c.latches.get e := by
  have hne : x.1.val ≠ e.val := fun hc => h (Fin.ext hc)
  simp [Chx.takeItem, Vector.get_eq_getElem, hne]

theorem takeItems_get_absent {l : List (EntryIx × MapItem)} {e : EntryIx} (h : ∀ x ∈ l, x.1 ≠ e) (c : Chx) :
    (l.foldl Chx.takeItem c).entries.get e = c.entries.get e ∧ (l.foldl Chx.takeItem c).latches.get e = c.latches.get e := by
  induction l generalizing c with
  | nil => exact ⟨rfl, rfl⟩
  | cons x xs ih =>
    obtain ⟨he, hl⟩ := takeItem_get_ne c (h x List.mem_cons_self)
    obtain ⟨ihe, ihl⟩ := ih (fun y hy => h y (List.mem_cons_of_mem x hy)) (c.takeItem x)
    exact ⟨ihe.trans he, ihl.trans hl⟩

/-- Of a list that names each index once, every item stands as it was taken (R61). -/
theorem takeItems_get_present {l : List (EntryIx × MapItem)} (hl : (l.map (·.1)).Nodup) {e : EntryIx} {x : MapItem}
    (h : (e, x) ∈ l) (c : Chx) : (l.foldl Chx.takeItem c).entries.get e = x.entry
      ∧ (l.foldl Chx.takeItem c).latches.get e = .cleared := by
  induction l generalizing c with
  | nil => cases h
  | cons y ys ih =>
    obtain ⟨hy, hys⟩ := List.nodup_cons.mp hl
    obtain rfl | h := List.mem_cons.mp h
    · obtain ⟨he, hla⟩ := takeItem_get_same c e x
      obtain ⟨hre, hrl⟩ := takeItems_get_absent (fun z hz hc => hy (List.mem_map.mpr ⟨z, hz, hc⟩)) (c.takeItem (e, x))
      exact ⟨hre.trans he, hrl.trans hla⟩
    · exact ih hys h _

theorem readItem_index {it : Bytes} {e : EntryIx} {x : MapItem} (h : readItem it = some (e, x)) : byteAt it 0 = e.val := by
  unfold readItem at h
  split at h
  · cases h
  next i hi =>
  refine entryArg_eq.mp (hi.trans (congrArg some ?_))
  split at h
  · cases h; rfl
  · split at h
    · split at h
      · cases h; rfl
      · cases h
    · cases h
  · cases h

/-- What an item that writes fields leaves in its entry (R58, R175). -/
theorem readItem_write {it : Bytes} {e : EntryIx} {x : MapItem} (h : readItem it = some (e, x)) (hw : byteAt it 1 ≠ 0) :
    ∃ o r k, ownerOf (byteAt it 2) = some o ∧ roleOf (byteAt it 3) = some r ∧ kindOf (byteAt it 4) = some k
      ∧ x = .write (entryOf o r k it) := by
  unfold readItem at h
  split at h
  · cases h
  split at h
  · next h0 => exact absurd h0 hw
  · split at h
    · next o r k ho hr hk =>
      split at h
      · cases h; exact ⟨o, r, k, ho, hr, hk, rfl⟩
      · cases h
    · cases h
  · cases h

theorem readItem_clear {it : Bytes} {e : EntryIx} {x : MapItem} (h : readItem it = some (e, x)) (hw : byteAt it 1 = 0) :
    x = .clear := by
  unfold readItem at h
  split at h
  · cases h
  rw [hw] at h
  cases h
  rfl

/-- An item list in which no item fails checks 2 and 3 of R60. -/
structure ListRead (args : Bytes) : Prop where
  fresh : ∀ k, k < byteAt args 1 → ∀ j, j < k → byteAt (mapItem args j) 0 ≠ byteAt (mapItem args k) 0
  read : ∀ k, k < byteAt args 1 → (readItem (mapItem args k)).isSome = true

theorem listRead_of_mapFault (h : mapFault args = none) : ListRead args := by
  unfold mapFault at h
  dsimp only at h
  split at h
  · cases h
  split at h
  · cases h
  next h1 =>
  split at h
  · cases h
  next h2 =>
  exact ⟨(firstFailing_none fun k _ => freshIndex_iff args k).mp h1, (firstFailing_none fun _ _ => Iff.rfl).mp h2⟩

theorem mem_mapItems {x : EntryIx × MapItem} : x ∈ mapItems args ↔ ∃ i, i < byteAt args 1 ∧ readItem (mapItem args i) = some x := by
  unfold mapItems
  rw [List.mem_filterMap]
  simp only [List.mem_range]
  rfl

theorem ListRead.nodup (h : ListRead args) : ((mapItems args).map (·.1)).Nodup := by
  unfold mapItems
  rw [List.map_filterMap, List.Nodup, List.pairwise_filterMap]
  refine List.pairwise_lt_range.imp_of_mem fun {j k} _ hk hjk e he e' he' hee => ?_
  obtain ⟨⟨_, x⟩, hx, rfl⟩ := Option.map_eq_some_iff.mp he
  obtain ⟨⟨_, y⟩, hy, rfl⟩ := Option.map_eq_some_iff.mp he'
  cases hee
  exact h.fresh k (List.mem_range.mp hk) j hjk ((readItem_index hx).trans (readItem_index hy).symm)

theorem doLoadChannelMap_busy (h : s.rolesHeld = true) : doLoadChannelMap args s = .refuse s .busy := by
  simp [doLoadChannelMap, h]

theorem doLoadChannelMap_fault {i : Nat} (h : s.rolesHeld = false) (hf : mapFault args = some i) :
    doLoadChannelMap args s = { state := s, status := .badArg, results := [BitVec.ofNat 8 i] } := by
  simp only [doLoadChannelMap, h, hf]
  rfl

theorem doLoadChannelMap_loaded (h : s.rolesHeld = false) (hf : mapFault args = none) :
    doLoadChannelMap args s = .ok { s with chx :=
      { (mapItems args).foldl Chx.takeItem s.chx with partitions := BitVec.ofNat 4 (byteAt args 0) } } [] := by
  simp only [doLoadChannelMap, h, hf]
  rfl

theorem mapFails_le {i : Nat} (h : MapFails args i) : i ≤ 16 := by
  obtain ⟨_, rfl⟩ | ⟨hn, h⟩ := h
  · exact le_rfl
  · obtain h | ⟨_, h | ⟨_, h⟩⟩ := h <;> exact (h.1.le.trans hn)

end

/-! ### The statements -/

/-- Settles O30, with one reply for an index in range and one for an index beyond. -/
theorem channelRead : Obligations.ChannelRead := by
  intro q s h
  refine ⟨fun hi => exec_replied (r := .refuse s.popRequest .badArg) h ?_, fun i hi => ?_⟩
  · simp only [Command.body, doReadChannel, entryArg_none.mpr hi]
  · refine (exec_replied h rfl).trans (congrArg Host.Outcome.next ?_)
    simp only [Command.body, doReadChannel, entryArg_eq.mpr hi]
    rfl

/-- Settles O29, check by check in the order of R71. -/
theorem outputMapLoaded : Obligations.OutputMapLoaded := by
  intro q en off s h hen hoff
  obtain rfl : en = _ := funext hen
  obtain rfl : off = _ := funext hoff
  have hbody : Command.loadOutputMap.body (reqArgs q.payload) s.popRequest =
      if s.popRequest.rolesHeld then .refuse s.popRequest .busy
      else if placesOk (reqArgs q.payload) then
        .ok { s.popRequest with chx := { s.chx with outputMap := placesOf (reqArgs q.payload) } } []
      else .refuse s.popRequest .badArg := rfl
  split
  · next hr => exact exec_replied h (hbody.trans (if_pos ((rolesHeld_iff s).mpr hr)))
  next hr =>
  replace hbody := hbody.trans (if_neg fun hc => hr ((rolesHeld_iff s).mp hc))
  split
  · next hok =>
    have hplaces : placesOf (reqArgs q.payload) = Vector.ofFn fun b : Bay =>
        { enabled := decide (byteAt (reqArgs q.payload) (4 * b.val) = 1), offset := natAt (reqArgs q.payload) (4 * b.val + 2) 2 } := by
      refine Vector.ext fun i hi => ?_
      rw [Vector.getElem_ofFn]
      exact placesOf_get (b := ⟨i, hi⟩) (hok.1 ⟨i, hi⟩).1
    rw [← hplaces]
    exact exec_replied h (hbody.trans (if_pos ((placesOk_iff _).mpr hok)))
  · next hok => exact exec_replied h (hbody.trans (if_neg fun hc => hok ((placesOk_iff _).mp hc)))

/-- Settles O28: the first item that fails is named, and of a list without one each item is found as it was taken. -/
theorem channelMapLoaded : Obligations.ChannelMapLoaded := by
  rintro q _ s h rfl
  refine ⟨fun hr => exec_replied h (doLoadChannelMap_busy ((rolesHeld_iff _).mpr hr)), fun i hr hi => ⟨mapFails_le hi, ?_⟩,
    fun hr hi => ?_⟩
  · exact exec_replied h (doLoadChannelMap_fault (rolesHeld_eq_false hr) ((mapFault_some _ i).mpr hi))
  have hf := (mapFault_none _).mpr hi
  have hread := listRead_of_mapFault hf
  refine ⟨_, exec_replied h (doLoadChannelMap_loaded (rolesHeld_eq_false hr) hf), rfl, takeItems_outputMap _ _, fun e he => ?_,
    fun e i hn he => ?_⟩
  · refine takeItems_get_absent (fun x hx hc => ?_) s.chx
    obtain ⟨i, hn, hx⟩ := mem_mapItems.mp hx
    exact he i hn (hc ▸ readItem_index (x := x.2) hx)
  obtain ⟨⟨e', x⟩, hx⟩ := Option.isSome_iff_exists.mp (hread.read i hn)
  obtain rfl : e' = e := Fin.ext ((readItem_index hx).symm.trans he)
  obtain ⟨hentry, hlatch⟩ := takeItems_get_present hread.nodup (mem_mapItems.mpr ⟨i, hn, hx⟩) s.popRequest.chx
  refine ⟨hlatch, fun h0 => ?_, fun h0 => ?_⟩
  · exact hentry.trans (by rw [readItem_clear hx h0]; rfl)
  · obtain ⟨o, r, k, ho, hrole, hk, rfl⟩ := readItem_write hx h0
    dsimp only
    rw [hentry, ho, hrole, hk]
    refine ⟨rfl, rfl, rfl, rfl, rfl, rfl, fun ha => ?_, fun hv => ?_⟩
    · obtain rfl : k = .analog := Option.some.inj ha
      exact ⟨flagOf_getD _, rfl, rfl⟩
    · obtain rfl : k = .vib := Option.some.inj hv
      rfl

end Sys2Proof.Machine
end

section
/-! What the blocks' work on a frame leaves alone. `BlockWork s t` says that every bay keeps its resolved roles and its Speed
Unit but for the steady counter, and that no FRAME_ERROR has been counted. One lemma per operation says that the operation is
such work. -/

namespace Sys2Proof.Machine

/-- What the blocks leave of a bay. The steady counter is lost where a commanded speed goes to 0 (R84). -/
structure UnitKept (u v : BayUnit) : Prop where
  roles : v.ctl.roles = u.ctl.roles
  spu : ∃ n, v.spu = { u.spu with steadyCount := n }

/-- The blocks' work on a frame. -/
structure BlockWork (s t : State) : Prop where
  unit : ∀ b, UnitKept (s.bay b) (t.bay b)
  errors : EventKept .frameError s t

namespace UnitKept

theorem of_eq {u v : BayUnit} (hroles : v.ctl.roles = u.ctl.roles) (hspu : v.spu = u.spu) : UnitKept u v := ⟨hroles, _, hspu⟩

theorem refl (u : BayUnit) : UnitKept u u := of_eq rfl rfl

theorem trans {u v w : BayUnit} (h : UnitKept u v) (g : UnitKept v w) : UnitKept u w := by
  obtain ⟨n, hn⟩ := h.spu
  obtain ⟨m, hm⟩ := g.spu
  exact ⟨g.roles.trans h.roles, m, by rw [hm, hn]⟩

end UnitKept

namespace BlockWork

theorem refl (s : State) : BlockWork s s := ⟨fun _ => .refl _, .refl _ s⟩

theorem trans {s t u : State} (h : BlockWork s t) (g : BlockWork t u) : BlockWork s u :=
  ⟨fun b => (h.unit b).trans (g.unit b), h.errors.trans g.errors⟩

theorem ite {s t u : State} {c : Prop} [Decidable c] (h : BlockWork s t) (g : BlockWork s u) : BlockWork s (if c then t else u) := by
  split
  · exact h
  · exact g

theorem foldl {α : Type} (f : State → α → State) (h : ∀ s x, BlockWork s (f s x)) (l : List α) (s : State) :
    BlockWork s (l.foldl f s) := by
  induction l generalizing s with
  | nil => exact refl s
  | cons x xs ih => exact (h s x).trans (ih (f s x))

theorem of_bays {s t : State} (hb : t.bays = s.bays) (h : EventKept .frameError s t) : BlockWork s t :=
  ⟨fun b => by rw [s.bay_eq_of_bays hb]; exact .refl _, h⟩

end BlockWork

section
variable (b : Bay) (s : State)

/-! ### Elementary operations -/

theorem updBay_blockWork {f : BayUnit → BayUnit} (h : UnitKept (s.bay b) (f (s.bay b))) : BlockWork s (s.updBay b f) := by
  refine ⟨fun c => ?_, .of_stc rfl⟩
  rw [State.bay_updBay]
  split
  · next hbc => subst hbc; exact h
  · exact .refl _

theorem updRis_blockWork (f : Ris → Ris) : BlockWork s (s.updRis b f) := updBay_blockWork b s (.of_eq rfl rfl)

theorem updLtu_blockWork (f : Ltu → Ltu) : BlockWork s (s.updLtu b f) := updBay_blockWork b s (.of_eq rfl rfl)

theorem updCtl_blockWork (f : BayCtl → BayCtl) (h : ∀ c, (f c).roles = c.roles := by intro; rfl) : BlockWork s (s.updCtl b f) :=
  updBay_blockWork b s (.of_eq (h _) rfl)

theorem setWindow_blockWork (w : Option Window) : BlockWork s (s.setWindow b w) := updBay_blockWork b s (.of_eq rfl rfl)

theorem setOae_blockWork (o : Oae) : BlockWork s { s with oae := o } := .of_bays rfl (.of_stc rfl)

theorem latchAlarm_blockWork (a : BayAlarm) : BlockWork s (s.latchAlarm b a) := updCtl_blockWork b s _

theorem emit_blockWork {e : CounterEvt} (h : e.event ≠ .frameError) : BlockWork s (s.emit e) := .of_bays rfl (emit_kept s h)

theorem emitBay_blockWork {e : CounterEvent} (h : e ≠ .frameError) (x : Option ResultName) : BlockWork s (s.emitBay e b x) :=
  emit_blockWork s h

theorem writeBound_blockWork (f : AxleRecord → AxleRecord) : BlockWork s (s.writeBound b f) := by
  obtain ⟨a, ha⟩ := writeBound_frame s b f
  rw [ha]
  exact .of_bays rfl (.of_stc rfl)

theorem writeSummary_blockWork (f : Summary → Summary) : BlockWork s (s.writeSummary b f) := writeBound_blockWork b s _

theorem setCmdSpeed_blockWork (v : Nat) : BlockWork s (s.setCmdSpeed b v) := by
  rw [setCmdSpeed_eq]
  exact updBay_blockWork b s ⟨rfl, _, rfl⟩

/-! ### Lanes and windows -/

theorem grantLoop_blockWork (l : List LaneRequest) : BlockWork s (grantLoop l s) := by
  have hgrant (q : LaneRequest) (t : State) : BlockWork t (grantOne q t) := by
    unfold grantOne
    split
    · exact (((setOae_blockWork t _).trans (setWindow_blockWork _ _ _)).trans
        (updRis_blockWork _ _ _)).trans (emitBay_blockWork _ _ (by decide) _)
    · exact .refl t
  induction l generalizing s with
  | nil => exact setOae_blockWork s _
  | cons q rest ih => exact .ite ((hgrant q s).trans (ih _)) (setOae_blockWork s _)

theorem grantTest_blockWork : BlockWork s s.grantTest := grantLoop_blockWork s _

theorem postRequest_blockWork (n : Nat) : BlockWork s (postRequest b n s) :=
  .ite (.refl s) ((setOae_blockWork s _).trans (grantTest_blockWork _))

theorem dropWindow_blockWork : BlockWork s (dropWindow b s) := (setOae_blockWork s _).trans (setWindow_blockWork b _ none)

theorem releaseBay_blockWork : BlockWork s (releaseBay b s) := by
  unfold releaseBay
  have hdrop : BlockWork s (if ((s.bay b).window.isSome || s.holdsLanes b) = true then
      dropWindow b { s with oae := { s.oae with queue := s.oae.queue.filter fun q => q.bay != b } }
      else { s with oae := { s.oae with queue := s.oae.queue.filter fun q => q.bay != b } }) :=
    .ite ((setOae_blockWork s _).trans (dropWindow_blockWork b _)) (setOae_blockWork s _)
  exact (hdrop.trans (.ite (emitBay_blockWork b _ (by decide) _) (.refl _))).trans (.ite (grantTest_blockWork _) (.refl _))

theorem discardBlock_blockWork : BlockWork s (discardBlock b s) := by
  unfold discardBlock
  split
  · exact .refl s
  split
  · exact .refl s
  · exact (setWindow_blockWork b s _).trans (.ite (emitBay_blockWork b _ (by decide) _) (.refl _))

theorem windowFrame_blockWork : BlockWork s (windowFrame b s) := by
  unfold windowFrame
  split
  · exact (setWindow_blockWork b s _).trans (.ite (setWindow_blockWork b _ _) (discardBlock_blockWork b _))
  · exact .refl s

/-! ### Run-in Sequencer -/

theorem stepCompleted_blockWork : BlockWork s (stepCompleted b s) := writeSummary_blockWork b s _

theorem startRamp_blockWork (st : Step) : BlockWork s (startRamp b st s) := updRis_blockWork b s _

theorem rundownTest_blockWork : BlockWork s (rundownTest b s) := .ite (updRis_blockWork b s _) (.refl s)

theorem enterRundown_blockWork : BlockWork s (enterRundown b s) :=
  (updRis_blockWork b s _).trans (rundownTest_blockWork b _)

theorem enterSteps_blockWork (l : List Step) (i : Nat) : BlockWork s (enterSteps b l i s) := by
  induction l generalizing s i with
  | nil => exact enterRundown_blockWork b s
  | cons st rest ih =>
    refine (updRis_blockWork b s _).trans (.ite (updRis_blockWork b _ _) ?_)
    exact (startRamp_blockWork b _ st).trans (.ite ((stepCompleted_blockWork b _).trans (ih _ _)) (.refl _))

theorem finishStep_blockWork : BlockWork s (finishStep b s) := by
  unfold finishStep nextStep
  refine (stepCompleted_blockWork b s).trans ?_
  split
  · exact enterSteps_blockWork b _ _ _
  · exact .refl _

theorem beginRunin_blockWork : BlockWork s (beginRunin b s) :=
  ((setCmdSpeed_blockWork b s 0).trans (updRis_blockWork b _ _)).trans (enterSteps_blockWork b _ _ _)

theorem postAttempt_blockWork : BlockWork s (postAttempt b s) := by
  unfold postAttempt
  split
  · exact (updRis_blockWork b s _).trans (postRequest_blockWork b _ _)
  · exact .refl s

theorem endSettle_blockWork : BlockWork s (endSettle b s) := by
  unfold endSettle
  split
  · exact .ite ((updRis_blockWork b s _).trans (.ite (.refl _) (postAttempt_blockWork b _)))
      ((updRis_blockWork b s _).trans (.ite (finishStep_blockWork b _) (.refl _)))
  · exact .refl s

theorem offerNoiseEntry_blockWork (st : Step) (x : NoiseResult) (y : Option NomeasReason) (ls : List LineResult)
    (a : Option Bool) : BlockWork s (offerNoiseEntry b st x y ls a s) := writeBound_blockWork b s _

theorem actOnResult_blockWork (r : Recipe) (st : Step) (w : WindowResult) : BlockWork s (actOnResult b r st w s).state := by
  have hfinal (x y) (ls : List LineResult) (a) : BlockWork s (finishStep b (offerNoiseEntry b st x y ls a s)) :=
    (offerNoiseEntry_blockWork b s st x y ls a).trans (finishStep_blockWork b _)
  have hspend : BlockWork s (spendBudget b s) := updRis_blockWork b s _
  have hsettle (t : State) : BlockWork t (enterSettle b t) := updRis_blockWork b t _
  unfold actOnResult
  dsimp only
  split
  case h_1 => exact hfinal _ _ _ _
  case h_2 =>
    split
    · exact hspend.trans (.ite (hsettle _) (updRis_blockWork b _ _))
    · split
      · exact (offerNoiseEntry_blockWork b s st _ _ _ _).trans (stepCompleted_blockWork b _)
      · exact hfinal _ _ _ _
  case h_3 => split; exacts [hspend.trans (hsettle _), hfinal _ _ _ _]
  case h_4 => split; exacts [hspend.trans (hsettle _), hfinal _ _ _ _]

theorem takeResult_blockWork (w : WindowResult) : BlockWork s (takeResult b w s).state := by
  unfold takeResult
  dsimp only
  split
  · split
    · exact actOnResult_blockWork b s _ _ w
    · exact .refl s
  · exact .refl s

theorem stopRundown_blockWork : BlockWork s (stopRundown b s) :=
  (updRis_blockWork b s _).trans (rundownTest_blockWork b _)

theorem risAbort_blockWork : BlockWork s (risAbort b s) := by
  unfold risAbort
  refine .ite (.refl s) (.ite ?_ (stopRundown_blockWork b s))
  split
  · exact (offerNoiseEntry_blockWork b s _ _ _ _ _).trans (stopRundown_blockWork b _)
  · exact stopRundown_blockWork b s

/-! ### Leak Test Unit -/

theorem offerLeakEntry_blockWork (c : Cavity) (x : LeakResult) : BlockWork s (offerLeakEntry b c x s) := by
  unfold offerLeakEntry
  exact (writeBound_blockWork b s _).trans (updLtu_blockWork b _ _)

theorem incompleteEnd_blockWork (c : Cavity) : BlockWork s (incompleteEnd b c s) :=
  (emitBay_blockWork b s (by decide) _).trans (offerLeakEntry_blockWork b _ c _)

theorem grossEnd_blockWork (c : Cavity) : BlockWork s (grossEnd b c s) :=
  ((emitBay_blockWork b s (by decide) _).trans (offerLeakEntry_blockWork b _ c _)).trans (updLtu_blockWork b _ _)

theorem permitStart_blockWork : BlockWork s (permitStart b s) := .ite (updLtu_blockWork b s _) (.refl s)

theorem enterCavities_blockWork (l : List Cavity) (i : Nat) : BlockWork s (enterCavities b l i s) := by
  induction l generalizing s i with
  | nil => exact updLtu_blockWork b s _
  | cons c rest ih =>
    refine (updLtu_blockWork b s (Ltu.enterCavity c i)).trans (.ite (updLtu_blockWork b _ _) ?_)
    exact .ite ((incompleteEnd_blockWork b _ c).trans (ih _ _)) (.refl _)

theorem beginLeak_blockWork : BlockWork s (beginLeak b s) :=
  ((updLtu_blockWork b s _).trans (permitStart_blockWork b _)).trans (enterCavities_blockWork b _ _ _)

theorem leakFrame_blockWork (c : Cavity) : BlockWork s (leakFrame b c s) := by
  unfold leakFrame
  split
  · unfold coolTest
    split
    · exact .ite (updLtu_blockWork b s _) (.refl s)
    · exact .refl s
  · exact .ite (updLtu_blockWork b s _) (.refl s)
  · exact .ite (grossEnd_blockWork b s c) (.refl s)
  · exact .ite (grossEnd_blockWork b s c) (.refl s)
  all_goals exact .refl s

theorem ltuAbort_blockWork : BlockWork s (ltuAbort b s) := by
  unfold ltuAbort
  split
  case h_1 c _ =>
    have hend (f : Ltu → Ltu) : BlockWork s ((incompleteEnd b c s).updLtu b f) :=
      (incompleteEnd_blockWork b s c).trans (updLtu_blockWork b _ _)
    split
    case h_7 => exact .ite (.refl s) (offerLeakEntry_blockWork b s _ _)
    case h_1 | h_2 => exact .refl s
    all_goals exact hend _
  case h_2 => exact .refl s

/-! ### Bay Controller -/

theorem finalizedAt_blockWork : BlockWork s (s.finalizedAt b) := by
  unfold State.finalizedAt
  split
  · exact .of_bays rfl (.trans (.of_stc rfl) (emit_kept _ nofun))
  · exact .refl s

/-- Entry to COMPLETE keeps the roles and the Speed Unit (R16). -/
theorem enterComplete_blockWork : BlockWork s (enterComplete b s) := by
  have hjudged (limit : Nat) (v : Option Verdict) (c : BayCtl) : (c.judged limit v).roles = c.roles := by
    obtain ⟨n, a, l, h, -⟩ := c.judged_eq limit v
    rw [h]
  rw [enterComplete_eq]
  exact ((((finalizedAt_blockWork b s).trans (updCtl_blockWork b _ _)).trans (releaseBay_blockWork b _)).trans
    (updCtl_blockWork b _ _ (hjudged _ _))).trans (updBay_blockWork b _ (.of_eq rfl rfl))

theorem testStopped_blockWork : BlockWork s (testStopped b s) := .ite (enterComplete_blockWork b s) (.refl s)

theorem stopNormally_blockWork : BlockWork s (stopNormally b s) :=
  ((updCtl_blockWork b s _).trans (releaseBay_blockWork b _)).trans (testStopped_blockWork b _)

theorem earlyEnd_blockWork : BlockWork s (earlyEnd b s) :=
  .ite ((((updCtl_blockWork b s _).trans (releaseBay_blockWork b _)).trans (stopRundown_blockWork b _)).trans
    (testStopped_blockWork b _)) (.refl s)

theorem abortBay_blockWork (c : Cause) : BlockWork s (abortBay b c s) :=
  ((((((writeBound_blockWork b s _).trans (updCtl_blockWork b _ _)).trans
    (updCtl_blockWork b _ _)).trans (risAbort_blockWork b _)).trans (ltuAbort_blockWork b _)).trans
    (releaseBay_blockWork b _)).trans (testStopped_blockWork b _)

theorem raiseFault_blockWork (c : Cause) : BlockWork s (raiseFault b c s) := by
  have habort (t : State) : BlockWork t (if t.running b then abortBay b c t else t) := .ite (abortBay_blockWork b t c) (.refl t)
  unfold raiseFault
  split
  · exact (latchAlarm_blockWork b s _).trans (habort _)
  · exact habort s

theorem beginSubPhase_blockWork (p : SubPhase) : BlockWork s (beginSubPhase b p s) := by
  refine (updCtl_blockWork b s fun c => { c with subPhase := some p }).trans ?_
  cases p with
  | leakPre => exact beginLeak_blockWork b _
  | runin => exact beginRunin_blockWork b _
  | leakPost => exact beginLeak_blockWork b _

theorem runPlan_blockWork (l : List SubPhase) : BlockWork s (runPlan b l s) := by
  induction l generalizing s with
  | nil => exact stopNormally_blockWork b s
  | cons p rest ih => exact (beginSubPhase_blockWork b s p).trans (.ite (ih _) (.refl _))

theorem advance_blockWork : BlockWork s (advance b s) := .ite (runPlan_blockWork b s _) (.refl s)

theorem enterTest_blockWork : BlockWork s (enterTest b s) := by
  unfold enterTest
  split
  · exact .ite ((updCtl_blockWork b s _).trans (runPlan_blockWork b _ _)) (.refl s)
  · exact .refl s

theorem fixtureTest_blockWork (s0 : State) : BlockWork s (fixtureTest s0 b s) := by
  unfold fixtureTest
  split
  · exact .ite (raiseFault_blockWork b s _) (.refl s)
  · exact .refl s

theorem staleTest_blockWork (s0 : State) : BlockWork s (staleTest s0 b s) := .ite (raiseFault_blockWork b s _) (.refl s)

/-! ### Units on a frame -/

theorem actOnOil_blockWork (r : Recipe) (v : Int) : BlockWork s (actOnOil b r v s) := by
  refine .ite (raiseFault_blockWork b s _) (.ite (.ite (.ite ?_ (.refl s)) (.ite ?_ (.refl s)))
    (.ite (latchAlarm_blockWork b s _) (.refl s)))
  · exact (updRis_blockWork b s _).trans (.ite (postAttempt_blockWork b _) (.refl _))
  · exact (updRis_blockWork b s _).trans (latchAlarm_blockWork b _ _)

theorem oilFrame_blockWork : BlockWork s (oilFrame b s) := by
  unfold oilFrame
  split
  · exact .ite ((writeSummary_blockWork b s _).trans (actOnOil_blockWork b _ _ _)) (.refl s)
  · exact .refl s

theorem torqueFrame_blockWork : BlockWork s (torqueFrame b s) := by
  unfold torqueFrame
  split
  · exact .ite (((writeSummary_blockWork b s _).trans (updRis_blockWork b _ _)).trans
      (.ite (raiseFault_blockWork b _ _) (.refl _))) (.refl s)
  · exact .refl s

theorem risFrame_blockWork (x : Bool) : BlockWork s (risFrame b x s) := by
  have hsettle (t : State) : BlockWork t (settleFrame b t) :=
    .ite ((endSettle_blockWork b t).trans (advance_blockWork b _)) (.refl t)
  exact ((oilFrame_blockWork b s).trans (torqueFrame_blockWork b _)).trans (.ite (hsettle _) (.refl _))

theorem ltuFrame_blockWork : BlockWork s (ltuFrame b s) := by
  unfold ltuFrame
  refine .ite ((permitStart_blockWork b s).trans ?_) (.refl s)
  dsimp only
  split
  · exact .ite ((updLtu_blockWork b _ _).trans (raiseFault_blockWork b _ _))
      ((leakFrame_blockWork b _ _).trans (advance_blockWork b _))
  · exact .refl _

theorem closeWindow_blockWork : BlockWork s (closeWindow b s) := by
  unfold closeWindow
  split
  · exact ((((dropWindow_blockWork b s).trans (takeResult_blockWork b _ _)).trans (emitBay_blockWork b _ (by decide) _)).trans
      (grantTest_blockWork _)).trans (.ite (earlyEnd_blockWork b _) (advance_blockWork b _))
  · exact .refl s

theorem oaeFrame_blockWork : BlockWork s (oaeFrame b s) :=
  (windowFrame_blockWork b s).trans (.ite (closeWindow_blockWork b _) (.refl _))

end

/-! ### Frames and missing frames -/

theorem frameTask_blockWork (s0 : State) (x : FrameTask) (s : State) : BlockWork s (frameTask s0 x s) := by
  obtain ⟨b, u⟩ := x
  cases u with
  | enter => exact enterTest_blockWork b s
  | fixture => exact fixtureTest_blockWork b s s0
  | stale => exact staleTest_blockWork b s s0
  | ris => exact .ite (.refl s) (risFrame_blockWork b s _)
  | ltu => exact .ite (.refl s) (ltuFrame_blockWork b s)
  | oae => exact .ite (oaeFrame_blockWork b s) (.refl s)

theorem frameTasks_blockWork (s0 : State) (l : List FrameTask) (s : State) : BlockWork s (frameTasks s0 l s) :=
  .foldl _ (fun t x => frameTask_blockWork s0 x t) l s

theorem missingTask_blockWork (x : FrameTask) (s : State) : BlockWork s (missingTask x s) := by
  obtain ⟨b, u⟩ := x
  cases u with
  | stale => exact staleTest_blockWork b s s
  | oae => exact discardBlock_blockWork b s
  | enter | fixture | ris | ltu => exact .refl s

theorem missingFrames_blockWork (k : Nat) (l : List FrameTask) (s : State) : BlockWork s (missingFrames k l s) :=
  .trans (t := { s with chx := s.chx.missing k }) (.of_bays rfl (.of_stc rfl)) (.foldl _ (fun t x => missingTask_blockWork x t) _ _)

end Sys2Proof.Machine
end

section
/-! SAMPLE_FRAME with a good frame: acceptance (O18), refusal and resynchronization (O19). -/

namespace Sys2Proof.Machine

/-! ### The link takes the frame first (R161) -/

/-- The link state and the bays after a good SAMPLE frame (R161). -/
theorem goodFrame_sample (s : State) : goodFrame true s =
    { s with
      lfe := s.lfe.afterGood true
      bays := if s.lfe.link = .lost ∧ s.lfe.outputSeen = true then s.bays.map BayUnit.resynced else s.bays } := by
  unfold goodFrame Lfe.afterGood
  cases hl : s.lfe.link with
  | up => simp [Lfe.heard, hl]
  | down =>
    by_cases hs : s.lfe.outputSeen = true
    · simp [hs, Lfe.seen, Lfe.up]
    · simp [hs, hl, Lfe.seen]
  | lost =>
    by_cases hs : s.lfe.outputSeen = true
    · simp [hs, Lfe.seen, Lfe.up, resyncSpus_eq]
    · simp [hs, hl, Lfe.seen]

theorem afterGood_sample (l : Lfe) : l.afterGood true =
    if l.link = .up then { l with sampleQuiet := 0 }
    else if l.outputSeen = true then
      { l with link := .up, sampleSeen := true, outputSeen := true, sampleQuiet := 0, outputQuiet := 0 }
    else { l with sampleSeen := true } := rfl

theorem afterGood_sequence (l : Lfe) : (l.afterGood true).lastSeq = l.lastSeq ∧ (l.afterGood true).refusedRun = l.refusedRun := by
  rw [afterGood_sample]
  split
  · exact ⟨rfl, rfl⟩
  · split <;> exact ⟨rfl, rfl⟩

theorem afterGood_link {s : State} (h : s.testsSample) : (s.lfe.afterGood true).link ≠ .lost := by
  rw [afterGood_sample]
  split
  · next hu => rw [hu]; exact nofun
  · split
    · exact nofun
    · next ho => exact h.resolve_right ho

theorem goodFrame_untested {s : State} (h : ¬ s.testsSample) : goodFrame true s =
    { s with lfe := { s.lfe with sampleSeen := true } } := by
  obtain ⟨hl, ho⟩ := not_or.mp h
  rw [goodFrame_sample, if_neg fun hc => ho hc.2]
  simp [Lfe.afterGood, not_not.mp hl, ho]

/-! ### A Speed Unit with its ring cleared (R78) -/

/-- An active Speed Unit whose ring is cleared. -/
def Spu.cleared (p : Spu) : Prop := p.active = true ∧ p.params ≠ none ∧ p.ring = emptyRing ∧ p.newest = none

theorem resynced_cleared {u : BayUnit} (ha : u.spu.active = true) (hp : u.spu.params ≠ none) : u.resynced.spu.cleared := by
  rw [BayUnit.resynced, if_pos ha]
  exact ⟨ha, hp, rfl, rfl⟩

/-- The ring and the newest sequence of an active Speed Unit are settled by R77: nothing after it writes them. -/
theorem frame_ring (p : Spu) (seq : BitVec 16) (entry : Option TachoEntry) (running : Bool) (cmd : Nat) (ha : p.active = true)
    (hp : p.params ≠ none) : (p.frame seq entry running cmd).ring = (p.ringUpdate seq entry).ring
      ∧ (p.frame seq entry running cmd).newest = some seq := by
  have hedge (p : Spu) : (p.edgeSeen entry).ring = p.ring ∧ (p.edgeSeen entry).newest = p.newest := by
    unfold Spu.edgeSeen
    split
    · split <;> exact ⟨rfl, rfl⟩
    · exact ⟨rfl, rfl⟩
  have hspeed (q : SpuParams) (p : Spu) : (p.setSpeed q).ring = p.ring ∧ (p.setSpeed q).newest = p.newest := by
    unfold Spu.setSpeed
    split <;> exact ⟨rfl, rfl⟩
  have hdirection (p : Spu) : p.setDirection.ring = p.ring ∧ p.setDirection.newest = p.newest := by
    unfold Spu.setDirection
    split <;> exact ⟨rfl, rfl⟩
  have hsteady (q : SpuParams) (p : Spu) : (p.countSteady q running cmd).ring = p.ring
      ∧ (p.countSteady q running cmd).newest = p.newest := by
    unfold Spu.countSteady
    split <;> exact ⟨rfl, rfl⟩
  obtain ⟨q, hq⟩ := Option.ne_none_iff_exists'.mp hp
  unfold Spu.frame
  rw [ha, hq]
  dsimp only
  rw [(hsteady q _).1, (hdirection _).1, (hspeed q _).1, (hedge _).1, (hsteady q _).2, (hdirection _).2, (hspeed q _).2, (hedge _).2]
  exact ⟨rfl, rfl⟩

/-- A frame into a cleared ring stands in it alone. -/
theorem frame_of_cleared {p : Spu} (h : p.cleared) (seq : BitVec 16) (entry : Option TachoEntry) (running : Bool) (cmd : Nat) :
    (p.frame seq entry running cmd).ring = entry :: List.replicate 63 none ∧ (p.frame seq entry running cmd).newest = some seq := by
  obtain ⟨ha, hp, hring, hnewest⟩ := h
  obtain ⟨hframe, hseq⟩ := frame_ring p seq entry running cmd ha hp
  refine ⟨hframe.trans ?_, hseq⟩
  unfold Spu.ringUpdate
  rw [hring, hnewest]
  rfl

theorem UnitKept.cleared {u v : BayUnit} (h : UnitKept u v) (hu : u.spu.cleared) : v.spu.cleared := by
  obtain ⟨n, hn⟩ := h.spu
  rw [hn]
  exact hu

theorem resynced_bay {s t : State} (h : t.bays = s.bays.map BayUnit.resynced) (b : Bay) : t.bay b = (s.bay b).resynced := by
  simp [State.bay, h, Vector.get_eq_getElem]

/-! ### The tacho entry of a frame (R68, R77) -/

theorem tachoEntry_congr {s t : State} {b : Bay} (hr : (t.bay b).ctl.roles = (s.bay b).ctl.roles) (hc : t.chx = s.chx) :
    t.tachoEntry b = s.tachoEntry b := by
  unfold State.tachoEntry State.roleLatch State.roleEntry State.latch
  rw [hr, hc]

/-! ### The Speed Units take a frame -/

theorem overBays_spuFrame {l : List Bay} (hl : l.Nodup) (seq : BitVec 16) (b : Bay) (s : State) :
    (overBays (spuFrame seq) l s).bay b = if b ∈ l then
      { s.bay b with spu := (s.bay b).spu.frame seq (s.tachoEntry b) (s.running b) (s.bay b).ris.cmdSpeed } else s.bay b := by
  induction l generalizing s with
  | nil => rfl
  | cons c l ih =>
    obtain ⟨hc, hl⟩ := List.nodup_cons.mp hl
    refine (ih hl (spuFrame seq c s)).trans ?_
    by_cases hbc : c = b
    · subst hbc
      rw [if_neg hc, if_pos List.mem_cons_self]
      exact updSpu_bay c s _
    · have hb : (spuFrame seq c s).bay b = s.bay b := State.updSpu_ne s hbc _
      have hentry : (spuFrame seq c s).tachoEntry b = s.tachoEntry b := tachoEntry_congr (by rw [hb]) rfl
      have hrun : (spuFrame seq c s).running b = s.running b := by unfold State.running; rw [hb]
      rw [hb, hentry, hrun]
      simp only [List.mem_cons, Ne.symm hbc, false_or]

/-! ### An accepted frame -/

section
variable (f : Bytes) (tasks : List FrameTask) (s : State)

/-- What an accepted frame changes outside the bays' units (R62, R160). -/
theorem acceptFrame_work : BayWork anyBay
    { s with lfe := { s.lfe with lastSeq := some (frameSeq f), refusedRun := 0 }, chx := s.chx.extract (framePayload f) }
    (acceptFrame f tasks s) :=
  (BayWork.overBays _ (fun b t => (spuFrame_work (frameSeq f) b t).any) _ _).trans (frameTasks_work _ _ _)

/-- A bay after an accepted frame: its Speed Unit has taken the frame, and then the blocks have (R85). -/
theorem acceptFrame_unit (b : Bay) : UnitKept
    { s.bay b with spu :=
        (s.bay b).spu.frame (frameSeq f) ((acceptFrame f tasks s).tachoEntry b) (s.running b) (s.bay b).ris.cmdSpeed }
    ((acceptFrame f tasks s).bay b) := by
  obtain ⟨x, hx⟩ : ∃ x : State, x =
    { s with lfe := { s.lfe with lastSeq := some (frameSeq f), refusedRun := 0 }, chx := s.chx.extract (framePayload f) } := ⟨_, rfl⟩
  have hbay : x.bay b = s.bay b := by rw [hx]; rfl
  have htasks : UnitKept ((overBays (spuFrame (frameSeq f)) allBays x).bay b) ((acceptFrame f tasks s).bay b) := by
    rw [hx]
    exact (frameTasks_blockWork _ _ _).unit b
  rw [overBays_spuFrame (by decide), if_pos (mem_allBays b), show x.running b = s.running b by unfold State.running; rw [hbay],
    hbay] at htasks
  have hentry : (acceptFrame f tasks s).tachoEntry b = x.tachoEntry b :=
    tachoEntry_congr (htasks.roles.trans (by rw [hbay])) (by rw [hx, (acceptFrame_work f tasks s).chx])
  rw [hentry]
  exact htasks

theorem acceptFrame_errors : EventKept .frameError s (acceptFrame f tasks s) := by
  refine .trans ?_ (frameTasks_blockWork _ _ _).errors
  have hspu (l : List Bay) (t : State) : (overBays (spuFrame (frameSeq f)) l t).stc = t.stc := by
    induction l generalizing t with
    | nil => rfl
    | cons b l ih => exact (ih _).trans rfl
  exact .of_stc (hspu _ _)

/-- A frame accepted into a cleared ring stands in it alone (R78). -/
theorem acceptFrame_cleared {b : Bay} (h : (s.bay b).spu.cleared) :
    ((acceptFrame f tasks s).bay b).spu.ring = (acceptFrame f tasks s).tachoEntry b :: List.replicate 63 none
      ∧ ((acceptFrame f tasks s).bay b).spu.newest = some (frameSeq f) := by
  obtain ⟨n, hn⟩ := (acceptFrame_unit f tasks s b).spu
  rw [hn]
  exact frame_of_cleared h _ _ _ _

/-! ### Missing frames ahead of it -/

/-- The channels when d − 1 frames have been missed before a frame d beyond the last (R67, R160). -/
def Chx.caughtUp (c : Chx) (d : Nat) : Chx := if d = 1 then c else c.missing (d - 1)

/-- The state when d − 1 frames have been counted missing before a frame d beyond the last (R160). -/
def caughtUp (d : Nat) : State := if d = 1 then s else missingFrames (d - 1) tasks s

theorem missingFrames_work (k : Nat) : BayWork anyBay { s with chx := s.chx.missing k } (missingFrames k tasks s) :=
  .foldl _ (fun t x => missingTask_work x t) _ _

theorem caughtUp_work (d : Nat) : BayWork anyBay { s with chx := s.chx.caughtUp d } (caughtUp tasks s d) := by
  unfold caughtUp Chx.caughtUp
  split
  · exact .refl s
  · exact missingFrames_work tasks s _

theorem caughtUp_blockWork (d : Nat) : BlockWork s (caughtUp tasks s d) := by
  unfold caughtUp
  split
  · exact .refl s
  · exact missingFrames_blockWork _ tasks s

theorem BayWork.setFrame {B : Bay → Prop} {s t : State} (h : BayWork B s t) (l : Lfe) (c : Chx) :
    BayWork B { s with lfe := l, chx := c } { t with lfe := l, chx := c } :=
  { h with lfe := rfl, chx := rfl }

/-- Frames counted missing and the frame accepted, outside the bays' units. -/
theorem accepted_work (d : Nat) : BayWork anyBay
    { s with lfe := { s.lfe with lastSeq := some (frameSeq f), refusedRun := 0 }
             chx := (s.chx.caughtUp d).extract (framePayload f) }
    (acceptFrame f tasks (caughtUp tasks s d)) := by
  have hw := caughtUp_work tasks s d
  have ha := acceptFrame_work f tasks (caughtUp tasks s d)
  rw [hw.lfe, hw.chx] at ha
  exact (hw.setFrame _ _).trans ha

/-! ### The sequence number (R160) -/

/-- A frame lies d beyond the last accepted one, or there is none and d is 1. -/
def Lfe.distance (l : Lfe) (d : Nat) : Prop :=
  (l.lastSeq = none ∧ d = 1) ∨ ∃ x : BitVec 16, l.lastSeq = some x ∧ d = (frameSeq f - x).toNat

theorem takeSample_accepted {d : Nat} (h : s.lfe.distance f d) (h1 : 1 ≤ d) (h16 : d ≤ 16) :
    takeSample f tasks s = acceptFrame f tasks (caughtUp tasks s d) := by
  unfold takeSample seqCase caughtUp
  obtain ⟨hl, rfl⟩ | ⟨x, hl, rfl⟩ := h
  · rw [hl]; rfl
  · rw [hl]
    dsimp only
    by_cases hd : (frameSeq f - x).toNat = 1
    · rw [if_pos hd, if_pos hd]
    · rw [if_neg hd, if_neg hd, if_pos ⟨by omega, h16⟩]

theorem seqCase_far {x seq : BitVec 16} (h : (seq - x).toNat = 0 ∨ 17 ≤ (seq - x).toNat) (n : Nat) :
    seqCase (some x) n seq = if n < 2 then .refuse else .resync := by
  unfold seqCase
  dsimp only
  rw [if_neg (by omega), if_neg (by omega)]

theorem takeSample_refused {x : BitVec 16} (hl : s.lfe.lastSeq = some x)
    (h : (frameSeq f - x).toNat = 0 ∨ 17 ≤ (frameSeq f - x).toNat) (hr : s.lfe.refusedRun < 2) : takeSample f tasks s =
      { missingFrames 1 tasks (seqError s) with lfe := { s.lfe with refusedRun := s.lfe.refusedRun + 1 } } := by
  have hlfe : (missingFrames 1 tasks (seqError s)).lfe = s.lfe := (missingFrames_work tasks (seqError s) 1).lfe
  unfold takeSample
  rw [hl, seqCase_far h, if_pos hr]
  dsimp only
  rw [hlfe]

theorem takeSample_resync {x : BitVec 16} (hl : s.lfe.lastSeq = some x)
    (h : (frameSeq f - x).toNat = 0 ∨ 17 ≤ (frameSeq f - x).toNat) (hr : 2 ≤ s.lfe.refusedRun) :
    takeSample f tasks s = acceptFrame f tasks (resyncSpus (seqError s)) := by
  unfold takeSample
  rw [hl, seqCase_far h, if_neg (not_lt.mpr hr)]

/-! ### Forwarding (R73, R146, R147) -/

theorem arbiterChoice_eq : s.arbiterChoice = s.arbiterServes := by
  unfold State.arbiterChoice State.arbiterServes State.demand
  simp

theorem forwardSample_lfe (hl : s.lfe.link ≠ .lost) :
    (forwardSample f s).lfe = { s.lfe with opportunity := (forwardSample f s).arbiterServes } := by
  rw [← arbiterChoice_eq]
  unfold forwardSample
  dsimp only
  split
  · exact congrArg (fun o => { s.lfe with opportunity := o }) (if_neg hl)
  · exact congrArg (fun o => { s.lfe with opportunity := o }) (if_neg hl)

theorem forwardSample_lost (hl : s.lfe.link = .lost) : forwardSample f s =
    { s with
      lfe := { s.lfe with opportunity := none }
      mga := if frameLen f < s.mga.params.statusOffset + 56 then { s.mga with alarms := s.mga.alarms ||| 0b0100 } else s.mga
      ports := { s.ports with sentC := s.ports.sentC ++
        [if frameLen f < s.mga.params.statusOffset + 56 then f
          else frameWithPayload f (overwrite (framePayload f) s.mga.params.statusOffset (statusBlock s))] } } := by
  unfold forwardSample State.openOpportunity
  by_cases h : frameLen f < s.mga.params.statusOffset + 56
  · simp only [if_neg (not_le.mpr h), if_pos h, State.sendC, State.latchCell, hl, if_true]
    rfl
  · simp only [if_pos (not_lt.mp h), if_neg h, State.sendC, hl, if_true]

theorem forwardSample_fits (h : s.mga.params.statusOffset + 56 ≤ frameLen f) : (forwardSample f s).mga = s.mga
    ∧ (forwardSample f s).ports = { s.ports with sentC := s.ports.sentC ++
        [frameWithPayload f (overwrite (framePayload f) s.mga.params.statusOffset (statusBlock (forwardSample f s)))] } := by
  unfold forwardSample
  dsimp only
  rw [if_pos h]
  exact ⟨rfl, rfl⟩

theorem forwardSample_short (h : frameLen f < s.mga.params.statusOffset + 56) :
    (forwardSample f s).mga = { s.mga with alarms := s.mga.alarms ||| 0b0100 }
      ∧ (forwardSample f s).ports = { s.ports with sentC := s.ports.sentC ++ [f] } := by
  unfold forwardSample
  dsimp only
  rw [if_neg (not_le.mpr h)]
  exact ⟨rfl, rfl⟩

/-- What forwarding leaves alone. -/
theorem forwardSample_kept : (forwardSample f s).bays = s.bays ∧ (forwardSample f s).chx = s.chx ∧ (forwardSample f s).tbs = s.tbs
    ∧ (forwardSample f s).rsp = s.rsp ∧ (forwardSample f s).stc = s.stc := by
  unfold forwardSample
  dsimp only
  split <;> exact ⟨rfl, rfl, rfl, rfl, rfl⟩

/-! ### The command -/

theorem exec_sampleFrame {f : Bytes} (s : State) (hk : frameKind f = some 1) :
    exec (.sampleFrame f tasks) s = .next (sampleArrives f tasks s) :=
  congrArg Host.Outcome.next (if_pos (by simp [arrivalOf, hk]))

theorem exec_sampleFrame_good {f : Bytes} {s : State} (hk : frameKind f = some 1) (hg : frameGood f = true) :
    exec (.sampleFrame f tasks) s = .next (forwardSample f
      (if (goodFrame true s).lfe.link = .lost then goodFrame true s else takeSample f tasks (goodFrame true s))) := by
  rw [exec_sampleFrame tasks s hk, sampleArrives, if_pos hg]

theorem exec_sampleFrame_tested {f : Bytes} {s : State} (hk : frameKind f = some 1) (hg : frameGood f = true) (ht : s.testsSample) :
    exec (.sampleFrame f tasks) s = .next (forwardSample f (takeSample f tasks (goodFrame true s))) := by
  rw [exec_sampleFrame_good tasks hk hg, if_neg (by rw [goodFrame_sample]; exact afterGood_link ht)]

theorem exec_sampleFrame_accepted {f : Bytes} {s : State} (hk : frameKind f = some 1) (hg : frameGood f = true) (ht : s.testsSample)
    {d : Nat} (hd : s.lfe.distance f d) (h1 : 1 ≤ d) (h16 : d ≤ 16) : exec (.sampleFrame f tasks) s =
      .next (forwardSample f (acceptFrame f tasks (caughtUp tasks (goodFrame true s) d))) := by
  have hdist : (goodFrame true s).lfe.distance f d := by
    rw [goodFrame_sample]
    unfold Lfe.distance
    rw [(afterGood_sequence s.lfe).1]
    exact hd
  rw [exec_sampleFrame_tested tasks hk hg ht, takeSample_accepted f tasks _ hdist h1 h16]

end

/-! ### A frame out of sequence -/

/-- SEQ_ERROR has been latched and its FRAME_ERROR counted, and the ports and the timebase are as they were (R160). -/
structure SeqErred (s t : State) : Prop where
  mga : t.mga = { s.mga with alarms := s.mga.alarms ||| 0b0010 }
  ports : t.ports = s.ports
  tbs : t.tbs = s.tbs
  counted : ∀ i : Fin 8, (s.stc.counters.get i).event = .frameError → (s.stc.counters.get i).mode = .count →
    (t.stc.counters.get i).value = min ((s.stc.counters.get i).value + 1) (2 ^ 32 - 1)

/-- No filter of a counter holds a FRAME_ERROR back (R152). -/
theorem frameError_counted (s : State) (i : Fin 8) (he : (s.stc.counters.get i).event = .frameError)
    (hm : (s.stc.counters.get i).mode = .count) : s.frameError.stc.counters.get i = (s.stc.counters.get i).add 1 := by
  unfold State.frameError
  rw [State.emit_counter, if_pos]
  unfold Counter.passes
  cases (s.stc.counters.get i).slotMatch <;> simp [he, hm]

theorem SeqErred.of_work {s u x t : State} (hs : u.mga = s.mga ∧ u.ports = s.ports ∧ u.tbs = s.tbs ∧ u.stc = s.stc)
    (hx : x.mga = (seqError u).mga ∧ x.ports = u.ports ∧ x.tbs = u.tbs) (hw : BayWork anyBay x t)
    (he : EventKept .frameError (seqError u) t) : SeqErred s t := by
  obtain ⟨hmga, hports, htbs, hstc⟩ := hs
  obtain ⟨hxmga, hxports, hxtbs⟩ := hx
  refine ⟨?_, by rw [hw.ports, hxports, hports], by rw [hw.tbs, hxtbs, htbs], fun i hi hm => ?_⟩
  · rw [hw.mga, hxmga, ← hmga]
    rfl
  · rw [← hstc] at hi hm ⊢
    have hadd : (seqError u).stc.counters.get i = (u.stc.counters.get i).add 1 := frameError_counted (u.latchCell .seqError) i hi hm
    rw [(he i).2 (by rw [hadd]; exact hi), hadd]
    exact Counter.add_value 1 _

theorem goodFrame_sample_unit (s : State) (b : Bay) : ((goodFrame true s).bay b).spu.active = (s.bay b).spu.active
    ∧ ((goodFrame true s).bay b).spu.params = (s.bay b).spu.params := by
  have hres (u : BayUnit) : u.resynced.spu.active = u.spu.active ∧ u.resynced.spu.params = u.spu.params := by
    unfold BayUnit.resynced
    split <;> exact ⟨rfl, rfl⟩
  rw [goodFrame_sample]
  split
  · rw [resynced_bay (s := s) rfl]
    exact hres _
  · exact ⟨rfl, rfl⟩

section
variable {f : Bytes} {tasks : List FrameTask} {s : State} {x : BitVec 16}

/-- A refused frame: one frame missing (R67, R160). -/
theorem sample_refused (hl : s.lfe.lastSeq = some x) (hfar : (frameSeq f - x).toNat = 0 ∨ 17 ≤ (frameSeq f - x).toNat)
    (hr : s.lfe.refusedRun < 2) : SeqErred s (takeSample f tasks (goodFrame true s))
      ∧ (takeSample f tasks (goodFrame true s)).lfe = { s.lfe.afterGood true with refusedRun := s.lfe.refusedRun + 1 }
      ∧ (takeSample f tasks (goodFrame true s)).chx = s.chx.missing 1 := by
  have hlink := goodFrame_sample s
  obtain ⟨hlast, hrun⟩ := afterGood_sequence s.lfe
  generalize goodFrame true s = g at hlink
  have hlfe : g.lfe = s.lfe.afterGood true := by rw [hlink]
  have hw := missingFrames_work tasks (seqError g) 1
  rw [takeSample_refused f tasks g (by rw [hlfe, hlast, hl]) hfar (by rw [hlfe, hrun]; exact hr)]
  refine ⟨.of_work (u := g) (x := { seqError g with
      lfe := { g.lfe with refusedRun := g.lfe.refusedRun + 1 }
      chx := (missingFrames 1 tasks (seqError g)).chx })
    (by rw [hlink]; exact ⟨rfl, rfl, rfl, rfl⟩) ⟨rfl, rfl, rfl⟩ (hw.setFrame _ _)
    (missingFrames_blockWork 1 tasks (seqError g)).errors, ?_, ?_⟩
  · rw [hlfe, hrun]
  · exact hw.chx.trans (by rw [show (seqError g).chx = s.chx by rw [hlink]; rfl])

/-- A frame that resynchronizes: the rings are cleared, and it is accepted (R78, R160). -/
theorem sample_resync (hl : s.lfe.lastSeq = some x) (hfar : (frameSeq f - x).toNat = 0 ∨ 17 ≤ (frameSeq f - x).toNat)
    (hr : 2 ≤ s.lfe.refusedRun) : SeqErred s (takeSample f tasks (goodFrame true s))
      ∧ (takeSample f tasks (goodFrame true s)).lfe =
          { s.lfe.afterGood true with lastSeq := some (frameSeq f), refusedRun := 0 }
      ∧ (takeSample f tasks (goodFrame true s)).chx = s.chx.extract (framePayload f)
      ∧ ∀ b : Bay, (s.bay b).spu.active = true → (s.bay b).spu.params ≠ none →
          ((takeSample f tasks (goodFrame true s)).bay b).spu.ring =
              (takeSample f tasks (goodFrame true s)).tachoEntry b :: List.replicate 63 none
            ∧ ((takeSample f tasks (goodFrame true s)).bay b).spu.newest = some (frameSeq f) := by
  have hlink := goodFrame_sample s
  have hunit := goodFrame_sample_unit s
  obtain ⟨hlast, hrun⟩ := afterGood_sequence s.lfe
  generalize goodFrame true s = g at hlink hunit
  have hlfe : g.lfe = s.lfe.afterGood true := by rw [hlink]
  have hclear := resyncSpus_eq (seqError g)
  have hw := acceptFrame_work f tasks (resyncSpus (seqError g))
  rw [takeSample_resync f tasks g (by rw [hlfe, hlast, hl]) hfar (by rw [hlfe, hrun]; exact hr)]
  refine ⟨.of_work (u := g) (by rw [hlink]; exact ⟨rfl, rfl, rfl, rfl⟩) (by rw [hclear]; exact ⟨rfl, rfl, rfl⟩) hw
    (.trans (.of_stc (by rw [hclear])) (acceptFrame_errors f tasks _)), ?_, ?_, fun b ha hp => ?_⟩
  · rw [hw.lfe, ← hlfe, hclear]
    rfl
  · rw [hw.chx, hclear]
    exact congrArg (Chx.extract · (framePayload f)) (show g.chx = s.chx by rw [hlink])
  · refine acceptFrame_cleared f tasks _ ?_
    rw [resynced_bay (s := seqError g) (by rw [hclear])]
    obtain ⟨hga, hgp⟩ := hunit b
    exact resynced_cleared (hga.trans ha) (hgp ▸ hp)

end

/-! ### The statements -/

/-- Settles O18: the link takes the frame, frames are counted missing, the frame is accepted and then forwarded. -/
theorem sampleAccepted : Obligations.SampleAccepted := by
  refine ⟨status_shown, fun f tasks s hk hg => ⟨fun d ht hd h1 h16 => ?_, fun ht => ?_⟩⟩
  · have hlink := goodFrame_sample s
    have hw := accepted_work f tasks (goodFrame true s) d
    obtain ⟨u, hu⟩ : ∃ u, u = acceptFrame f tasks (caughtUp tasks (goodFrame true s) d) := ⟨_, rfl⟩
    have hexec := exec_sampleFrame_accepted tasks hk hg ht hd h1 h16
    rw [← hu] at hw hexec
    obtain ⟨hbays, hchx, htbs, hrsp, hstc⟩ := forwardSample_kept f u
    have hlfe : u.lfe = { s.lfe.afterGood true with lastSeq := some (frameSeq f), refusedRun := 0 } := by rw [hw.lfe, hlink]
    have hmga : u.mga = s.mga := by rw [hw.mga, hlink]
    have hports : u.ports = s.ports := by rw [hw.ports, hlink]
    have hchan : u.chx = (s.chx.caughtUp d).extract (framePayload f) := by rw [hw.chx, hlink]
    have hfits := forwardSample_fits f u
    have hshort := forwardSample_short f u
    rw [hmga, hports] at hfits hshort
    refine ⟨_, hexec, ?_, hchx.trans hchan, hfits, hshort, ?_, ?_, ?_, fun hlost b ha hp => ?_⟩
    · rw [forwardSample_lfe f u (by rw [hlfe]; exact afterGood_link ht), hlfe]
    · rw [htbs, hw.tbs, hlink]
    · rw [hrsp, hw.emission, hlink]
    · rw [hstc, hw.snapshot, hlink]
    · have hcleared : ((goodFrame true s).bay b).spu.cleared := by
        rw [resynced_bay (s := s) (by rw [hlink, if_pos ⟨hlost, ht.resolve_left (not_not.mpr hlost)⟩])]
        exact resynced_cleared ha hp
      rw [State.bay_eq_of_bays _ hbays, tachoEntry_congr (s := u) (by rw [State.bay_eq_of_bays _ hbays]) hchx, hu]
      exact acceptFrame_cleared f tasks _ (((caughtUp_blockWork tasks _ d).unit b).cleared hcleared)
  · have hl := not_not.mp (not_or.mp ht).1
    rw [exec_sampleFrame_good tasks hk hg, goodFrame_untested ht, if_pos hl]
    exact congrArg Host.Outcome.next (forwardSample_lost f { s with lfe := { s.lfe with sampleSeen := true } } hl)

/-- Settles O19: SEQ_ERROR in either case; a frame missing while refused frames are few, and acceptance after that. -/
theorem sampleRefused : Obligations.SampleRefused := by
  intro f tasks l s hk hg ht hl hfar
  obtain ⟨u, hu⟩ : ∃ u, u = takeSample f tasks (goodFrame true s) := ⟨_, rfl⟩
  have hexec := exec_sampleFrame_tested tasks hk hg ht
  have hrefused := sample_refused (f := f) (tasks := tasks) hl hfar
  have hresync := sample_resync (f := f) (tasks := tasks) hl hfar
  rw [← hu] at hexec hrefused hresync
  have herr : SeqErred s u := by
    obtain hr | hr := lt_or_ge s.lfe.refusedRun 2
    · exact (hrefused hr).1
    · exact (hresync hr).1
  obtain ⟨hbays, hchx, htbs, hrsp, hstc⟩ := forwardSample_kept f u
  have hfits := forwardSample_fits f u
  have hshort := forwardSample_short f u
  rw [herr.mga, herr.ports] at hfits hshort
  refine ⟨_, hexec, hfits, fun h => ?_, fun i => ?_, htbs.trans herr.tbs, fun hr => ?_, fun hr => ?_⟩
  · obtain ⟨hmga, hports⟩ := hshort h
    refine ⟨hmga.trans ?_, hports⟩
    dsimp only
    rw [BitVec.or_assoc]
    rfl
  · rw [hstc]
    exact herr.counted i
  · obtain ⟨-, hlfe, hchan⟩ := hrefused hr
    rw [forwardSample_lfe f u (by rw [hlfe]; exact afterGood_link ht), hlfe, hchx, hchan]
    refine ⟨rfl, rfl, rfl, fun e => ?_⟩
    simp [State.latch, hchx, hchan, Chx.missing, Vector.get_eq_getElem, Latch.aged]
  · obtain ⟨-, hlfe, hchan, hring⟩ := hresync hr
    rw [forwardSample_lfe f u (by rw [hlfe]; exact afterGood_link ht), hlfe, hchx, hchan]
    refine ⟨rfl, rfl, fun b ha hp => ?_⟩
    rw [State.bay_eq_of_bays _ hbays, tachoEntry_congr (s := u) (by rw [State.bay_eq_of_bays _ hbays]) hchx]
    exact hring b ha hp

end Sys2Proof.Machine
end

section
/-! SAMPLE_FRAME (O46) with a signed ANALOG channel. Its raw value is the two's complement of the field (R63); the statement takes
2 to the field length from the field as a difference of natural numbers, which is 0 for every negative raw value. -/

namespace Sys2Proof.Machine

/-! ### A field of eight ones -/

/-- Channel 0 is in use: eight signed bits at the head of the stream, with a gain of 1. -/
def signedChannel : State :=
  { State.reset with chx := { State.reset.chx with
      partitions := 1
      entries := State.reset.chx.entries.set 0
        { ChannelEntry.cleared with
          enabled := true, role := some .oilTemp, kind := some .analog, len := 8, signed := true, gain := 256 } } }

/-- A SAMPLE frame whose payload is the byte 0xFF. -/
def minusOneSample : Bytes := buildFrame 1 0 0 1 [0xFF]

/-- The state after that frame, its parts taken in the default order. -/
def signedChannelAfter : State := sampleArrives minusOneSample [] signedChannel

/-- Frame and state meet the hypotheses of the statement. -/
theorem minusOneSample_accepted : frameKind minusOneSample = some 1 ∧ frameGood minusOneSample = true
    ∧ signedChannel.lfe.link ≠ .lost ∧ signedChannel.lfe.lastSeq = none ∧ frameLen minusOneSample = 1
    ∧ leNat (framePayload minusOneSample) = 255 := by
  decide +kernel

/-- The reading is −1. -/
theorem signedChannelAfter_latch : signedChannelAfter.latch 0 = { value := .analog (-1), age := 0 } := by
  decide +kernel

/-- Refutes O46: in `signedChannelAfter` channel 0 reads −1, where the statement has it read 0. -/
theorem not_channelsExtracted : ¬ Obligations.ChannelsExtracted := by
  intro h
  obtain ⟨hkind, hgood, hlink, hlast, hlen, hstream⟩ := minusOneSample_accepted
  obtain ⟨-, -, -, -, hchannels⟩ := h minusOneSample [] 1 signedChannel signedChannelAfter hkind hgood (.inl hlink)
    (.inl ⟨hlast, rfl⟩) le_rfl (by decide) (exec_sampleFrame [] signedChannel hkind)
  obtain ⟨-, -, -, hwithin, -⟩ := hchannels 0 _ 255 rfl hstream.symm
  obtain ⟨hanalog, -⟩ := hwithin rfl rfl (by rw [hlen]; decide)
  obtain ⟨raw, hraw, hlatch⟩ := hanalog rfl
  have hzero : raw = 0 := hraw.trans (by decide)
  rw [signedChannelAfter_latch, hzero] at hlatch
  have hvalue : (-1 : Int) = max (-32768) (min 32767 (⌊((0 * 256 : Int) : ℚ) / 256⌋ + 0)) :=
    LatchValue.analog.inj (congrArg Latch.value hlatch)
  norm_num at hvalue

end Sys2Proof.Machine
end

section
/-! What the RIS phases say about requests, lanes and windows (O8). `Agrees s` is the invariant, bay by bay; `HoldsNone b s` says
that the allocator has nothing of bay b, so that its RIS may go on to any phase. -/

namespace Sys2Proof.Machine

/-! ### The invariant, bay by bay -/

/-- What an RIS in IDLE supplies (R87). -/
def Ris.idleRests (x : Ris) : Prop :=
  x.phase = .idle → x.driveEnable = false ∧ x.loadMode = none ∧ x.torqueLimit = none ∧ x.cmdSpeed = 0

/-- The RIS is at work only in RUNIN and in the run-down of STOPPING, and at rest in IDLE (R87, R101). -/
structure BayUnit.RunsWell (u : BayUnit) : Prop where
  work : u.ris.phase ≠ .idle →
    (u.ctl.state = .running ∧ u.ctl.subPhase = some .runin) ∨ (u.ctl.state = .stopping ∧ u.ris.phase = .rundown)
  rest : u.ris.idleRests

/-- RIS, lanes and window of a bay agree with its phase (R87, R106, R108). -/
structure BayAgrees (s : State) (b : Bay) : Prop where
  runs : (s.bay b).RunsWell
  lanes : ∀ (l : LaneIx) (u : LaneUse), s.oae.lanes.get l = some u → u.bay = b →
    (s.bay b).ris.phase = .measure ∧ (s.bay b).window.isSome = true
  window : (s.bay b).window.isSome = true → (s.bay b).ris.phase = .measure

/-- The bays of P agree with the allocator, whose queue has at most one request of each bay. -/
structure AgreesOn (P : Bay → Prop) (s : State) : Prop where
  nodup : OneRequestPerBay s
  queue : ∀ q ∈ s.oae.queue, P q.bay → (s.bay q.bay).ris.phase = .measureWait
  bays : ∀ b, P b → BayAgrees s b

/-- Every bay agrees with the allocator. -/
abbrev Agrees (s : State) : Prop := AgreesOn anyBay s

/-- Neither request, lane nor window is the bay's. -/
structure HoldsNone (b : Bay) (s : State) : Prop where
  clear : ClearOf b s.oae
  window : (s.bay b).window = none

theorem agrees_iff (s : State) : Agrees s ↔ RunInAgrees s ∧ LanesAgree s := by
  constructor
  · intro h
    refine ⟨fun b => ⟨fun hp => ?_, (h.bays b trivial).runs.rest⟩, h.nodup, fun q hq => h.queue q hq trivial,
      fun l u hu => (h.bays u.bay trivial).lanes l u hu rfl, fun b => (h.bays b trivial).window⟩
    rw [inRunin_iff]
    exact (h.bays b trivial).runs.work hp
  · rintro ⟨hr, hn, hq, hl, hw⟩
    refine ⟨hn, fun q hm _ => hq q hm, fun b _ => ⟨⟨fun hp => ?_, (hr b).2⟩, ?_, hw b⟩⟩
    · rw [← inRunin_iff]
      exact (hr b).1 hp
    · rintro l u hu rfl
      exact hl l u hu

section
variable {P : Bay → Prop} {b : Bay} {s t : State}

theorem AgreesOn.mono {Q : Bay → Prop} (h : AgreesOn P s) (hQ : ∀ c, Q c → P c) : AgreesOn Q s :=
  ⟨h.nodup, fun q hq hc => h.queue q hq (hQ _ hc), fun c hc => h.bays c (hQ c hc)⟩

/-- The bays other than one of a state that agrees. -/
theorem AgreesOn.beside (h : Agrees s) (b : Bay) : AgreesOn (· ≠ b) s := h.mono fun _ _ => trivial

theorem BayUnit.RunsWell.inRunin {u : BayUnit} (h : u.RunsWell) (h0 : u.ris.phase ≠ .idle) (h1 : u.ris.phase ≠ .rundown) :
    u.ctl.state = .running ∧ u.ctl.subPhase = some .runin :=
  (h.work h0).resolve_right fun hc => h1 hc.2

theorem BayUnit.RunsWell.of_idle {u : BayUnit} (h : u.ris.phase = .idle) (hr : u.ris.idleRests) : u.RunsWell :=
  ⟨fun hp => absurd h hp, hr⟩

theorem BayUnit.RunsWell.of_runin {u : BayUnit} (hr : u.ctl.state = .running) (hp : u.ctl.subPhase = some .runin)
    (h : u.ris.idleRests) : u.RunsWell := ⟨fun _ => .inl ⟨hr, hp⟩, h⟩

/-- A bay in RUNIN has done its sub-phase, and a bay in a leak sub-phase goes on, with its RIS in IDLE. -/
theorem BayUnit.RunsWell.idle_of_done (h : (s.bay b).RunsWell) (hd : s.subPhaseDone b = true) : (s.bay b).ris.phase = .idle := by
  by_contra hi
  obtain ⟨hr, hp⟩ | ⟨hs, -⟩ := h.work hi
  · exact hi ((runin_done hr hp).mp hd)
  · rw [running_of_subPhaseDone b s hd] at hs
    cases hs

/-- A bay in neither MEASURE_WAIT nor MEASURE holds nothing. -/
theorem AgreesOn.holdsNone (h : Agrees s) (hw : (s.bay b).ris.phase ≠ .measureWait) (hm : (s.bay b).ris.phase ≠ .measure) :
    HoldsNone b s := by
  have hb := h.bays b trivial
  refine ⟨⟨fun q hq he => hw ?_, fun l u hu he => hm (hb.lanes l u hu he).1⟩, ?_⟩
  · rw [← he]; exact h.queue q hq trivial
  · rw [← Option.not_isSome_iff_eq_none]
    exact fun hs => hm (hb.window hs)

/-- A bay that holds nothing agrees with the allocator in any phase. -/
theorem AgreesOn.join (h : AgreesOn (· ≠ b) s) (hn : HoldsNone b s) (hr : (s.bay b).RunsWell) : Agrees s := by
  refine ⟨h.nodup, fun q hq _ => h.queue q hq (hn.clear.queue q hq), fun c _ => ?_⟩
  by_cases hc : c = b
  · subst hc
    refine ⟨hr, fun l u hu he => absurd he (hn.clear.lanes l u hu), fun hs => ?_⟩
    rw [hn.window] at hs
    cases hs
  · exact h.bays c hc

theorem BayAgrees.congr (h : BayAgrees s b) (hb : t.bay b = s.bay b) (ho : t.oae.lanes = s.oae.lanes) : BayAgrees t b :=
  ⟨hb ▸ h.runs, by rw [hb, ho]; exact h.lanes, by rw [hb]; exact h.window⟩

/-! ### Changes of one bay -/

/-- At most bay b has changed, and no lane or request. -/
structure OnlyBay (b : Bay) (s t : State) : Prop where
  oae : t.oae = s.oae
  other : ∀ c, c ≠ b → t.bay c = s.bay c

/-- At most bay b has changed, and of it neither the phase of its RIS, its window, its state nor its sub-phase; an RIS at rest in
IDLE still is. -/
structure RunKept (b : Bay) (s t : State) : Prop extends OnlyBay b s t where
  phase : (t.bay b).ris.phase = (s.bay b).ris.phase
  rest : (s.bay b).ris.idleRests → (t.bay b).ris.idleRests
  window : (t.bay b).window = (s.bay b).window
  state : (t.bay b).ctl.state = (s.bay b).ctl.state
  subPhase : (t.bay b).ctl.subPhase = (s.bay b).ctl.subPhase

/-- Work of bay b's RIS in RUNIN: of the others nothing has changed, of the bay neither window, state nor sub-phase, and an RIS that
comes to IDLE is at rest. -/
structure RisWork (b : Bay) (s t : State) : Prop extends OnlyBay b s t where
  window : (t.bay b).window = (s.bay b).window
  state : (t.bay b).ctl.state = (s.bay b).ctl.state
  subPhase : (t.bay b).ctl.subPhase = (s.bay b).ctl.subPhase
  rest : (s.bay b).ris.idleRests → (t.bay b).ris.idleRests

theorem OnlyBay.refl (b : Bay) (s : State) : OnlyBay b s s := ⟨rfl, fun _ _ => rfl⟩

theorem OnlyBay.trans {u : State} (h : OnlyBay b s t) (g : OnlyBay b t u) : OnlyBay b s u :=
  ⟨g.oae.trans h.oae, fun c hc => (g.other c hc).trans (h.other c hc)⟩

theorem OnlyBay.of_eq (ho : t.oae = s.oae) (hb : ∀ c, t.bay c = s.bay c) : OnlyBay b s t := ⟨ho, fun c _ => hb c⟩

theorem RunKept.refl (b : Bay) (s : State) : RunKept b s s := ⟨.refl b s, rfl, id, rfl, rfl, rfl⟩

theorem RunKept.trans {u : State} (h : RunKept b s t) (g : RunKept b t u) : RunKept b s u :=
  ⟨h.toOnlyBay.trans g.toOnlyBay, g.phase.trans h.phase, g.rest ∘ h.rest, g.window.trans h.window, g.state.trans h.state,
    g.subPhase.trans h.subPhase⟩

theorem RunKept.ite {u : State} {c : Prop} [Decidable c] (h : RunKept b s t) (g : RunKept b s u) :
    RunKept b s (if c then t else u) := by
  split
  · exact h
  · exact g

theorem RunKept.of_eq (ho : t.oae = s.oae) (hb : ∀ c, t.bay c = s.bay c) : RunKept b s t :=
  ⟨.of_eq ho hb, by rw [hb], by rw [hb]; exact id, by rw [hb], by rw [hb], by rw [hb]⟩

theorem RisWork.refl (b : Bay) (s : State) : RisWork b s s := ⟨.refl b s, rfl, rfl, rfl, id⟩

theorem RisWork.trans {u : State} (h : RisWork b s t) (g : RisWork b t u) : RisWork b s u :=
  ⟨h.toOnlyBay.trans g.toOnlyBay, g.window.trans h.window, g.state.trans h.state, g.subPhase.trans h.subPhase, g.rest ∘ h.rest⟩

theorem RisWork.ite {u : State} {c : Prop} [Decidable c] (h : RisWork b s t) (g : RisWork b s u) :
    RisWork b s (if c then t else u) := by
  split
  · exact h
  · exact g

theorem RunKept.risWork (h : RunKept b s t) : RisWork b s t := ⟨h.toOnlyBay, h.window, h.state, h.subPhase, h.rest⟩

theorem RunKept.runsWell (h : RunKept b s t) (hr : (s.bay b).RunsWell) : (t.bay b).RunsWell := by
  refine ⟨?_, h.rest hr.rest⟩
  rw [h.phase, h.state, h.subPhase]
  exact hr.work

theorem HoldsNone.only (hn : HoldsNone b s) (h : OnlyBay b s t) (hw : (t.bay b).window = (s.bay b).window) : HoldsNone b t :=
  ⟨h.oae ▸ hn.clear, hw.trans hn.window⟩

/-- The other bays still agree. -/
theorem AgreesOn.only (h : AgreesOn (· ≠ b) s) (g : OnlyBay b s t) : AgreesOn (· ≠ b) t := by
  refine ⟨by unfold OneRequestPerBay; rw [g.oae]; exact h.nodup, fun q hq hc => ?_, fun c hc => ?_⟩
  · rw [g.oae] at hq
    rw [g.other _ hc]
    exact h.queue q hq hc
  · exact (h.bays c hc).congr (g.other c hc) (by rw [g.oae])

/-- What keeps phase, window, state and sub-phase keeps the agreement. -/
theorem AgreesOn.kept (h : Agrees s) (g : RunKept b s t) : Agrees t := by
  have hbeside := (h.beside b).only g.toOnlyBay
  have hb := h.bays b trivial
  refine ⟨hbeside.nodup, fun q hq _ => ?_, fun c _ => ?_⟩
  · by_cases hc : q.bay = b
    · rw [hc, g.phase, ← hc]
      exact h.queue q (g.oae ▸ hq) trivial
    · exact hbeside.queue q hq hc
  · by_cases hc : c = b
    · subst hc
      refine ⟨g.runsWell hb.runs, ?_, ?_⟩
      · rw [g.oae, g.phase, g.window]; exact hb.lanes
      · rw [g.phase, g.window]; exact hb.window
    · exact hbeside.bays c hc

/-- Work in RUNIN of a bay that holds nothing. -/
theorem AgreesOn.works (h : Agrees s) (hn : HoldsNone b s) (hin : (s.bay b).ctl.state = .running ∧ (s.bay b).ctl.subPhase = some .runin)
    (g : RisWork b s t) : Agrees t ∧ HoldsNone b t := by
  have hn' := hn.only g.toOnlyBay g.window
  refine ⟨((h.beside b).only g.toOnlyBay).join hn' (.of_runin ?_ ?_ (g.rest (h.bays b trivial).runs.rest)), hn'⟩
  · rw [g.state]; exact hin.1
  · rw [g.subPhase]; exact hin.2

/-- A state with the same bays and the same lanes and requests. -/
theorem AgreesOn.same (h : Agrees s) (hb : t.bays = s.bays) (ho : t.oae = s.oae) : Agrees t :=
  h.kept (b := 0) (.of_eq ho (s.bay_eq_of_bays hb))

end

end Sys2Proof.Machine
end

section
/-! Work of a bay's units that leaves its RIS as it is, and work of its RIS in RUNIN (O8). -/

namespace Sys2Proof.Machine

section
variable (b : Bay) (s : State)

/-! ### Elementary operations on one bay -/

theorem updBay_onlyBay (f : BayUnit → BayUnit) : OnlyBay b s (s.updBay b f) :=
  ⟨rfl, fun _ hc => State.bay_updBay_ne s (Ne.symm hc) f⟩

theorem updLtu_runKept (f : Ltu → Ltu) : RunKept b s (s.updLtu b f) :=
  ⟨updBay_onlyBay b s _, by simp, by simp, by simp, by simp, by simp⟩

theorem updSpu_runKept (f : Spu → Spu) : RunKept b s (s.updSpu b f) :=
  ⟨updBay_onlyBay b s _, by simp, by simp, by simp, by simp, by simp⟩

theorem updCtl_runKept (f : BayCtl → BayCtl) (h : ∀ c, (f c).state = c.state ∧ (f c).subPhase = c.subPhase) :
    RunKept b s (s.updCtl b f) :=
  ⟨updBay_onlyBay b s _, by simp, by simp, by simp, by simp [(h _).1], by simp [(h _).2]⟩

theorem latchAlarm_runKept (a : BayAlarm) : RunKept b s (s.latchAlarm b a) := updCtl_runKept b s _ fun _ => ⟨rfl, rfl⟩

theorem emitBay_runKept (e : CounterEvent) (x : Option ResultName) : RunKept b s (s.emitBay e b x) := .of_eq rfl fun _ => rfl

theorem writeBound_runKept (f : AxleRecord → AxleRecord) : RunKept b s (s.writeBound b f) := by
  obtain ⟨a, ha⟩ := writeBound_frame s b f
  rw [ha]
  exact .of_eq rfl fun _ => rfl

theorem writeSummary_runKept (f : Summary → Summary) : RunKept b s (s.writeSummary b f) := writeBound_runKept b s _

theorem updRis_runKept {f : Ris → Ris} (hp : (f (s.bay b).ris).phase = (s.bay b).ris.phase)
    (hr : (s.bay b).ris.idleRests → (f (s.bay b).ris).idleRests) : RunKept b s (s.updRis b f) :=
  ⟨updBay_onlyBay b s _, by simpa using hp, by simpa using hr, by simp, by simp, by simp⟩

theorem updRis_risWork {f : Ris → Ris} (h : (s.bay b).ris.idleRests → (f (s.bay b).ris).idleRests) : RisWork b s (s.updRis b f) :=
  ⟨updBay_onlyBay b s _, by simp, by simp, by simp, by simpa using h⟩

/-- The RIS goes on to a phase other than IDLE. -/
theorem updRis_risWork_ne {f : Ris → Ris} (h : (f (s.bay b).ris).phase ≠ .idle) : RisWork b s (s.updRis b f) :=
  updRis_risWork b s fun _ hi => absurd hi h

/-! ### Leak Test Unit -/

theorem leakAttempt_runKept (o : ResultName) : RunKept b s (leakAttempt b o s) := emitBay_runKept b s _ _

theorem offerLeakEntry_runKept (c : Cavity) (x : LeakResult) : RunKept b s (offerLeakEntry b c x s) := by
  unfold offerLeakEntry
  exact (writeBound_runKept b s _).trans (updLtu_runKept b _ _)

theorem grossEnd_runKept (c : Cavity) : RunKept b s (grossEnd b c s) :=
  ((leakAttempt_runKept b s _).trans (offerLeakEntry_runKept b _ c _)).trans (updLtu_runKept b _ _)

theorem incompleteEnd_runKept (c : Cavity) : RunKept b s (incompleteEnd b c s) :=
  (leakAttempt_runKept b s _).trans (offerLeakEntry_runKept b _ c _)

theorem actOnDecay_runKept (c : Cavity) (o : DecayOutcome) : RunKept b s (actOnDecay b c o s) :=
  (leakAttempt_runKept b s _).trans
    (.ite (updLtu_runKept b _ _) ((offerLeakEntry_runKept b _ c _).trans (updLtu_runKept b _ _)))

theorem measureEnd_runKept (c : Cavity) : RunKept b s (measureEnd b c s) :=
  (updLtu_runKept b s _).trans (actOnDecay_runKept b _ c _)

theorem permitStart_runKept : RunKept b s (permitStart b s) := .ite (updLtu_runKept b s _) (.refl b s)

theorem enterCavities_runKept (l : List Cavity) (i : Nat) : RunKept b s (enterCavities b l i s) := by
  induction l generalizing s i with
  | nil => exact updLtu_runKept b s _
  | cons c rest ih =>
    refine (updLtu_runKept b s (Ltu.enterCavity c i)).trans (.ite (updLtu_runKept b _ _) ?_)
    exact .ite ((incompleteEnd_runKept b _ c).trans (ih _ _)) (.refl b _)

theorem nextCavity_runKept : RunKept b s (nextCavity b s) := by
  unfold nextCavity
  split
  · exact enterCavities_runKept b s _ _
  · exact .refl b s

theorem beginLeak_runKept : RunKept b s (beginLeak b s) :=
  ((updLtu_runKept b s _).trans (permitStart_runKept b _)).trans (enterCavities_runKept b _ _ _)

theorem coolTest_runKept : RunKept b s (coolTest b s) := by
  unfold coolTest
  split
  · exact .ite (updLtu_runKept b s _) (.refl b s)
  · exact .refl b s

theorem leakFrame_runKept (c : Cavity) : RunKept b s (leakFrame b c s) := by
  unfold leakFrame
  split
  · exact coolTest_runKept b s
  · exact .ite (updLtu_runKept b s _) (.refl b s)
  · exact .ite (grossEnd_runKept b s c) (.refl b s)
  · exact .ite (grossEnd_runKept b s c) (.refl b s)
  all_goals exact .refl b s

theorem ventEnd_runKept (c : Cavity) : RunKept b s (ventEnd b c s) := by
  refine (updLtu_runKept b s (Ltu.closeVent c)).trans (.ite ?_ (updLtu_runKept b _ _))
  split
  · exact updLtu_runKept b _ _
  · exact nextCavity_runKept b _

theorem phaseEnd_runKept (c : Cavity) : RunKept b s (phaseEnd b c s) := by
  unfold phaseEnd
  split
  · exact (incompleteEnd_runKept b s c).trans (nextCavity_runKept b _)
  · exact grossEnd_runKept b s c
  · exact updLtu_runKept b s _
  · exact measureEnd_runKept b s c
  · exact ventEnd_runKept b s c
  all_goals exact .refl b s

theorem ltuTick_runKept : RunKept b s (ltuTick b s) := by
  unfold ltuTick
  split
  · split
    · exact (updLtu_runKept b s _).trans (.ite (phaseEnd_runKept b _ _) (.refl b _))
    · exact .refl b s
  · exact .refl b s

theorem ltuAbort_runKept : RunKept b s (ltuAbort b s) := by
  unfold ltuAbort
  split
  case h_1 c _ =>
    have hend (f : Ltu → Ltu) : RunKept b s ((incompleteEnd b c s).updLtu b f) :=
      (incompleteEnd_runKept b s c).trans (updLtu_runKept b _ _)
    split
    case h_1 | h_2 => exact .refl b s
    case h_7 => exact .ite (.refl b s) (offerLeakEntry_runKept b s _ _)
    all_goals exact hend _
  case h_2 => exact .refl b s

/-! ### Run-in Sequencer in RUNIN -/

theorem Ris.idleRests_of_ne {x : Ris} (h : x.phase ≠ .idle) : x.idleRests := fun hi => absurd hi h

theorem Ris.atRest_idleRests {x : Ris} (h : x.cmdSpeed = 0) : x.atRest.idleRests := fun _ => ⟨rfl, rfl, rfl, h⟩

/-- Entry of steps, whatever the RIS was: it is in a step, in RUNDOWN or at rest (R88, R92, R100). -/
theorem enterSteps_onlyBay_rests (l : List Step) (i : Nat) :
    OnlyBay b s (enterSteps b l i s) ∧ ((enterSteps b l i s).bay b).ris.idleRests := by
  have hupd (t : State) {f : Ris → Ris} (h : (f (t.bay b).ris).idleRests) :
      OnlyBay b t (t.updRis b f) ∧ ((t.updRis b f).bay b).ris.idleRests :=
    ⟨updBay_onlyBay b t _, by simpa using h⟩
  induction l generalizing s i with
  | nil =>
    obtain ⟨hturns, hstands⟩ := enterSteps_nil b i s
    by_cases h : s.atStandstill b = true
    · rw [hstands h]
      exact hupd s (Ris.atRest_idleRests ((atStandstill_iff b s).mp h).1)
    · rw [hturns h]
      exact hupd s (Ris.idleRests_of_ne nofun)
  | cons st rest ih =>
    obtain ⟨hrev, hnot⟩ := enterSteps_cons b st rest i s
    by_cases hn : NeedsReverse st (s.bay b).ris
    · rw [hrev hn]
      exact hupd s (Ris.idleRests_of_ne nofun)
    · obtain ⟨hdone, hstays⟩ := hnot hn
      by_cases hd : st.kind = .stop ∧ s.atStandstill b = true
      · rw [hdone hd]
        obtain ⟨honly, hrests⟩ := ih (stepCompleted b (s.updRis b (Ris.stepEntered st i))) (i + 1)
        exact ⟨((updBay_onlyBay b s _).trans (writeSummary_runKept b _ _).toOnlyBay).trans honly, hrests⟩
      · rw [hstays hd]
        exact hupd s (Ris.idleRests_of_ne (stepEntered_ne_idle st i _))

theorem enterSteps_risWork (l : List Step) (i : Nat) : RisWork b s (enterSteps b l i s) := by
  obtain ⟨honly, hrests⟩ := enterSteps_onlyBay_rests b s l i
  obtain ⟨y, hy⟩ := enterSteps_ris b l i s
  exact ⟨honly, by rw [hy], by rw [hy], by rw [hy], fun _ => hrests⟩

theorem nextStep_risWork : RisWork b s (nextStep b s) := by
  unfold nextStep
  split
  · exact enterSteps_risWork b s _ _
  · exact .refl b s

theorem stepCompleted_risWork : RisWork b s (stepCompleted b s) := (writeSummary_runKept b s _).risWork

theorem finishStep_risWork : RisWork b s (finishStep b s) := (stepCompleted_risWork b s).trans (nextStep_risWork b _)

theorem startRamp_risWork (st : Step) : RisWork b s (startRamp b st s) := by
  refine updRis_risWork_ne b s ?_
  unfold Ris.leaveRamp
  dsimp only
  repeat' split
  all_goals exact nofun

theorem endReverseStop_risWork : RisWork b s (endReverseStop b s) := by
  unfold endReverseStop
  split
  · exact (startRamp_risWork b s _).trans (.ite (finishStep_risWork b _) (.refl b _))
  · exact .refl b s

theorem enterSettle_risWork : RisWork b s (enterSettle b s) := updRis_risWork_ne b s nofun

theorem enterRerun_risWork (st : Step) : RisWork b s (enterRerun b st s) :=
  .ite (enterSettle_risWork b s) (updRis_risWork_ne b s nofun)

theorem spendBudget_risWork : RisWork b s (spendBudget b s) := updRis_risWork b s fun h => h

theorem offerNoiseEntry_runKept (st : Step) (x : NoiseResult) (y : Option NomeasReason) (ls : List LineResult)
    (a : Option Bool) : RunKept b s (offerNoiseEntry b st x y ls a s) := writeBound_runKept b s _

theorem actOnResult_risWork (r : Recipe) (st : Step) (w : WindowResult) : RisWork b s (actOnResult b r st w s).state := by
  have hoffer (x y ls a) : RisWork b s (offerNoiseEntry b st x y ls a s) := (offerNoiseEntry_runKept b s st x y ls a).risWork
  have hfinal (x y ls a) : RisWork b s (finishStep b (offerNoiseEntry b st x y ls a s)) :=
    (hoffer x y ls a).trans (finishStep_risWork b _)
  have hsettle : RisWork b s (enterSettle b (spendBudget b s)) := (spendBudget_risWork b s).trans (enterSettle_risWork b _)
  unfold actOnResult
  dsimp only
  split
  case h_1 => exact hfinal _ _ _ _
  case h_2 =>
    split
    · exact (spendBudget_risWork b s).trans (enterRerun_risWork b _ st)
    · split
      · exact (hoffer _ _ _ _).trans (stepCompleted_risWork b _)
      · exact hfinal _ _ _ _
  case h_3 => split; exacts [hsettle, hfinal _ _ _ _]
  case h_4 => split; exacts [hsettle, hfinal _ _ _ _]

theorem takeResult_risWork (w : WindowResult) : RisWork b s (takeResult b w s).state := by
  unfold takeResult
  dsimp only
  split
  · split
    · exact actOnResult_risWork b s _ _ w
    · exact .refl b s
  · exact .refl b s

end

end Sys2Proof.Machine
end

section
/-! Grants, release, COMPLETE, aborts and sub-phases keep bays and allocator in agreement (O8). -/

namespace Sys2Proof.Machine

/-! ### Grants -/

/-- Binding lanes to one bay gives no other bay a lane. -/
theorem bindLanes_others {b : Bay} (rs : List LaneRole) (lanes : Vector (Option LaneUse) 8) {l : LaneIx} {u : LaneUse}
    (h : (bindLanes b rs lanes).get l = some u) (hu : u.bay ≠ b) : lanes.get l = some u := by
  induction rs generalizing lanes with
  | nil => exact h
  | cons r rs ih =>
    unfold bindLanes at h
    split at h
    · have hset := ih _ h
      simp only [Vector.get_eq_getElem, Vector.getElem_set] at hset
      split at hset
      · cases hset
        exact absurd rfl hu
      · exact hset
    · exact h

/-- A grant to a bay in MEASURE_WAIT: nothing without a recipe step, else MEASURE with a window (R108). -/
theorem grantOne_waiting {q : LaneRequest} {s : State} (h : (s.bay q.bay).ris.phase = .measureWait) :
    grantOne q s = s ∨ ∃ w, (grantOne q s).bay q.bay =
      { s.bay q.bay with ris := { (s.bay q.bay).ris with phase := .measure }, window := some w } := by
  unfold grantOne
  split
  · next r st _ _ =>
    refine .inr ⟨Window.opened r st, ?_⟩
    have hset (t : State) : (t.setWindow q.bay (some (Window.opened r st))).bay q.bay =
        { t.bay q.bay with window := some (Window.opened r st) } := t.bay_updBay_same _ _
    dsimp only
    rw [State.emitBay_bay, updRis_bay, hset]
    dsimp only
    rw [if_pos (by exact h)]
    rfl
  · exact .inl rfl

theorem grantOne_lanes (q : LaneRequest) (s : State) {l : LaneIx} {u : LaneUse} (h : (grantOne q s).oae.lanes.get l = some u)
    (hu : u.bay ≠ q.bay) : s.oae.lanes.get l = some u := by
  unfold grantOne at h
  split at h
  · exact bindLanes_others _ _ h hu
  · exact h

/-- A grant keeps the agreement of every bay. -/
theorem grantOne_bayAgrees {q : LaneRequest} {s : State} {b : Bay} (hq : (s.bay q.bay).ris.phase = .measureWait)
    (h : BayAgrees s b) : BayAgrees (grantOne q s) b := by
  by_cases hb : q.bay = b
  · subst hb
    obtain hsame | ⟨w, hw⟩ := grantOne_waiting hq
    · rw [hsame]; exact h
    · obtain ⟨hr, hp⟩ := h.runs.inRunin (by rw [hq]; decide) (by rw [hq]; decide)
      refine ⟨?_, fun l u _ _ => ?_, fun _ => ?_⟩
      · rw [hw]; exact .of_runin hr hp (Ris.idleRests_of_ne nofun)
      · rw [hw]; exact ⟨rfl, rfl⟩
      · rw [hw]
  · have hsame := grantOne_bay hb s
    refine ⟨hsame ▸ h.runs, fun l u hu he => ?_, by rw [hsame]; exact h.window⟩
    rw [hsame]
    exact h.lanes l u (grantOne_lanes q s hu fun hc => hb (hc.symm.trans he)) he

theorem grantLoop_agrees {P : Bay → Prop} (l : List LaneRequest) (s : State) (hn : (l.map (·.bay)).Nodup)
    (hq : ∀ q ∈ l, (s.bay q.bay).ris.phase = .measureWait) (hb : ∀ b, P b → BayAgrees s b) : AgreesOn P (grantLoop l s) := by
  induction l generalizing s with
  | nil => exact ⟨List.nodup_nil, nofun, fun b h => (hb b h).congr rfl rfl⟩
  | cons q rest ih =>
    rw [List.map_cons, List.nodup_cons] at hn
    obtain ⟨hnot, hrest⟩ := hn
    have hhead := hq q List.mem_cons_self
    have htail : ∀ x ∈ rest, (s.bay x.bay).ris.phase = .measureWait := fun x hx => hq x (List.mem_cons_of_mem q hx)
    unfold grantLoop
    split
    · refine ih (grantOne q s) hrest (fun x hx => ?_) fun b h => grantOne_bayAgrees hhead (hb b h)
      rw [grantOne_bay fun hc => hnot (List.mem_map.mpr ⟨x, hx, hc.symm⟩)]
      exact htail x hx
    · refine ⟨List.nodup_cons.mpr ⟨hnot, hrest⟩, fun x hx _ => ?_, fun b h => (hb b h).congr rfl rfl⟩
      exact hq x hx

theorem grantTest_agrees {P : Bay → Prop} {s : State} (h : AgreesOn P s) (hq : ∀ q ∈ s.oae.queue, P q.bay) :
    AgreesOn P s.grantTest :=
  grantLoop_agrees _ s h.nodup (fun q hm => h.queue q hm (hq q hm)) h.bays

/-! ### Release -/

theorem freeBayLanes_others (b : Bay) (lanes : Vector (Option LaneUse) 8) {l : LaneIx} {u : LaneUse}
    (h : (freeBayLanes b lanes).get l = some u) : lanes.get l = some u := by
  unfold freeBayLanes at h
  simp only [Vector.get_eq_getElem, Vector.getElem_map] at h ⊢
  split at h
  · next x hx =>
    split at h
    · cases h
    · cases h; exact hx
  · cases h

section
variable {b : Bay} {s t : State}

/-- The allocator without the requests of a bay. -/
def State.withoutRequest (s : State) (b : Bay) : State :=
  { s with oae := { s.oae with queue := s.oae.queue.filter fun q => q.bay != b } }

theorem withoutRequest_queue {q : LaneRequest} (h : q ∈ (s.withoutRequest b).oae.queue) : q ∈ s.oae.queue ∧ q.bay ≠ b := by
  obtain ⟨hm, hb⟩ := List.mem_filter.mp h
  exact ⟨hm, by simpa using hb⟩

theorem withoutRequest_agrees {P : Bay → Prop} (h : AgreesOn P s) (b : Bay) : AgreesOn P (s.withoutRequest b) :=
  ⟨List.Nodup.sublist (List.filter_sublist.map _) h.nodup, fun q hq hP => h.queue q (withoutRequest_queue hq).1 hP,
    fun c hc => (h.bays c hc).congr rfl rfl⟩

theorem dropWindow_agrees (h : AgreesOn (· ≠ b) s) : AgreesOn (· ≠ b) (dropWindow b s) := by
  have hother : ∀ c, c ≠ b → (dropWindow b s).bay c = s.bay c := fun c hc => by rw [dropWindow_bay, if_neg (Ne.symm hc)]
  refine ⟨h.nodup, fun q hq hc => ?_, fun c hc => ?_⟩
  · rw [hother _ hc]
    exact h.queue q hq hc
  · have hb := h.bays c hc
    refine ⟨hother c hc ▸ hb.runs, fun l u hu => ?_, ?_⟩
    · rw [hother c hc]
      exact hb.lanes l u (freeBayLanes_others b _ hu)
    · rw [hother c hc]
      exact hb.window

/-- After a release the bay holds nothing, and the others agree (R110). -/
theorem releaseBay_agrees (h : AgreesOn (· ≠ b) s) : AgreesOn (· ≠ b) (releaseBay b s) ∧ HoldsNone b (releaseBay b s) := by
  refine ⟨?_, releaseBay_clear b s, by rw [releaseBay_bay]⟩
  have hout := withoutRequest_agrees h b
  have hqueue : ∀ q ∈ (s.withoutRequest b).oae.queue, q.bay ≠ b := fun q hq => (withoutRequest_queue hq).2
  unfold releaseBay
  dsimp only
  generalize hdrop : (if ((s.bay b).window.isSome || s.holdsLanes b) = true then dropWindow b (s.withoutRequest b)
    else s.withoutRequest b) = s1
  have h1 : AgreesOn (· ≠ b) s1 ∧ ∀ q ∈ s1.oae.queue, q.bay ≠ b := by
    rw [← hdrop]
    split
    · exact ⟨dropWindow_agrees hout, hqueue⟩
    · exact ⟨hout, hqueue⟩
  unfold State.withoutRequest at hdrop
  rw [hdrop]
  generalize hevent : (if (s.hasRequest b || ((s.bay b).window.isSome || s.holdsLanes b)) = true
    then s1.emitBay .noiseAttempt b (some .nomeas) else s1) = s2
  have h2 : AgreesOn (· ≠ b) s2 ∧ ∀ q ∈ s2.oae.queue, q.bay ≠ b := by
    rw [← hevent]
    split
    · exact ⟨h1.1.only (emitBay_runKept b s1 _ _).toOnlyBay, h1.2⟩
    · exact h1
  split
  · exact grantTest_agrees h2.1 h2.2
  · exact h2.1

/-- A release of a bay that holds nothing. -/
theorem releaseBay_holdsNone (h : HoldsNone b s) : releaseBay b s = s := by
  have hfilter : s.oae.queue.filter (fun q => q.bay != b) = s.oae.queue :=
    List.filter_eq_self.mpr fun q hq => by simpa using h.clear.queue q hq
  have hlanes : s.holdsLanes b = false := by
    unfold State.holdsLanes
    refine List.any_eq_false.mpr fun u hu => ?_
    obtain ⟨i, hi, he⟩ := List.mem_iff_getElem.mp hu
    cases u with
    | none => simp
    | some x =>
      have hx := h.clear.lanes ⟨i, by simpa using hi⟩ x (by simpa [Vector.get_eq_getElem] using he)
      simpa using hx
  have hrequest : s.hasRequest b = false := by
    unfold State.hasRequest
    exact List.any_eq_false.mpr fun q hq => by simpa using h.clear.queue q hq
  have hhead : s.headIs b = false := by
    unfold State.headIs
    split
    · next q _ hq => simpa using h.clear.queue q (by rw [hq]; exact List.mem_cons_self)
    · rfl
  unfold releaseBay
  simp [hfilter, hlanes, hrequest, hhead, h.window]

/-! ### COMPLETE -/

theorem finalizedAt_onlyBay (b : Bay) (s : State) : OnlyBay b s (s.finalizedAt b) := by
  refine .of_eq ?_ fun c => s.finalizedAt_bay b c
  unfold State.finalizedAt
  split <;> rfl

/-- The controller's part in entry to COMPLETE before the allocator's. -/
theorem unbound_onlyBay (b : Bay) (s : State) : OnlyBay b s ((s.finalizedAt b).updCtl b BayCtl.unbind) :=
  (finalizedAt_onlyBay b s).trans (updBay_onlyBay b _ _)

/-- The controller's part in entry to COMPLETE after the allocator's. -/
theorem completed_onlyBay (b : Bay) (s t : State) : OnlyBay b t ((t.updCtl b
    (BayCtl.judged s.mga.params.qualityStopLimit (s.verdictAt b))).updBay b BayUnit.complete) :=
  (updBay_onlyBay b t _).trans (updBay_onlyBay b _ _)

/-- A COMPLETE bay is at rest (R16, R101). -/
theorem enterComplete_agrees (h : AgreesOn (· ≠ b) s) : Agrees (enterComplete b s) := by
  have hbeside : AgreesOn (· ≠ b) (enterComplete b s) := by
    rw [enterComplete_eq]
    exact (releaseBay_agrees (h.only (unbound_onlyBay b s))).1.only (completed_onlyBay b s _)
  refine hbeside.join ⟨enterComplete_clear b s, by rw [enterComplete_bay]⟩ ?_
  rw [enterComplete_bay]
  exact .of_idle rfl fun _ => ⟨rfl, rfl, rfl, rfl⟩

theorem enterComplete_onlyBay (h : HoldsNone b s) : OnlyBay b s (enterComplete b s) := by
  have hunbound := unbound_onlyBay b s
  have hn : HoldsNone b ((s.finalizedAt b).updCtl b BayCtl.unbind) :=
    h.only hunbound (by rw [State.updCtl_window, s.finalizedAt_bay])
  rw [enterComplete_eq, releaseBay_holdsNone hn]
  exact hunbound.trans (completed_onlyBay b s _)

theorem testStopped_agrees (h : Agrees s) : Agrees (testStopped b s) := by
  unfold testStopped
  split
  · exact enterComplete_agrees (h.beside b)
  · exact h

theorem testStopped_onlyBay (h : HoldsNone b s) : OnlyBay b s (testStopped b s) := by
  unfold testStopped
  split
  · exact enterComplete_onlyBay h
  · exact .refl b s

/-! ### STOPPING and aborts -/

/-- The RIS of a bay that runs down under STOPPING, or is at rest (R101). -/
theorem runDown_runsWell {u : BayUnit} {standstill : Bool} {x : Ris} (hs : u.ctl.state = .stopping)
    (hx : u.ris = x.runDown standstill) : u.RunsWell := by
  unfold Ris.runDown at hx
  split at hx
  · next h0 =>
    refine .of_idle (by rw [hx]) fun _ => ?_
    rw [hx]
    exact ⟨rfl, rfl, rfl, h0.1⟩
  · refine ⟨fun _ => .inr ⟨hs, by rw [hx]⟩, Ris.idleRests_of_ne ?_⟩
    rw [hx]
    exact nofun

theorem stopRundown_onlyBay (b : Bay) (s : State) : OnlyBay b s (stopRundown b s) := by
  unfold stopRundown rundownTest
  split
  · exact (updBay_onlyBay b s _).trans (updBay_onlyBay b _ _)
  · exact updBay_onlyBay b s _

theorem risAbort_onlyBay (b : Bay) (s : State) : OnlyBay b s (risAbort b s) := by
  unfold risAbort
  dsimp only
  split
  · exact .refl b s
  split
  · split
    · exact (offerNoiseEntry_runKept b s _ _ _ _ _).toOnlyBay.trans (stopRundown_onlyBay b _)
    · exact stopRundown_onlyBay b s
  · exact stopRundown_onlyBay b s

theorem setCause_onlyBay (b : Bay) (cause : Cause) (s : State) : OnlyBay b s (setCause b cause s) := by
  unfold setCause
  exact (writeBound_runKept b s _).toOnlyBay.trans (updBay_onlyBay b _ _)

/-- An aborted bay runs down or is at rest, and holds nothing (R101, R110). -/
theorem abortBay_agrees (h : Agrees s) (cause : Cause) : Agrees (abortBay b cause s) := by
  have honly : OnlyBay b s (ltuAbort b (risAbort b ((setCause b cause s).updCtl b BayCtl.stop))) :=
    (((setCause_onlyBay b cause s).trans (updBay_onlyBay b _ _)).trans (risAbort_onlyBay b _)).trans
      (ltuAbort_runKept b _).toOnlyBay
  obtain ⟨hbeside, hnone⟩ := releaseBay_agrees ((h.beside b).only honly)
  obtain ⟨⟨n, a, hb⟩, -⟩ := abortCore_spec b cause s
  have hruns : ((abortCore b cause s).bay b).RunsWell := by
    rw [hb]
    by_cases hi : (s.bay b).ris.phase = .idle
    · have hrest := (h.bays b trivial).runs.rest
      unfold State.stoppedRis
      rw [if_pos hi]
      exact .of_idle hi hrest
    · unfold State.stoppedRis
      rw [if_neg hi]
      dsimp only
      split
      · next hstill => exact .of_idle rfl fun _ => ⟨rfl, rfl, rfl, hstill.2⟩
      · exact ⟨fun _ => .inr ⟨rfl, rfl⟩, Ris.idleRests_of_ne nofun⟩
  exact testStopped_agrees (hbeside.join hnone hruns)

theorem raiseFault_agrees (h : Agrees s) (cause : Cause) : Agrees (raiseFault b cause s) := by
  have hflag : Agrees (s.updCtl b (BayCtl.flagged cause)) := h.kept (updCtl_runKept b s _ fun _ => ⟨rfl, rfl⟩)
  rw [raiseFault_eq]
  split
  · exact abortBay_agrees hflag cause
  · exact hflag

/-- Early end of RUNIN (R15, R99, R101). -/
theorem earlyEnd_agrees (h : Agrees s) : Agrees (earlyEnd b s) := by
  unfold earlyEnd
  split
  · obtain ⟨hbeside, hnone⟩ := releaseBay_agrees ((h.beside b).only (updBay_onlyBay b s fun u => { u with ctl := u.ctl.stop }))
    have honly := stopRundown_onlyBay b (releaseBay b (s.updCtl b BayCtl.stop))
    have hb := stopRundown_bay b (releaseBay b (s.updCtl b BayCtl.stop))
    rw [releaseBay_bay, updCtl_bay] at hb
    refine testStopped_agrees ((hbeside.only honly).join (hnone.only honly ?_) ?_)
    · rw [hb, releaseBay_bay]
    · rw [hb]
      exact runDown_runsWell rfl rfl
  · exact h

/-! ### Sub-phases -/

/-- The end of the last sub-phase leaves a bay with its RIS in IDLE, which holds nothing (R15). -/
theorem stopNormally_agrees (h : Agrees s) (hi : (s.bay b).ris.phase = .idle) : Agrees (stopNormally b s) := by
  have hn := h.holdsNone (b := b) (by rw [hi]; decide) (by rw [hi]; decide)
  have honly : OnlyBay b s (s.updCtl b BayCtl.stop) := updBay_onlyBay b s _
  have hn' := hn.only honly (State.updCtl_window s b b _)
  unfold stopNormally
  rw [releaseBay_holdsNone hn']
  refine testStopped_agrees (((h.beside b).only honly).join hn' ?_)
  rw [updCtl_bay]
  exact .of_idle hi (h.bays b trivial).runs.rest

theorem stopNormally_onlyBay (h : HoldsNone b s) : OnlyBay b s (stopNormally b s) := by
  have honly : OnlyBay b s (s.updCtl b BayCtl.stop) := updBay_onlyBay b s _
  have hn := h.only honly (State.updCtl_window s b b _)
  unfold stopNormally
  rw [releaseBay_holdsNone hn]
  exact honly.trans (testStopped_onlyBay hn)

theorem setCmdSpeed_onlyBay (b : Bay) (s : State) (v : Nat) : OnlyBay b s (s.setCmdSpeed b v) := by
  rw [setCmdSpeed_eq]
  exact updBay_onlyBay b s _

theorem setCmdSpeed_bay (b : Bay) (s : State) (v : Nat) : ∃ n, (s.setCmdSpeed b v).bay b =
    { s.bay b with ris := { (s.bay b).ris with cmdSpeed := v }, spu := { (s.bay b).spu with steadyCount := n } } := by
  rw [setCmdSpeed_eq, State.bay_updBay_same]
  exact ⟨_, rfl⟩

/-- RUNIN begun: whatever the RIS was, it is in a step, in RUNDOWN or at rest (R88). -/
theorem beginRunin_risWork (b : Bay) (s : State) : RisWork b s (beginRunin b s) := by
  unfold beginRunin
  dsimp only
  generalize ht : ((s.setCmdSpeed b 0).updRis b fun r => { r with driveEnable := true, rampFrac := 0, overload := 0 }) = t
  have hbefore : OnlyBay b s t := by
    rw [← ht]
    exact (setCmdSpeed_onlyBay b s 0).trans (updBay_onlyBay b _ _)
  obtain ⟨honly, hrests⟩ := enterSteps_onlyBay_rests b t (t.stepsFrom b 0) 0
  obtain ⟨y, hy⟩ := enterSteps_ris b (t.stepsFrom b 0) 0 t
  obtain ⟨n, hn⟩ := setCmdSpeed_bay b s 0
  rw [← ht, updRis_bay, hn, ht] at hy
  exact ⟨hbefore.trans honly, by rw [hy], by rw [hy], by rw [hy], fun _ => hrests⟩

/-- A bay with its RIS in IDLE takes a sub-phase. -/
theorem beginSubPhase_agrees (p : SubPhase) (h : Agrees s) (hr : (s.bay b).ctl.state = .running) (hi : (s.bay b).ris.phase = .idle) :
    Agrees (beginSubPhase b p s) := by
  have hrest := (h.bays b trivial).runs.rest
  have hn := h.holdsNone (b := b) (by rw [hi]; decide) (by rw [hi]; decide)
  have honly : OnlyBay b s (s.updCtl b fun c => { c with subPhase := some p }) := updBay_onlyBay b s _
  have hn' := hn.only honly (State.updCtl_window s b b _)
  have hset : Agrees (s.updCtl b fun c => { c with subPhase := some p }) := by
    refine ((h.beside b).only honly).join hn' ?_
    rw [updCtl_bay]
    exact .of_idle hi hrest
  unfold beginSubPhase
  cases p with
  | runin => exact (hset.works hn' (by rw [updCtl_bay]; exact ⟨hr, rfl⟩) (beginRunin_risWork b _)).1
  | leakPre => exact hset.kept (beginLeak_runKept b _)
  | leakPost => exact hset.kept (beginLeak_runKept b _)

theorem beginSubPhase_onlyBay (b : Bay) (p : SubPhase) (s : State) :
    OnlyBay b s (beginSubPhase b p s) ∧ ((beginSubPhase b p s).bay b).window = (s.bay b).window := by
  have hset : OnlyBay b s (s.updCtl b fun c => { c with subPhase := some p }) := updBay_onlyBay b s _
  have hwindow := State.updCtl_window s b b fun c => { c with subPhase := some p }
  unfold beginSubPhase
  cases p with
  | runin => exact ⟨hset.trans (beginRunin_risWork b _).toOnlyBay, (beginRunin_risWork b _).window.trans hwindow⟩
  | leakPre => exact ⟨hset.trans (beginLeak_runKept b _).toOnlyBay, (beginLeak_runKept b _).window.trans hwindow⟩
  | leakPost => exact ⟨hset.trans (beginLeak_runKept b _).toOnlyBay, (beginLeak_runKept b _).window.trans hwindow⟩

theorem runPlan_agrees (l : List SubPhase) (h : Agrees s) (hr : (s.bay b).ctl.state = .running)
    (hi : (s.bay b).ris.phase = .idle) : Agrees (runPlan b l s) := by
  induction l generalizing s with
  | nil => exact stopNormally_agrees h hi
  | cons p rest ih =>
    have hbegun := beginSubPhase_agrees p h hr hi
    rw [runPlan_cons]
    unfold goOn
    split
    · next hd => exact ih hbegun (running_of_subPhaseDone b _ hd) ((hbegun.bays b trivial).runs.idle_of_done hd)
    · exact hbegun

theorem runPlan_onlyBay (l : List SubPhase) (h : HoldsNone b s) : OnlyBay b s (runPlan b l s) := by
  induction l generalizing s with
  | nil => exact stopNormally_onlyBay h
  | cons p rest ih =>
    obtain ⟨honly, hwindow⟩ := beginSubPhase_onlyBay b p s
    rw [runPlan_cons]
    unfold goOn
    split
    · exact honly.trans (ih (h.only honly hwindow))
    · exact honly

/-- A sub-phase that is done is followed by the rest of the plan (R3). -/
theorem advance_agrees (h : Agrees s) : Agrees (advance b s) := by
  unfold advance
  split
  · next hd => exact runPlan_agrees _ h (running_of_subPhaseDone b s hd) ((h.bays b trivial).runs.idle_of_done hd)
  · exact h

theorem advance_onlyBay (h : HoldsNone b s) : OnlyBay b s (advance b s) := by
  unfold advance
  split
  · exact runPlan_onlyBay _ h
  · exact .refl b s

/-- READY to RUNNING: the RIS of a READY bay is in IDLE (R7). -/
theorem enterRunning_agrees (h : Agrees s) (hs : (s.bay b).ctl.state = .ready) : Agrees (enterRunning b s) := by
  have hb := h.bays b trivial
  have hi : (s.bay b).ris.phase = .idle := by
    by_contra hc
    obtain ⟨hr, -⟩ | ⟨hr, -⟩ := hb.runs.work hc
    all_goals
      rw [hs] at hr
      cases hr
  have hn := h.holdsNone (b := b) (by rw [hi]; decide) (by rw [hi]; decide)
  have honly : OnlyBay b s (s.updCtl b fun c => { c with state := .running }) := updBay_onlyBay b s _
  have hset : Agrees (s.updCtl b fun c => { c with state := .running }) := by
    refine ((h.beside b).only honly).join (hn.only honly (State.updCtl_window s b b _)) ?_
    rw [updCtl_bay]
    exact .of_idle hi hb.runs.rest
  exact runPlan_agrees _ hset (by rw [updCtl_bay]) (by rw [updCtl_bay]; exact hi)

end

end Sys2Proof.Machine
end

section
/-! Frames and ticks keep bays and allocator in agreement (O8). -/

namespace Sys2Proof.Machine

section
variable {b : Bay} {s : State}

/-! ### Run-in Sequencer -/

/-- STANDSTILL tested: the RIS goes on in RUNIN, or comes to rest (R90, R92, R100, R101). -/
theorem standstillTest_agrees (h : Agrees s) : Agrees (standstillTest b s) := by
  have hruns := (h.bays b trivial).runs
  have hworks {p : RisPhase} (hp : (s.bay b).ris.phase = p) (hlist : p = .reverseStop ∨ p = .stopWait) {t : State}
      (g : RisWork b s t) : Agrees t := by
    have hne : p ≠ .idle ∧ p ≠ .rundown ∧ p ≠ .measureWait ∧ p ≠ .measure := by
      obtain rfl | rfl := hlist <;> decide
    obtain ⟨hidle, hrundown, hwait, hmeasure⟩ := hp ▸ hne
    exact (h.works (h.holdsNone hwait hmeasure) (hruns.inRunin hidle hrundown) g).1
  unfold standstillTest
  split
  · next hstill =>
    split
    · next hp => exact hworks hp (.inl rfl) (endReverseStop_risWork b s)
    · next hp => exact hworks hp (.inr rfl) (finishStep_risWork b s)
    · next hp =>
      have hn := h.holdsNone (b := b) (by rw [hp]; decide) (by rw [hp]; decide)
      have honly : OnlyBay b s (s.updRis b Ris.atRest) := updBay_onlyBay b s _
      refine ((h.beside b).only honly).join (hn.only honly (State.updRis_window s b b _)) ?_
      rw [updRis_bay]
      exact .of_idle rfl (Ris.atRest_idleRests ((atStandstill_iff b s).mp hstill).1)
    · exact h
  · exact h

/-- The RIS ramps (R89). -/
def Ris.ramps (x : Ris) : Prop := x.phase = .ramp ∨ x.phase = .reverseStop ∨ x.phase = .rundown

theorem Ris.ramps.ne_idle {x : Ris} (h : x.ramps) : x.phase ≠ .idle := by
  obtain h | h | h := h
  all_goals
    rw [h]
    decide

theorem ramps_of_rampInForce {r : Recipe} {st : Step} {x : Ris} {p : Nat × Nat} (h : rampInForce r st x = some p) : x.ramps := by
  unfold rampInForce at h
  split at h
  · next hp => exact .inl hp
  · next hp => exact .inr (.inl hp)
  · next hp => exact .inr (.inr hp)
  · cases h

/-- A ramp that changes the RIS but not its phase. -/
theorem updRis_ramping (b : Bay) {f : Ris → Ris} (h : (s.bay b).ris.ramps) (hf : (f (s.bay b).ris).phase = (s.bay b).ris.phase) :
    RunKept b s (s.updRis b f) :=
  updRis_runKept b s hf fun _ => Ris.idleRests_of_ne (hf ▸ h.ne_idle)

theorem Ris.ramps_congr {x y : Ris} (h : x.ramps) (hp : y.phase = x.phase) : y.ramps := by
  unfold Ris.ramps
  rw [hp]
  exact h

theorem reachTarget_agrees (h : Agrees s) (hramps : (s.bay b).ris.ramps) (st : Step) : Agrees (reachTarget b st s) := by
  have hset := h.kept (updRis_ramping b hramps (f := fun r => { r with rampFrac := 0 }) rfl)
  have hphase : ((s.updRis b fun r => { r with rampFrac := 0 }).bay b).ris.ramps := by
    rw [updRis_bay]; exact hramps
  unfold reachTarget
  dsimp only
  generalize s.updRis b (fun r => { r with rampFrac := 0 }) = t at *
  split
  · next hp =>
    have hn := hset.holdsNone (b := b) (by rw [hp]; decide) (by rw [hp]; decide)
    have hin := (hset.bays b trivial).runs.inRunin (by rw [hp]; decide) (by rw [hp]; decide)
    have hleave : RisWork b t (t.updRis b (Ris.leaveRamp st)) := by
      refine updRis_risWork_ne b t ?_
      unfold Ris.leaveRamp
      dsimp only
      split <;> exact nofun
    exact (hset.works hn hin (hleave.trans (.ite (finishStep_risWork b _) (.refl b _)))).1
  · exact standstillTest_agrees (hset.kept (updRis_ramping b hphase rfl))

theorem rampTick_agrees (h : Agrees s) (hramps : (s.bay b).ris.ramps) (r : Recipe) (st : Step) (target rate : Nat) :
    Agrees (rampTick b r st target rate s) := by
  unfold rampTick
  dsimp only
  generalize rampStep rate target r.maxSpeed (s.bay b).ris.cmdSpeed (s.bay b).ris.rampFrac = p
  obtain ⟨n, hn⟩ := setCmdSpeed_bay b s p.1
  have hspeed : RunKept b s (s.setCmdSpeed b p.1) :=
    ⟨setCmdSpeed_onlyBay b s p.1, by rw [hn], fun _ => by rw [hn]; exact Ris.idleRests_of_ne hramps.ne_idle, by rw [hn], by rw [hn],
      by rw [hn]⟩
  have hramps1 : ((s.setCmdSpeed b p.1).bay b).ris.ramps := hramps.elim (by rw [hn]; exact .inl) (by rw [hn]; exact .inr)
  have hset := (h.kept hspeed).kept (updRis_ramping b hramps1 (f := fun y => { y with rampFrac := p.2 }) rfl)
  split
  · exact reachTarget_agrees hset (by rw [updRis_bay]; exact hramps1) st
  · exact hset

/-! ### Posts -/

/-- A post of a bay in MEASURE_WAIT (R106). -/
theorem postRequest_agrees (h : Agrees s) (hp : (s.bay b).ris.phase = .measureWait) (n : Nat) : Agrees (postRequest b n s) := by
  unfold postRequest
  split
  · exact h
  · next hfree =>
    have hnew : ∀ q ∈ s.oae.queue, q.bay ≠ b := by
      simp only [Bool.or_eq_true, not_or, State.hasRequest, List.any_eq_true, not_exists, not_and, beq_iff_eq] at hfree
      exact fun q hq => hfree.1 q hq
    refine grantTest_agrees (P := anyBay) ⟨?_, fun q hq _ => ?_, fun c hc => (h.bays c hc).congr rfl rfl⟩ fun _ _ => trivial
    · unfold OneRequestPerBay
      rw [List.map_append, List.nodup_append]
      refine ⟨h.nodup, List.nodup_singleton _, fun x hx y hy => ?_⟩
      obtain ⟨q, hq, rfl⟩ := List.mem_map.mp hx
      rw [List.map_singleton, List.mem_singleton] at hy
      rw [hy]
      exact hnew q hq
    · obtain hold | hone := List.mem_append.mp hq
      · exact h.queue q hold trivial
      · rw [List.mem_singleton] at hone
        rw [hone]
        exact hp

theorem postAttempt_agrees (h : Agrees s) (hp : (s.bay b).ris.phase = .measureWait) : Agrees (postAttempt b s) := by
  unfold postAttempt
  split
  · exact postRequest_agrees (h.kept (updRis_runKept b s rfl fun hr => hr)) (by rw [updRis_bay]; exact hp) _
  · exact h

/-- SETTLE ends: DWELL, or MEASURE_WAIT with a post (R91, R96). -/
theorem endSettle_agrees (h : Agrees s) (hp : (s.bay b).ris.phase = .settle) : Agrees (endSettle b s) := by
  have hn := h.holdsNone (b := b) (by rw [hp]; decide) (by rw [hp]; decide)
  have hin := (h.bays b trivial).runs.inRunin (by rw [hp]; decide) (by rw [hp]; decide)
  unfold endSettle
  split
  · split
    · have hwait := (h.works hn hin (updRis_risWork_ne b s (f := fun r => { r with phase := .measureWait }) nofun)).1
      unfold enterMeasureWait
      dsimp only
      split
      · exact hwait
      · exact postAttempt_agrees hwait (by rw [updRis_bay])
    · have hdwell : RisWork b s (s.updRis b fun r => { r with phase := .dwell, phaseTimer := 0 }) := updRis_risWork_ne b s nofun
      exact (h.works hn hin (hdwell.trans (.ite (finishStep_risWork b _) (.refl b _)))).1
  · exact h

/-! ### Bay Controller on a frame -/

theorem enterTest_agrees (h : Agrees s) : Agrees (enterTest b s) := by
  unfold enterTest
  split
  · split
    · next hc => exact enterRunning_agrees h hc.1
    · exact h
  · exact h

theorem AgreesOn.faultIf {c : Prop} [Decidable c] (h : Agrees s) (cause : Cause) : Agrees (if c then raiseFault b cause s else s) := by
  split
  · exact raiseFault_agrees h cause
  · exact h

theorem fixtureTest_agrees (h : Agrees s) (s0 : State) : Agrees (fixtureTest s0 b s) := by
  unfold fixtureTest
  split
  · exact h.faultIf _
  · exact h

theorem staleTest_agrees (h : Agrees s) (s0 : State) : Agrees (staleTest s0 b s) := h.faultIf _

/-! ### Units on a frame -/

theorem endHold_agrees (h : Agrees s) : Agrees (endHold b s) := by
  have hset := h.kept (updRis_runKept b s (f := fun r => { r with hold := false, holdTimer := 0 }) rfl fun hr => hr)
  unfold endHold
  dsimp only
  split
  · next hc => exact postAttempt_agrees hset hc.1
  · exact hset

theorem actOnOil_agrees (h : Agrees s) (r : Recipe) (v : Int) : Agrees (actOnOil b r v s) := by
  have hbegin : Agrees (beginHold b s) :=
    (h.kept (updRis_runKept b s (f := fun r => { r with hold := true, holdTimer := 0 }) rfl fun hr => hr)).kept (latchAlarm_runKept b _ _)
  unfold actOnOil
  split
  · exact raiseFault_agrees h _
  split
  · split
    · split
      · exact endHold_agrees h
      · exact h
    · split
      · exact hbegin
      · exact h
  · split
    · exact h.kept (latchAlarm_runKept b s _)
    · exact h

theorem oilFrame_agrees (h : Agrees s) : Agrees (oilFrame b s) := by
  unfold oilFrame
  split
  · split
    · exact actOnOil_agrees (h.kept (writeSummary_runKept b s _)) _ _
    · exact h
  · exact h

theorem torqueFrame_agrees (h : Agrees s) : Agrees (torqueFrame b s) := by
  unfold torqueFrame
  split
  · split
    · exact ((h.kept (writeSummary_runKept b s _)).kept (updRis_runKept b _ rfl fun hr => hr)).faultIf _
    · exact h
  · exact h

theorem settleFrame_agrees (h : Agrees s) : Agrees (settleFrame b s) := by
  unfold settleFrame
  split
  · next hc =>
    simp only [Bool.and_eq_true, beq_iff_eq] at hc
    exact advance_agrees (endSettle_agrees h hc.1.2)
  · exact h

theorem risFrame_agrees (h : Agrees s) (x : Bool) : Agrees (risFrame b x s) := by
  have hread := torqueFrame_agrees (b := b) (oilFrame_agrees (b := b) h)
  unfold risFrame
  dsimp only
  split
  · exact settleFrame_agrees hread
  · exact hread

theorem ltuFrame_agrees (h : Agrees s) : Agrees (ltuFrame b s) := by
  have hpermit := h.kept (permitStart_runKept b s)
  unfold ltuFrame
  split
  · dsimp only
    split
    · split
      · exact raiseFault_agrees (hpermit.kept (updLtu_runKept b _ _)) _
      · exact advance_agrees (hpermit.kept (leakFrame_runKept b _ _))
    · exact hpermit
  · exact h

/-! ### Windows -/

theorem setWindow_bay (b : Bay) (s : State) (w : Option Window) : (s.setWindow b w).bay b = { s.bay b with window := w } :=
  s.bay_updBay_same b _

/-- An open window goes on. -/
theorem setWindow_agrees (h : Agrees s) (hw : (s.bay b).window.isSome = true) (w : Window) : Agrees (s.setWindow b (some w)) := by
  have hb := h.bays b trivial
  have hbay := setWindow_bay b s (some w)
  refine ⟨h.nodup, fun q hq _ => ?_, fun c _ => ?_⟩
  · rw [State.setWindow_ris]
    exact h.queue q hq trivial
  · by_cases hc : c = b
    · subst hc
      refine ⟨?_, fun l u hu he => ?_, fun _ => ?_⟩
      · rw [hbay]; exact ⟨hb.runs.work, hb.runs.rest⟩
      · rw [hbay]; exact ⟨(hb.lanes l u hu he).1, rfl⟩
      · rw [hbay]; exact hb.window hw
    · exact (h.bays c trivial).congr (State.setWindow_ne s (Ne.symm hc) _) rfl

theorem discardBlock_agrees (h : Agrees s) : Agrees (discardBlock b s) := by
  unfold discardBlock
  split
  · exact h
  · next w hw =>
    split
    · exact h
    · have hset := setWindow_agrees h (by rw [hw]; rfl) w.dropBlock
      dsimp only
      split
      · exact hset.kept (emitBay_runKept b _ _ _)
      · exact hset

theorem windowFrame_agrees (h : Agrees s) : Agrees (windowFrame b s) := by
  unfold windowFrame
  split
  · next w r hw _ =>
    have hset := setWindow_agrees h (by rw [hw]; rfl) w.beginBlock
    dsimp only
    split
    · exact setWindow_agrees hset (by rw [setWindow_bay]; rfl) _
    · exact discardBlock_agrees hset
  · exact h

/-- A window that is dropped leaves a bay in MEASURE that holds nothing (R116). -/
theorem dropWindow_holdsNone (h : Agrees s) (hw : (s.bay b).window.isSome = true) :
    Agrees (dropWindow b s) ∧ HoldsNone b (dropWindow b s) := by
  have hb := h.bays b trivial
  have hphase := hb.window hw
  have hbay : (dropWindow b s).bay b = { s.bay b with window := none } := by rw [dropWindow_bay, if_pos rfl]
  have hn : HoldsNone b (dropWindow b s) := by
    refine ⟨⟨fun q hq he => ?_, fun l u hu => freeBayLanes_clear b _ l u hu⟩, by rw [hbay]⟩
    have hwait := h.queue q hq trivial
    rw [he, hphase] at hwait
    cases hwait
  refine ⟨(dropWindow_agrees (h.beside b)).join hn ?_, hn⟩
  rw [hbay]
  exact ⟨hb.runs.work, hb.runs.rest⟩

theorem closeWindow_agrees (h : Agrees s) : Agrees (closeWindow b s) := by
  unfold closeWindow
  split
  · next w r hw _ =>
    have hsome : (s.bay b).window.isSome = true := by rw [hw]; rfl
    have hphase := (h.bays b trivial).window hsome
    obtain ⟨hr, hp⟩ := (h.bays b trivial).runs.inRunin (by rw [hphase]; decide) (by rw [hphase]; decide)
    obtain ⟨hdrop, hn⟩ := dropWindow_holdsNone h hsome
    have htake := (hdrop.works hn (by rw [dropWindow_bay, if_pos rfl]; exact ⟨hr, hp⟩) (takeResult_risWork b _ (w.result r))).1
    have hgrant := grantTest_agrees (htake.kept (emitBay_runKept b _ .noiseAttempt (some (w.result r).outcome.name))) fun _ _ => trivial
    dsimp only
    split
    · exact earlyEnd_agrees hgrant
    · exact advance_agrees hgrant
  · exact h

theorem oaeFrame_agrees (h : Agrees s) : Agrees (oaeFrame b s) := by
  have hframe := windowFrame_agrees (b := b) h
  unfold oaeFrame
  dsimp only
  split
  · exact closeWindow_agrees hframe
  · exact hframe

/-! ### Ticks of one bay -/

theorem standstillSet_agrees (h : Agrees s) : Agrees (standstillSet b s) :=
  testStopped_agrees (((advance_agrees (standstillTest_agrees h)).kept (permitStart_runKept b _)).kept (coolTest_runKept b _))

theorem spuTick_agrees (h : Agrees s) : Agrees (spuTick b s) := by
  have hset := h.kept (updSpu_runKept b s Spu.tick)
  unfold spuTick
  dsimp only
  split
  · exact standstillSet_agrees hset
  · exact hset

theorem driveTick_runKept (b : Bay) (s : State) : RunKept b s (driveTick b s) := .ite (writeSummary_runKept b s _) (.refl b s)

theorem holdTick_runKept (b : Bay) (s : State) : RunKept b s (holdTick b s) := by
  unfold holdTick
  exact ((updRis_runKept b s rfl fun hr => hr).trans (writeSummary_runKept b _ _)).trans (emitBay_runKept b _ _ _)

theorem risCountTick_agrees (h : Agrees s) : Agrees (risCountTick b s) := by
  have hcount : RunKept b s (if ((driveTick b s).bay b).ris.hold = true then holdTick b (driveTick b s) else driveTick b s) :=
    (driveTick_runKept b s).trans (.ite (holdTick_runKept b _) (.refl b _))
  exact (h.kept hcount).faultIf _

theorem risPhaseEnd_agrees (h : Agrees s) : Agrees (risPhaseEnd b s) := by
  have hruns := (h.bays b trivial).runs
  unfold risPhaseEnd
  split
  · exact raiseFault_agrees h _
  · split
    · next hp =>
      have hin := hruns.inRunin (by rw [hp]; decide) (by rw [hp]; decide)
      exact advance_agrees (h.works (h.holdsNone (by rw [hp]; decide) (by rw [hp]; decide)) hin (finishStep_risWork b s)).1
    · next hp =>
      have hin := hruns.inRunin (by rw [hp]; decide) (by rw [hp]; decide)
      exact (h.works (h.holdsNone (by rw [hp]; decide) (by rw [hp]; decide)) hin (enterSettle_risWork b s)).1
    · exact h

theorem risPhaseTick_agrees (h : Agrees s) : Agrees (risPhaseTick b s) := by
  unfold risPhaseTick
  split
  · split
    · next hramp =>
      split
      · exact h
      · exact advance_agrees (rampTick_agrees h (ramps_of_rampInForce hramp) _ _ _ _)
    · split
      · have hset := h.kept (updRis_runKept b s (f := fun x => { x with phaseTimer := (s.bay b).ris.phaseTimer + 1 }) rfl fun hr => hr)
        dsimp only
        split
        · exact risPhaseEnd_agrees hset
        · exact hset
      · exact h
  · exact h

theorem windowTick_agrees (h : Agrees s) : Agrees (windowTick b s) := by
  unfold windowTick
  split
  · next w hw =>
    have hsome : (s.bay b).window.isSome = true := by rw [hw]; rfl
    dsimp only
    split
    · exact closeWindow_agrees (setWindow_agrees h hsome _)
    · exact setWindow_agrees h hsome _
  · exact h

theorem bycTick_agrees (h : Agrees s) : Agrees (bycTick b s) := by
  have hset : Agrees (if (s.bay b).ctl.state = .stopping then s.updCtl b fun c => { c with stoppingTime := c.stoppingTime + 1 } else s) :=
    h.kept (.ite (updCtl_runKept b s _ fun _ => ⟨rfl, rfl⟩) (.refl b s))
  unfold bycTick
  dsimp only
  split
  · have hlock := (hset.kept (latchAlarm_runKept b _ .stopTimeout)).kept
      (updCtl_runKept b _ (fun c => { c with lockPending := true }) fun _ => ⟨rfl, rfl⟩)
    exact enterComplete_agrees (hlock.beside b)
  · exact hset

theorem leakTick_agrees (h : Agrees s) : Agrees (leakTick b s) :=
  testStopped_agrees (advance_agrees (h.kept (ltuTick_runKept b s)))

/-! ### The allocator's tick -/

/-- A request withdrawn: the bay holds nothing then, and no other bay is touched (R109). -/
theorem withdrawRequest_agrees (h : Agrees s) (hp : (s.bay b).ris.phase = .measureWait) :
    Agrees (withdrawRequest b s) ∧ ∀ c, c ≠ b → (withdrawRequest b s).bay c = s.bay c := by
  have hb := h.bays b trivial
  have hin := hb.runs.inRunin (by rw [hp]; decide) (by rw [hp]; decide)
  have hout := withoutRequest_agrees h b
  have hn : HoldsNone b (s.withoutRequest b) := by
    refine ⟨⟨fun q hq => (withoutRequest_queue hq).2, fun l u hu he => ?_⟩, ?_⟩
    · have := (hb.lanes l u hu he).1
      rw [hp] at this
      cases this
    · show (s.bay b).window = none
      rw [← Option.not_isSome_iff_eq_none]
      intro hs
      have := hb.window hs
      rw [hp] at this
      cases this
  have hmark : RisWork b (s.withoutRequest b)
      (takeResult b (.nomeas .laneWait) (((s.withoutRequest b).latchAlarm b .laneWait).emitBay .noiseAttempt b (some .nomeas))).state :=
    ((latchAlarm_runKept b _ _).trans (emitBay_runKept b _ _ _)).risWork.trans (takeResult_risWork b _ _)
  obtain ⟨htake, hn'⟩ := hout.works hn hin hmark
  refine ⟨advance_agrees htake, fun c hc => ?_⟩
  exact ((hmark.toOnlyBay.trans (advance_onlyBay hn')).other c hc).trans rfl

theorem raiseWaits_agrees (h : Agrees s) : Agrees s.raiseWaits := by
  have hbays : s.raiseWaits.oae.queue.map (·.bay) = s.oae.queue.map (·.bay) := by simp [State.raiseWaits]
  refine ⟨by unfold OneRequestPerBay; rw [hbays]; exact h.nodup, fun q hq _ => ?_, fun c hc => (h.bays c hc).congr rfl rfl⟩
  obtain ⟨x, hx, rfl⟩ := List.mem_map.mp hq
  exact h.queue x hx trivial

/-- The withdrawals of bays in MEASURE_WAIT, each at most once. -/
theorem withdrawals_agree (leaving l : List Bay) (hl : l.Nodup) (h : Agrees s)
    (hp : ∀ c ∈ l, c ∈ leaving → (s.bay c).ris.phase = .measureWait) :
    Agrees (overBays (fun c t => if leaving.contains c then withdrawRequest c t else t) l s) := by
  induction l generalizing s with
  | nil => exact h
  | cons c rest ih =>
    obtain ⟨hc, hrest⟩ := List.nodup_cons.mp hl
    have htail : ∀ d ∈ rest, d ∈ leaving → (s.bay d).ris.phase = .measureWait := fun d hd => hp d (List.mem_cons_of_mem c hd)
    unfold overBays
    rw [List.foldl_cons]
    dsimp only
    split
    · next hm =>
      obtain ⟨hdrawn, hother⟩ := withdrawRequest_agrees h (hp c List.mem_cons_self (List.contains_iff_mem.mp hm))
      refine ih hrest hdrawn fun d hd hleave => ?_
      rw [hother d fun he => hc (he ▸ hd)]
      exact htail d hd hleave
    · exact ih hrest h htail

theorem allocTick_agrees (h : Agrees s) (bays : List Bay) : Agrees (allocTick bays s) := by
  have hleave := withdrawals_agree ((s.oae.queue.filter s.waitExpires).map (·.bay)) (bayOrder bays).eraseDups
    (nodup_eraseDups _) (raiseWaits_agrees h) fun c _ hc => by
      obtain ⟨q, hq, rfl⟩ := List.mem_map.mp hc
      exact h.queue q (List.mem_filter.mp hq).1 trivial
  unfold allocTick
  extract_lets leaving head
  generalize head = granting
  split
  · exact grantTest_agrees hleave fun _ _ => trivial
  · exact hleave

/-! ### The part's ticks and frames -/

/-- Turns of the bays or units that each keep the agreement. -/
theorem AgreesOn.foldl {α : Type} {f : State → α → State} (hf : ∀ t x, Agrees t → Agrees (f t x)) (l : List α) (h : Agrees s) :
    Agrees (l.foldl f s) := by
  induction l generalizing s with
  | nil => exact h
  | cons x xs ih => exact ih (hf s x h)

theorem deliverLink_agrees (h : Agrees s) (bays : List Bay) : Agrees (deliverLink bays s) := by
  refine h.foldl (fun t c ht => ?_) _
  dsimp only
  split
  · exact raiseFault_agrees ht _
  · exact ht

theorem lfeTick_agrees (h : Agrees s) (bays : List Bay) : Agrees (lfeTick bays s) := by
  have hquiet : Agrees (if s.lfe.link = .up then { s with lfe := s.lfe.quieter } else s) := by
    split
    · exact h.same rfl rfl
    · exact h
  unfold lfeTick
  dsimp only
  split
  · refine deliverLink_agrees ?_ bays
    exact hquiet.same rfl rfl
  · exact hquiet

theorem tickUnit_agrees (h : Agrees s) (bays : List Bay) (u : TickUnit) : Agrees (tickUnit bays u s) := by
  cases u with
  | lfe => exact lfeTick_agrees h bays
  | risCount b => exact risCountTick_agrees h
  | risPhase b => exact risPhaseTick_agrees h
  | spu b => exact spuTick_agrees h
  | alloc => exact allocTick_agrees h bays
  | window b => exact windowTick_agrees h
  | ltu b => exact leakTick_agrees h
  | byc b => exact bycTick_agrees h
  | stc => exact h.same rfl rfl

theorem openTick_agrees (h : Agrees s) : Agrees (openTick s) := by
  unfold openTick
  split
  · exact h.same rfl rfl
  · exact h

theorem wholeTick_agrees (h : Agrees s) (units : List TickUnit) (bays : List Bay) : Agrees (wholeTick units bays s) :=
  ((openTick_agrees h).foldl (fun _ u ht => tickUnit_agrees ht bays u) _).same rfl rfl

theorem expire_agrees (h : Agrees s) (bays : List Bay) (u : TickUnit) (e : Bool) : Agrees (expire bays u e s) := by
  unfold expire
  split
  · exact (tickUnit_agrees (openTick_agrees h) bays u).same rfl rfl
  · exact h

theorem frameTask_agrees (h : Agrees s) (s0 : State) (x : FrameTask) : Agrees (frameTask s0 x s) := by
  obtain ⟨b, u⟩ := x
  unfold frameTask
  cases u with
  | enter => exact enterTest_agrees h
  | fixture => exact fixtureTest_agrees h s0
  | stale => exact staleTest_agrees h s0
  | ris =>
    dsimp only
    split
    · exact h
    · exact risFrame_agrees h _
  | ltu =>
    dsimp only
    split
    · exact h
    · exact ltuFrame_agrees h
  | oae =>
    dsimp only
    split
    · exact oaeFrame_agrees h
    · exact h

theorem missingTask_agrees (h : Agrees s) (x : FrameTask) : Agrees (missingTask x s) := by
  obtain ⟨b, u⟩ := x
  cases u with
  | stale => exact staleTest_agrees h s
  | oae => exact discardBlock_agrees h
  | enter | fixture | ris | ltu => exact h

theorem missingFrames_agrees (h : Agrees s) (k : Nat) (tasks : List FrameTask) : Agrees (missingFrames k tasks s) :=
  AgreesOn.foldl (fun _ x ht => missingTask_agrees ht x) _ (h.same rfl rfl)

theorem acceptFrame_agrees (h : Agrees s) (f : Bytes) (tasks : List FrameTask) : Agrees (acceptFrame f tasks s) := by
  unfold acceptFrame
  refine AgreesOn.foldl (fun t x ht => frameTask_agrees ht _ x) _ ?_
  exact AgreesOn.foldl (fun t b ht => ht.kept (updSpu_runKept b t _)) _ (h.same rfl rfl)

theorem resyncSpus_agrees (h : Agrees s) : Agrees (resyncSpus s) := h.foldl (fun t b ht => ht.kept (updSpu_runKept b t _)) _

theorem takeSample_agrees (h : Agrees s) (f : Bytes) (tasks : List FrameTask) : Agrees (takeSample f tasks s) := by
  have herror : Agrees (seqError s) := h.same rfl rfl
  unfold takeSample
  split
  · exact acceptFrame_agrees h f tasks
  · exact acceptFrame_agrees (missingFrames_agrees h _ tasks) f tasks
  · exact (missingFrames_agrees herror 1 tasks).same rfl rfl
  · exact acceptFrame_agrees (resyncSpus_agrees herror) f tasks

theorem goodFrame_agrees (h : Agrees s) (x : Bool) : Agrees (goodFrame x s) := by
  unfold goodFrame
  split
  · exact h.same rfl rfl
  · exact h.same rfl rfl
  · dsimp only
    split
    · exact resyncSpus_agrees (h.same rfl rfl)
    · exact h.same rfl rfl

theorem forwardSample_agrees (h : Agrees s) (f : Bytes) : Agrees (forwardSample f s) := by
  unfold forwardSample
  dsimp only
  split <;> exact h.same rfl rfl

theorem sampleArrives_agrees (h : Agrees s) (f : Bytes) (tasks : List FrameTask) : Agrees (sampleArrives f tasks s) := by
  have hgood := goodFrame_agrees h true
  unfold sampleArrives badSample
  dsimp only
  split
  · refine forwardSample_agrees ?_ f
    split
    · exact hgood
    · exact takeSample_agrees hgood f tasks
  · have herror : Agrees s.frameError := h.same rfl rfl
    refine AgreesOn.same (s := if s.frameError.lfe.link = .lost then s.frameError else missingFrames 1 tasks
      { s.frameError with lfe := { s.frameError.lfe with lastSeq := s.frameError.lfe.lastSeq.map (· + 1) } }) ?_ rfl rfl
    split
    · exact herror
    · refine missingFrames_agrees ?_ 1 tasks
      exact herror.same rfl rfl

theorem outputArrives_agrees (h : Agrees s) (f : Bytes) : Agrees (outputArrives f s) := by
  have hgood := goodFrame_agrees h false
  unfold outputArrives outputShort
  dsimp only
  split
  · split <;> exact hgood.same rfl rfl
  · exact h.same rfl rfl

end

end Sys2Proof.Machine
end

section
/-! Lanes and RIS phases under every command (O8). -/

namespace Sys2Proof.Machine

section
variable {s t : State}

/-! ### Commands that reach neither bay nor allocator -/

theorem enqueueRequest_agrees (h : Agrees s) (f : Bytes) : Agrees (enqueueRequest f s) := by
  unfold enqueueRequest
  split <;> exact h.same rfl rfl

theorem requestArrives_agrees (h : Agrees s) (f : Bytes) : Agrees (requestArrives f s) := by
  unfold requestArrives
  split
  · split
    · exact enqueueRequest_agrees h f
    · exact h.same rfl rfl
  · split
    · exact enqueueRequest_agrees (h.same (t := s.sendF f) rfl rfl) f
    · exact h.same rfl rfl
  all_goals exact h

theorem frameArrives_agrees (h : Agrees s) (p : Port) (f : Bytes) : Agrees (frameArrives p f s) := by
  unfold frameArrives
  split
  · cases p <;> exact h.same rfl rfl
  · exact h

theorem insertResponse_agrees (h : Agrees s) : Agrees (insertResponse s) := by
  unfold insertResponse
  split
  · exact h
  · split
    · exact h.same rfl rfl
    · exact h

theorem insertReportPart_oae (s : State) : (insertReportPart s).oae = s.oae := by
  unfold insertReportPart
  split
  · rfl
  split
  · rfl
  split
  · dsimp only
    split <;> rfl
  · rfl

theorem serveRefusal_agrees (h : Agrees s) : Agrees (serveRefusal s) := by
  unfold serveRefusal
  split
  · split
    · exact h.same rfl rfl
    · exact h
  · exact h

theorem reset_agrees : Agrees State.reset := by
  obtain ⟨-, -, -, -, -, hrun, hlanes, -⟩ := resetMeetsInvariants
  exact (agrees_iff _).mpr ⟨hrun, hlanes⟩

theorem powerOn_agrees (strap : BitVec 6) (s : State) : Agrees (powerOn strap s) := reset_agrees.same rfl rfl

theorem resetPart_agrees (s : State) : Agrees s.resetPart := reset_agrees.same rfl rfl

theorem applyReset_agrees (h : Agrees s) : Agrees (applyReset s) := by
  unfold applyReset
  split
  · exact resetPart_agrees s
  · exact h

/-! ### Management commands -/

/-- The RIS of a bay that is neither RUNNING nor STOPPING is in IDLE. -/
theorem AgreesOn.idle (h : Agrees s) {b : Bay} (hr : (s.bay b).ctl.state ≠ .running) (hs : (s.bay b).ctl.state ≠ .stopping) :
    (s.bay b).ris.phase = .idle := by
  by_contra hi
  obtain ⟨hc, -⟩ | ⟨hc, -⟩ := (h.bays b trivial).runs.work hi
  · exact hr hc
  · exact hs hc

/-- A change of a bay whose RIS is and stays in IDLE. -/
theorem AgreesOn.atRest (h : Agrees s) {b : Bay} (hi : (s.bay b).ris.phase = .idle) (g : OnlyBay b s t)
    (hris : (t.bay b).ris = (s.bay b).ris) (hw : (t.bay b).window = (s.bay b).window) : Agrees t := by
  have hnone : HoldsNone b s := h.holdsNone (by simp [hi]) (by simp [hi])
  refine ((h.beside b).only g).join (hnone.only g hw) (.of_idle ?_ ?_) <;> rw [hris]
  · exact hi
  · exact (h.bays b trivial).runs.rest

theorem openTest_agrees (h : Agrees s) {b : Bay} (hb : (s.bay b).ctl.state = .vacant) (k : SlotIx) (r : Recipe) (serial : Bytes)
    (i : RecIx) (roles : List (Role × EntryIx)) : Agrees (openTest b k r serial i roles s) := by
  have hopened : Agrees (({ s with art := s.art.set i (some (openingRecord s b k r serial)) } : State).pin k) := h.same rfl rfl
  have hi : (s.bay b).ris.phase = .idle := h.idle (by simp [hb]) (by simp [hb])
  have hstarted := hopened.atRest hi (updBay_onlyBay b _ fun u => { u with ctl := BayCtl.start k r.plan roles i u.ctl })
    (by simp) (by simp)
  exact hstarted.kept (updSpu_runKept b _ fun _ => Spu.started r.spuParams)

theorem unloadBay_agrees (h : Agrees s) {b : Bay} (hb : (s.bay b).ctl.state = .complete) : Agrees (unloadBay b s) := by
  have hunloaded := h.atRest (h.idle (by simp [hb]) (by simp [hb])) (updBay_onlyBay b s fun u => { u with ctl := u.ctl.unload })
    (by simp) (by simp)
  exact hunloaded.kept (updSpu_runKept b _ fun _ => Spu.reset)

theorem BayCtl.lock_running {c : BayCtl} (h : c.state = .running ∨ c.state = .stopping) :
    c.lock.state = c.state ∧ c.lock.subPhase = c.subPhase := by
  unfold BayCtl.lock
  obtain h | h := h <;> simp [h]

theorem lock_agrees (h : Agrees s) (b : Bay) : Agrees (s.updCtl b BayCtl.lock) := by
  by_cases hs : (s.bay b).ctl.state = .running ∨ (s.bay b).ctl.state = .stopping
  · obtain ⟨hstate, hsub⟩ := BayCtl.lock_running hs
    exact h.kept ⟨updBay_onlyBay b s _, by simp, by simp, by simp, by simpa using hstate, by simpa using hsub⟩
  · obtain ⟨hr, hst⟩ := not_or.mp hs
    exact h.atRest (h.idle hr hst) (updBay_onlyBay b s _) (by simp) (by simp)

theorem served_agrees {c : Command} (h : Agrees s) (hc : Served s c t) : Agrees t := by
  cases hc with
  | unchanged => exact h
  | start b k r serial i roles hb hk hi => exact openTest_agrees h hb k r serial i roles
  | abortReady b hb => exact enterComplete_agrees ((h.beside b).only (setCause_onlyBay b .operator s))
  | abortRunning b hb => exact abortBay_agrees h .operator
  | unload b hb => exact unloadBay_agrees h hb
  | lock b => exact lock_agrees h b
  | unlock b hb => exact h.atRest (h.idle (by simp [hb]) (by simp [hb])) (updBay_onlyBay b s _) (by simp) (by simp)
  | ackBay b mask => exact h.kept (updCtl_runKept b s _ fun _ => ⟨rfl, rfl⟩)
  | params | resetTaken | channelMap | outputMap | slot | ackCell | release | counter | snapshot => exact h.same rfl rfl

theorem serve_agrees (h : Agrees s) (c : Command) : Agrees (serve c c.body s) := by
  obtain hc | ⟨q, -, hc⟩ | ⟨q, -, hc⟩ := serve_cases c c.body s <;> rw [hc]
  · exact h
  · exact h.same rfl rfl
  · have hbody : Agrees (c.body (reqArgs q.payload) s.popRequest).state :=
      served_agrees (h.same (t := s.popRequest) rfl rfl) (body_served _ _ c)
    exact hbody.same rfl rfl

/-! ### Every command -/

theorem exec_agrees {c : Instr} (h : Agrees s) (he : exec c s = .next t) : Agrees t := by
  have hserve (m : Command) (he : exec m.instr s = .next t) : Agrees t := by
    rw [exec_instr] at he
    cases he
    exact serve_agrees h m
  cases c with
  | powerOn strap => cases he; exact powerOn_agrees strap s
  | msTick units bays => cases he; exact wholeTick_agrees h units bays
  | sampleFrame f l =>
    cases he
    split
    · exact sampleArrives_agrees h f l
    · exact h
  | outputFrame f =>
    cases he
    split
    · exact outputArrives_agrees h f
    · exact h
  | mgmtReqReceive f => cases he; exact requestArrives_agrees h f
  | framePassThrough p f => cases he; exact frameArrives_agrees h p f
  | responseInsert => cases he; exact insertResponse_agrees h
  | reportPartInsert => cases he; exact h.same (insertReportPart_bays s) (insertReportPart_oae s)
  | resetApply => cases he; exact applyReset_agrees h
  | unknownCommand => cases he; exact serveRefusal_agrees h
  | identify => exact hserve .identify he
  | setCellParams => exact hserve .setCellParams he
  | readCellParams => exact hserve .readCellParams he
  | loadChannelMap => exact hserve .loadChannelMap he
  | loadOutputMap => exact hserve .loadOutputMap he
  | readChannel => exact hserve .readChannel he
  | recipePage => exact hserve .recipePage he
  | recipeCommit => exact hserve .recipeCommit he
  | recipeErase => exact hserve .recipeErase he
  | recipeStatus => exact hserve .recipeStatus he
  | bayStart => exact hserve .bayStart he
  | bayAbort => exact hserve .bayAbort he
  | bayUnload => exact hserve .bayUnload he
  | bayLock => exact hserve .bayLock he
  | bayUnlock => exact hserve .bayUnlock he
  | ackAlarms => exact hserve .ackAlarms he
  | readBay => exact hserve .readBay he
  | readRecord => exact hserve .readRecord he
  | releaseRecord => exact hserve .releaseRecord he
  | counterSetup => exact hserve .counterSetup he
  | counterSnapshot => exact hserve .counterSnapshot he
  | resetPart => exact hserve .resetPart he
  | standstillJudged | stopTimeout | linkLoss | settleTimeout | dwellEnd | rerunEnd | maxHoldTime | laneWaitLimit | windowLimit
  | coolWaitLimit | fillTimeout | leakSettleEnd | leakMeasureEnd | ventEnd =>
    cases he
    exact expire_agrees h _ _ _

theorem step_agrees (h : Agrees s) (hs : step s = .next t) : Agrees t := by
  unfold step at hs
  split at hs
  · cases hs; exact h
  · next c rest _ => exact exec_agrees (h.same (t := { s with pending := rest }) rfl rfl) hs

end

/-- Settles O8: bay by bay, each operation leaves the bay's phase, state and sub-phase, or takes its request, lanes and window from
the allocator before its RIS goes on. -/
theorem stepKeepsLanes : Obligations.StepKeepsLanes := fun s t hrun hlanes hs =>
  (agrees_iff t).mp (step_agrees ((agrees_iff s).mpr ⟨hrun, hlanes⟩) hs)

end Sys2Proof.Machine
end

section
/-! The ramp tick, the shaft phase step and the block amplitude as arithmetic (O48). -/

namespace Sys2Proof.Machine

/-! ### Ramp tick (R89) -/

/-- A tick's move size: rate × 16 / 1000 rounded down, or one more for the fraction carried. -/
theorem rampSize_le (rate : Nat) {frac : Nat} (h : frac < 1000) : (frac + 16 * rate) / 1000 ≤ rate * 16 / 1000 + 1 := by omega

/-- A move toward the target stays between the commanded speed and the target. -/
theorem rampMove_le {target maxSpeed cmd : Nat} (size : Nat) (hc : cmd ≤ maxSpeed) (ht : target ≤ maxSpeed) :
    (if cmd ≤ target then min target (cmd + size) else max target (cmd - size)) ≤ maxSpeed := by
  split <;> omega

/-- A move is at most of its size. -/
theorem rampMove_dist (target cmd size : Nat) :
    (((if cmd ≤ target then min target (cmd + size) else max target (cmd - size) : Nat) : Int) - cmd).natAbs ≤ size := by
  split <;> omega

theorem rampStep_fst {target maxSpeed cmd : Nat} (rate frac : Nat) (hc : cmd ≤ maxSpeed) (ht : target ≤ maxSpeed) :
    (rampStep rate target maxSpeed cmd frac).1 =
      if cmd ≤ target then min target (cmd + (frac + 16 * rate) / 1000) else max target (cmd - (frac + 16 * rate) / 1000) :=
  min_eq_right (rampMove_le _ hc ht)

theorem rampStep_dist {target maxSpeed cmd frac : Nat} (rate : Nat) (hc : cmd ≤ maxSpeed) (ht : target ≤ maxSpeed)
    (hf : frac < 1000) : (((rampStep rate target maxSpeed cmd frac).1 : Int) - cmd).natAbs ≤ rate * 16 / 1000 + 1 := by
  rw [rampStep_fst rate frac hc ht]
  exact (rampMove_dist target cmd _).trans (rampSize_le rate hf)

/-! ### Shaft phase step (R119) -/

/-- Half a divisor added ahead of the division rounds to the nearest integer. -/
theorem phaseStep_nearest (v : Nat) : (phaseStep v : Int) = ⌊((v * 2 ^ 32 : Nat) : ℚ) / 30720000 + 1 / 2⌋ := by
  have hhalf : ((v * 2 ^ 32 : Nat) : ℚ) / 30720000 + 1 / 2 = ((v * 2 ^ 32 + 15360000 : Nat) : ℚ) / (30720000 : Nat) := by
    push_cast
    ring
  rw [hhalf, Rat.floor_natCast_div_natCast]
  rfl

/-! ### Integer root (R125) -/

/-- Each bit tried keeps the root sought between the bits found so far and those with every lower bit set. -/
theorem isqrtBits_eq_sqrt (n : Nat) (k root : Nat) (hlo : root ^ 2 ≤ n) (hhi : n < (root + 2 ^ k) ^ 2) :
    isqrtBits n k root = Nat.sqrt n := by
  induction k generalizing root with
  | zero => exact Nat.eq_sqrt'.mpr ⟨hlo, hhi⟩
  | succ k ih =>
    have hdouble : root + 2 ^ (k + 1) = root + 2 ^ k + 2 ^ k := by ring
    unfold isqrtBits
    split
    · next htaken => exact ih _ htaken (hdouble ▸ hhi)
    · next hleft => exact ih _ hlo (not_le.mp hleft)

theorem isqrt_eq_sqrt (n : Nat) : isqrt n = Nat.sqrt n := by
  refine isqrtBits_eq_sqrt n _ 0 (Nat.zero_le n) ?_
  calc n < 2 ^ (n.log2 + 1) := Nat.lt_log2_self
    _ ≤ 2 ^ ((n.log2 / 2 + 1) * 2) := Nat.pow_le_pow_right two_pos (by omega)
    _ = (0 + 2 ^ (n.log2 / 2 + 1)) ^ 2 := by rw [pow_mul, zero_add]

/-- Settles O48: the ramp's final limit to the maximum speed never binds, and the bitwise root is the integer square root. -/
theorem arithmeticExact : Obligations.ArithmeticExact := by
  refine ⟨fun rate target maxSpeed cmd frac hc ht hf => ⟨rampStep_fst rate frac hc ht, rfl, ?_, rampStep_dist rate hc ht hf⟩,
    phaseStep_nearest, fun n a => ?_⟩
  · rw [rampStep_fst rate frac hc ht]
    exact rampMove_le _ hc ht
  · rw [blockAmplitude, isqrt_eq_sqrt]

end Sys2Proof.Machine
end

section
/-! The ends of a rerun dwell and of a leak settle time (O55). -/

namespace Sys2Proof.Machine

section
variable {b : Bay} {r : Recipe} {st : Step} {s : State}

theorem risLimit_rerun (hp : (s.bay b).ris.phase = .rerun) (hh : (s.bay b).ris.hold = false) :
    s.risLimit b r st = some st.rerunDwell := by
  simp [State.risLimit, State.settleTimed, hp, hh]

/-- A rerun dwell that has lasted its time (R99). -/
theorem risPhaseTick_rerun (hq : s.recipeOf b = some r) (hst : s.stepOf b = some st) (hp : (s.bay b).ris.phase = .rerun)
    (hh : (s.bay b).ris.hold = false) (ht : st.rerunDwell ≤ (s.bay b).ris.phaseTimer + 1) :
    risPhaseTick b s = s.updRis b fun x => { x with phase := .settle, phaseTimer := 0 } := by
  have hramp : rampInForce r st (s.bay b).ris = none := by simp [rampInForce, hp]
  have hend {t : State} (hpt : (t.bay b).ris.phase = .rerun) : risPhaseEnd b t = enterSettle b t := by
    simp [risPhaseEnd, State.settleTimed, hpt]
  unfold risPhaseTick
  rw [hq, hst]
  dsimp only
  rw [hramp, risLimit_rerun hp hh]
  dsimp only
  rw [if_pos ht, hend (by rw [State.updRis_ris_same]; exact hp), enterSettle, State.updRis_updRis]

theorem exec_rerunEnd (ha : s.awaits (.risPhase b)) (hq : s.recipeOf b = some r) (hst : s.stepOf b = some st)
    (hp : (s.bay b).ris.phase = .rerun) (hh : (s.bay b).ris.hold = false)
    (ht : st.rerunDwell ≤ (s.bay b).ris.phaseTimer + 1) :
    exec (.rerunEnd b) s = .next
      ((s.serving (.risPhase b)).updRis b fun x => { x with phase := .settle, phaseTimer := 0 }) := by
  have hexp : (s.risIn b .rerun && s.risExpires b) = true := by
    simp [State.risIn, State.risExpires, hp, hq, hst, risLimit_rerun hp hh, ht]
  have htick : tickUnit [] (.risPhase b) (s.ticking (.risPhase b)) =
      (s.ticking (.risPhase b)).updRis b fun x => { x with phase := .settle, phaseTimer := 0 } :=
    risPhaseTick_rerun (s := s.ticking (.risPhase b)) hq hst hp hh ht
  refine congrArg Host.Outcome.next ((expire_ticking hexp ha).trans ?_)
  rw [htick]
  rfl

end

section
variable {b : Bay} {c : Cavity} {s : State} (hc : s.cavityOf b = some c) (hp : (s.bay b).ltu.phase = .settle)
  (ht : c.settleTime ≤ (s.bay b).ltu.phaseTimer + 1)
include hc hp ht

/-- A leak settle time that has passed (R134). -/
theorem ltuTick_settle :
    ltuTick b s = s.updLtu b (Ltu.enterMeasure (s.roleReading b c.pressRole) (s.roleReading b c.tempRole)) := by
  have hlimit : (s.bay b).ltu.limit c = some c.settleTime := by unfold Ltu.limit; rw [hp]
  have hend {t : State} (hpt : (t.bay b).ltu.phase = .settle) : phaseEnd b c t = settleEnd b c t := by unfold phaseEnd; rw [hpt]
  have hread (f : Ltu → Ltu) (x : Role) : (s.updLtu b f).roleReading b x = s.roleReading b x := by
    unfold State.roleReading State.roleLatch State.roleEntry
    rw [State.updLtu_ctl]
    rfl
  unfold ltuTick
  rw [hc]
  dsimp only
  rw [hlimit]
  dsimp only
  rw [if_pos ht, hend (by rw [State.updLtu_ltu_same]; exact hp)]
  unfold settleEnd State.cavityPressure State.cavityTemp
  rw [hread, hread, State.updLtu_updLtu]
  rfl

/-- The sub-phase goes on to the measurement. -/
theorem leakTick_settle (hin : s.inLeak b = true) :
    leakTick b s = s.updLtu b (Ltu.enterMeasure (s.roleReading b c.pressRole) (s.roleReading b c.tempRole)) := by
  obtain ⟨hr, hsub⟩ := (inLeak_iff b s).mp hin
  unfold leakTick
  rw [ltuTick_settle hc hp ht]
  generalize hv : s.updLtu b _ = v
  have hctl : (v.bay b).ctl = (s.bay b).ctl := by rw [← hv, State.updLtu_ctl]
  have hphase : (v.bay b).ltu.phase = .measure := by rw [← hv, State.updLtu_ltu_same]; rfl
  have hinv : v.inLeak b = true := (inLeak_iff b v).mpr (by rw [hctl]; exact ⟨hr, hsub⟩)
  have hstay : advance b v = v := if_neg (mt (leak_done hinv).mp (by rw [hphase]; exact nofun))
  rw [hstay]
  exact testStopped_of_ne (by rw [hctl, hr]; exact nofun)

theorem exec_leakSettleEnd (ha : s.awaits (.ltu b)) (hin : s.inLeak b = true) :
    exec (.leakSettleEnd b) s = .next ((s.serving (.ltu b)).updLtu b
      (Ltu.enterMeasure (s.roleReading b c.pressRole) (s.roleReading b c.tempRole))) := by
  have hexp : (s.ltuIn b .settle && s.ltuExpires b) = true := by simp [State.ltuIn, State.ltuExpires, hp, hc, Ltu.limit, ht]
  have htick : tickUnit [] (.ltu b) (s.ticking (.ltu b)) = (s.ticking (.ltu b)).updLtu b
      (Ltu.enterMeasure (s.roleReading b c.pressRole) (s.roleReading b c.tempRole)) :=
    leakTick_settle (s := s.ticking (.ltu b)) hc hp ht hin
  refine congrArg Host.Outcome.next ((expire_ticking hexp ha).trans ?_)
  rw [htick]
  rfl

end

/-- Settles O55: neither end is followed by another phase of the same tick, for SETTLE has no test on entry and MEASURE is no end of
the leak sub-phase. -/
theorem rerunAndLeakSettleEnd : Obligations.RerunAndLeakSettleEnd := fun _ _ =>
  ⟨fun _ _ ha hq hst hp hh ht => exec_rerunEnd ha hq hst hp hh ht, fun _ ha hin hc hp ht => exec_leakSettleEnd hc hp ht ha hin⟩

end Sys2Proof.Machine
end

section
/-! LANE_WAIT_LIMIT (O56) and WINDOW_LIMIT (O57) for a bay whose plan names RUNIN twice. Both statements say that a final
measurement raises steps completed by 1 unless the step after it is a STOP step. The last step of the recipe has none after it, but
at STANDSTILL its end takes the bay over to the next sub-phase of the plan in the same tick (R3, R13, R100). No plan of R3 has two
RUNINs, but neither statement limits the plan: a second RUNIN begins with the recipe's first step, and a STOP step there is finished
on entry (R88, R92), so steps completed rises by 2. -/

namespace Sys2Proof.Machine

/-! ### A bay in the MEASURE step that ends its first RUNIN -/

/-- A MEASURE step without lanes, whose window ends at its first tick and needs one valid block. -/
def lastMeasure : Step := { idleStep .measure with minBlocks := 1 }

/-- A STOP step, then the MEASURE step. -/
def stopMeasureRecipe : Recipe := { stopRunRecipe with steps := [idleStep .stop, lastMeasure], cavities := [] }

/-- The bay's OPEN record: no step completed, no noise entry. -/
def runinTwiceRecord : AxleRecord := openingRecord State.reset 0 0 stopMeasureRecipe []

/-- Bay 0 at STANDSTILL in the first of two RUNINs, in the recipe's last step with no retry left. -/
def runinTwice (phase : RisPhase) (window : Option Window) (queue : List LaneRequest) : State :=
  { State.reset with
    rbk := State.reset.rbk.set 0 { Slot.reset with state := .valid, recipe := some stopMeasureRecipe, pins := 1 }
    art := State.reset.art.set 0 (some runinTwiceRecord)
    oae := { State.reset.oae with queue := queue }
    bays := State.reset.bays.set 0
      { BayUnit.reset with
        ctl := { BayCtl.reset with
          state := .running, subPhase := some .runin, plan := [.runin, .runin], slot := some 0, bound := some 0 }
        ris := { Ris.reset with phase := phase, stepIndex := some 1, driveEnable := true }
        window := window } }

/-- Its request has waited to its limit. -/
def waitedRequest : LaneRequest := { bay := 0, need := 0, wait := 999 }

def waitingTwice : State := runinTwice .measureWait none [waitedRequest]

/-- Its window, just opened, has no valid block. -/
def openWindow : Window := Window.opened stopMeasureRecipe lastMeasure

def measuringTwice : State := runinTwice .measure (some openWindow) []

/-- No lane is bound, and no other bay is at work. -/
theorem runinTwice_lanes {phase : RisPhase} {window : Option Window} {queue : List LaneRequest}
    (hn : (queue.map (·.bay)).Nodup) (hq : ∀ q ∈ queue, q.bay = 0 ∧ phase = .measureWait)
    (hw : window.isSome = true → phase = .measure) : LanesAgree (runinTwice phase window queue) := by
  have hphase0 : ((runinTwice phase window queue).bay 0).ris.phase = phase := rfl
  have hwindow0 : ((runinTwice phase window queue).bay 0).window = window := rfl
  have hother {c : Bay} (hc : c ≠ 0) : (runinTwice phase window queue).bay c = .reset := by
    fin_cases c
    · exact absurd rfl hc
    all_goals rfl
  refine ⟨hn, fun q hmem => ?_, fun l u hu => ?_, fun c hc => ?_⟩
  · obtain ⟨hzero, hphase⟩ := hq q hmem
    rw [hzero, hphase0, hphase]
  · simp [runinTwice, State.reset, Vector.get_eq_getElem] at hu
  · by_cases hzero : c = 0
    · rw [hzero, hwindow0] at hc
      rw [hzero, hphase0, hw hc]
    · rw [hother hzero] at hc
      cases hc

/-- Bay, record and recipe as both statements read them. -/
theorem runinTwice_reads (phase : RisPhase) (window : Option Window) (queue : List LaneRequest) :
    (runinTwice phase window queue).recipeOf 0 = some stopMeasureRecipe
      ∧ (runinTwice phase window queue).inRunin 0 = true
      ∧ (runinTwice phase window queue).bindsOpen 0 0 runinTwiceRecord :=
  ⟨rfl, rfl, rfl, rfl, rfl⟩

/-- No step follows the last one. -/
theorem stopMeasureRecipe_ends (nx : Step) (h : stopMeasureRecipe.steps[1 + 1]? = some nx) : nx.kind ≠ .stop := nomatch h

/-! ### Steps completed rise by 2 -/

/-- The MEASURE step, and the STOP step of the second RUNIN. -/
theorem waitingTwice_completes : ((expire [] .alloc waitingTwice.anyWaitExpires waitingTwice).art.get 0).map
    (·.summary.stepsCompleted) = some 2 := by
  decide +kernel

theorem measuringTwice_completes : ((expire [] (.window 0) (measuringTwice.windowExpires 0) measuringTwice).art.get 0).map
    (·.summary.stepsCompleted) = some 2 := by
  decide +kernel

/-- Refutes O56: in `waitingTwice` the request is withdrawn with no budget left, and two steps are counted as completed. -/
theorem not_laneWaitWithdrawn : ¬ Obligations.LaneWaitWithdrawn := by
  intro h
  obtain ⟨hrecipe, hin, hrecord⟩ := runinTwice_reads .measureWait none [waitedRequest]
  have hagree : LanesAgree waitingTwice := runinTwice_lanes (by simp) (by simp [waitedRequest]) (by simp)
  obtain ⟨t, hex, -, -, -, -, -, -, -, -, hmeasure, -⟩ := h [] waitedRequest stopMeasureRecipe waitingTwice hagree
    (by simp [State.awaits, waitingTwice, runinTwice, State.reset]) (List.mem_singleton.mpr rfl) hrecipe (by decide)
  obtain ⟨-, hfinal⟩ := hmeasure 1 lastMeasure rfl rfl hin
  obtain ⟨-, hentry⟩ := hfinal rfl
  have hunshared (c : Bay) (hc : c ≠ 0) : (waitingTwice.bay c).ctl.bound ≠ some 0 := by
    revert c
    decide +kernel
  obtain ⟨y, hy, hsteps, -⟩ := hentry 0 runinTwiceRecord hrecord hunshared (by decide) nofun
  have ht : expire [] .alloc waitingTwice.anyWaitExpires waitingTwice = t := Host.Outcome.next.inj hex
  have hcompleted := waitingTwice_completes
  rw [ht, hy, Option.map_some, hsteps stopMeasureRecipe_ends] at hcompleted
  exact absurd hcompleted (by decide)

/-- Refutes O57: in `measuringTwice` the window closes with too few valid blocks and no budget left, and two steps are counted as
completed. -/
theorem not_windowLimitCloses : ¬ Obligations.WindowLimitCloses := by
  intro h
  obtain ⟨hrecipe, hin, hrecord⟩ := runinTwice_reads .measure (some openWindow) []
  have hagree : LanesAgree measuringTwice := runinTwice_lanes (by simp) (by simp) fun _ => rfl
  obtain ⟨t, hex, -, -, -, -, -, -, hmeasure⟩ := h 0 openWindow stopMeasureRecipe measuringTwice hagree
    (by simp [State.awaits, measuringTwice, runinTwice, State.reset]) rfl hrecipe (by decide)
  obtain ⟨hfew, -⟩ := hmeasure 1 lastMeasure hin rfl rfl
  obtain ⟨-, -, hfinal⟩ := hfew (by decide)
  obtain ⟨-, hentry⟩ := hfinal rfl
  obtain ⟨y, hy, hsteps, -⟩ := hentry 0 runinTwiceRecord hrecord (by decide) nofun
  have ht : expire [] (.window 0) (measuringTwice.windowExpires 0) measuringTwice = t := Host.Outcome.next.inj hex
  have hcompleted := measuringTwice_completes
  rw [ht, hy, Option.map_some, hsteps stopMeasureRecipe_ends] at hcompleted
  exact absurd hcompleted (by decide)

end Sys2Proof.Machine
end

section
/-! Valve bits and cavities of the Leak Test Units (O4), bay by bay. `FillsWell` says what a bay's LTU may be doing: at rest with its
fill bits 0, at work on a cavity in a leak sub-phase, or venting in STOPPING. That drive enable is 0 while a fill bit is 1 follows
from the agreement of RIS and sub-phase (O8). -/

namespace Sys2Proof.Machine

/-! ### The invariant, bay by bay -/

/-- Fill and vent bit of a pair are never 1 together (R139). -/
def Ltu.exclusive (u : Ltu) : Prop := u.fill &&& u.vent = 0

/-- The recipe cavity the LTU is at. -/
def Ltu.cavity (r : Option Recipe) (u : Ltu) : Option Cavity := r.bind fun x => u.cavityIndex.bind fun i => x.cavities[i]?

/-- No phase of a cavity, and every fill bit 0. -/
structure Ltu.Rests (u : Ltu) : Prop where
  phase : u.phase = .idle ∨ u.phase = .done
  closed : u.fill = 0

/-- The LTU is at cavity c, with a fill bit 1 only in FILL, that of the cavity's pair (R139). -/
structure Ltu.WorksOn (r : Option Recipe) (c : Cavity) (u : Ltu) : Prop where
  cavity : u.cavity r = some c
  valve : u.fill = 0 ∨ (u.phase = .fill ∧ u.fill = pairBit c.pair)

/-- The bay is RUNNING in a leak sub-phase. -/
def BayUnit.inLeak (u : BayUnit) : Prop :=
  u.ctl.state = .running ∧ (u.ctl.subPhase = some .leakPre ∨ u.ctl.subPhase = some .leakPost)

/-- What the LTU of a bay may be doing (R139, R141). -/
inductive BayUnit.FillsWell (r : Option Recipe) (u : BayUnit) : Prop where
  | rests (h : u.ltu.Rests)
  | works (c : Cavity) (hin : u.inLeak) (h : u.ltu.WorksOn r c)
  | vents (c : Cavity) (hs : u.ctl.state = .stopping) (hp : u.ltu.phase = .vent) (hc : u.ltu.cavity r = some c)
      (hf : u.ltu.fill = 0)

/-- The LTU of bay b does what it may. -/
def State.fillsWell (s : State) (b : Bay) : Prop := (s.bay b).FillsWell (s.recipeOf b)

/-- The bay is in a leak sub-phase with its LTU at cavity c. -/
structure State.WorksOn (s : State) (b : Bay) (c : Cavity) : Prop where
  inLeak : (s.bay b).inLeak
  ltu : (s.bay b).ltu.WorksOn (s.recipeOf b) c

theorem cavityOf_eq (s : State) (b : Bay) : s.cavityOf b = (s.bay b).ltu.cavity (s.recipeOf b) := rfl

section
variable {r : Option Recipe} {c : Cavity} {u : Ltu} {s : State} {b : Bay}

theorem Ltu.WorksOn.closed (h : u.WorksOn r c) (hp : u.phase ≠ .fill) : u.fill = 0 := h.valve.resolve_right fun hf => hp hf.1

/-- What leaves phase, cavity index and fill bits as they are leaves the LTU at its cavity. -/
theorem Ltu.WorksOn.silent {v : Ltu} (h : u.WorksOn r c) (hp : v.phase = u.phase) (hi : v.cavityIndex = u.cavityIndex)
    (hf : v.fill = u.fill) : v.WorksOn r c := by
  refine ⟨?_, by rw [hp, hf]; exact h.valve⟩
  unfold Ltu.cavity
  rw [hi]
  exact h.cavity

theorem State.WorksOn.fillsWell (h : s.WorksOn b c) : s.fillsWell b := .works c h.inLeak h.ltu

theorem BayUnit.FillsWell.congr {u v : BayUnit} (h : u.FillsWell r) (hp : v.ltu.phase = u.ltu.phase)
    (hi : v.ltu.cavityIndex = u.ltu.cavityIndex) (hf : v.ltu.fill = u.ltu.fill) (hs : v.ctl.state = u.ctl.state)
    (hsub : v.ctl.subPhase = u.ctl.subPhase) : v.FillsWell r := by
  cases h with
  | rests h => exact .rests ⟨by rw [hp]; exact h.phase, hf.trans h.closed⟩
  | works c hin h => exact .works c (by unfold BayUnit.inLeak; rw [hs, hsub]; exact hin) (h.silent hp hi hf)
  | vents c hstop hv hc h0 =>
    exact .vents c (hs.trans hstop) (hp.trans hv) (by unfold Ltu.cavity; rw [hi]; exact hc) (hf.trans h0)

/-- In RUNIN the LTU is at rest. -/
theorem BayUnit.FillsWell.rests_of_runin {u : BayUnit} (h : u.FillsWell r) (hr : u.ctl.state = .running)
    (hp : u.ctl.subPhase = some .runin) : u.ltu.Rests := by
  cases h with
  | rests h => exact h
  | works c hin h =>
    obtain ⟨-, hl | hl⟩ := hin
    all_goals
      rw [hp] at hl
      cases hl
  | vents c hs => rw [hr] at hs; cases hs

/-- Outside RUNNING and STOPPING the LTU is at rest. -/
theorem BayUnit.FillsWell.rests_of_state {u : BayUnit} (h : u.FillsWell r) (hr : u.ctl.state ≠ .running)
    (hs : u.ctl.state ≠ .stopping) : u.ltu.Rests := by
  cases h with
  | rests h => exact h
  | works c hin h => exact absurd hin.1 hr
  | vents c hstop => exact absurd hstop hs

/-- An LTU in a phase of a cavity is at work there, or vents in STOPPING. -/
theorem State.fillsWell.cases_at (h : s.fillsWell b) (hc : s.cavityOf b = some c) (h0 : (s.bay b).ltu.phase ≠ .idle)
    (h1 : (s.bay b).ltu.phase ≠ .done) :
    s.WorksOn b c ∨ ((s.bay b).ctl.state = .stopping ∧ (s.bay b).ltu.phase = .vent ∧ (s.bay b).ltu.fill = 0) := by
  cases h with
  | rests h => exact (h.phase.elim h0 h1).elim
  | works d hin h =>
    obtain rfl := Option.some.inj (h.cavity.symm.trans hc)
    exact .inl ⟨hin, h⟩
  | vents d hs hp _ hf => exact .inr ⟨hs, hp, hf⟩

/-- In a leak sub-phase an LTU with a cavity is at work there, or stands at it with its fill bits 0. -/
theorem State.fillsWell.worksOn (h : s.fillsWell b) (hc : s.cavityOf b = some c) (hin : (s.bay b).inLeak) : s.WorksOn b c := by
  refine ⟨hin, ?_⟩
  cases h with
  | rests h => exact ⟨hc, .inl h.closed⟩
  | works d _ h =>
    obtain rfl := Option.some.inj (h.cavity.symm.trans hc)
    exact h
  | vents d hs => rw [hin.1] at hs; cases hs

end

/-- Where RIS and sub-phase agree, this is the invariant of the statement. -/
theorem fillsSafely_iff {s : State} (ha : Agrees s) : FillsSafely s ↔ ∀ b, s.fillsWell b := by
  refine forall_congr' fun b => ⟨fun ⟨hwork, hfill⟩ => ?_, fun h => ?_⟩
  · by_cases hp : (s.bay b).ltu.phase = .idle ∨ (s.bay b).ltu.phase = .done
    · refine .rests ⟨hp, not_not.mp fun hf => ?_⟩
      rw [(hfill hf).1] at hp
      exact hp.elim nofun nofun
    · obtain ⟨hidle, hdone⟩ := not_or.mp hp
      obtain ⟨⟨c, hc⟩, hplace⟩ := hwork hidle hdone
      obtain hin | ⟨hs, hv⟩ := hplace
      · refine .works c ((inLeak_iff b s).mp hin) ⟨hc, or_iff_not_imp_left.mpr fun hf => ?_⟩
        obtain ⟨hphase, -, hpair⟩ := hfill hf
        exact ⟨hphase, hpair c hc⟩
      · refine .vents c hs hv hc (not_not.mp fun hf => ?_)
        rw [(hfill hf).1] at hv
        cases hv
  · cases h with
    | rests h => exact ⟨fun hidle hdone => (h.phase.elim hidle hdone).elim, fun hf => absurd h.closed hf⟩
    | works c hin h =>
      refine ⟨fun _ _ => ⟨⟨c, h.cavity⟩, .inl ((inLeak_iff b s).mpr hin)⟩, fun hf => ?_⟩
      obtain ⟨hphase, hpair⟩ := h.valve.resolve_left hf
      have hidle : (s.bay b).ris.phase = .idle := by
        by_contra hi
        obtain ⟨-, hp⟩ | ⟨hs, -⟩ := (ha.bays b trivial).runs.work hi
        · obtain hl | hl := hin.2
          all_goals
            rw [hp] at hl
            cases hl
        · rw [hin.1] at hs
          cases hs
      refine ⟨hphase, ((ha.bays b trivial).runs.rest hidle).1, fun d hd => ?_⟩
      rw [← Option.some.inj (h.cavity.symm.trans hd)]
      exact hpair
    | vents c hs hp hc hf => exact ⟨fun _ _ => ⟨⟨c, hc⟩, .inr ⟨hs, hp⟩⟩, fun h => absurd hf h⟩

/-! ### Valves that open and close -/

section
variable {n : Nat} {f v : BitVec n}

/-- Opening fill valves and closing the vent valves of the same pairs. -/
theorem exclusive_open_fill (p : BitVec n) (h : f &&& v = 0) : (f ||| p) &&& (v &&& ~~~ p) = 0 := by
  ext i hi
  have hb := congrArg (fun w : BitVec n => w[i]) h
  simp only [BitVec.getElem_and, BitVec.getElem_or, BitVec.getElem_not] at hb ⊢
  cases hp : p[i] <;> simp_all

/-- Closing fill valves and opening the vent valves of the same pairs. -/
theorem exclusive_open_vent (p : BitVec n) (h : f &&& v = 0) : (f &&& ~~~ p) &&& (v ||| p) = 0 := by
  rw [BitVec.and_comm]
  exact exclusive_open_fill p (by rw [BitVec.and_comm]; exact h)

theorem exclusive_close_fill (p : BitVec n) (h : f &&& v = 0) : (f &&& p) &&& v = 0 := by
  rw [BitVec.and_assoc, BitVec.and_comm p, ← BitVec.and_assoc, h]
  exact BitVec.zero_and

theorem exclusive_close_vent (p : BitVec n) (h : f &&& v = 0) : f &&& (v &&& p) = 0 := by
  rw [← BitVec.and_assoc, h]
  exact BitVec.zero_and

end

namespace Ltu

section
variable {r : Option Recipe} {c : Cavity} {u : Ltu}

theorem enterFill_exclusive (h : u.exclusive) : (u.enterFill c).exclusive := exclusive_open_fill _ h

theorem enterVent_exclusive (h : u.exclusive) (what : AfterVent) : (u.enterVent c what).exclusive := exclusive_open_vent _ h

theorem closeFill_exclusive (h : u.exclusive) : (u.closeFill c).exclusive := exclusive_close_fill _ h

theorem closeVent_exclusive (h : u.exclusive) : (u.closeVent c).exclusive := exclusive_close_vent _ h

/-- Entry to FILL from a phase with the fill bits 0. -/
theorem WorksOn.enterFill (h : u.cavity r = some c) (h0 : u.fill = 0) : (u.enterFill c).WorksOn r c :=
  ⟨h, .inr ⟨rfl, show u.fill ||| pairBit c.pair = pairBit c.pair by rw [h0]; exact BitVec.zero_or⟩⟩

/-- Closing the pair's fill valve leaves every fill bit 0. -/
theorem WorksOn.fill_closed (h : u.WorksOn r c) : u.fill &&& ~~~ pairBit c.pair = 0 := by
  obtain h0 | ⟨-, hf⟩ := h.valve
  · rw [h0]; exact BitVec.zero_and
  · rw [hf]; exact BitVec.and_not_self _

theorem WorksOn.enterVent (h : u.WorksOn r c) (what : AfterVent) : (u.enterVent c what).WorksOn r c :=
  ⟨h.cavity, .inl h.fill_closed⟩

theorem WorksOn.closeFill (h : u.WorksOn r c) : (u.closeFill c).WorksOn r c := ⟨h.cavity, .inl h.fill_closed⟩

theorem WorksOn.enterSettle (h : u.WorksOn r c) : (u.enterSettle c).WorksOn r c := ⟨h.cavity, .inl h.fill_closed⟩

end

end Ltu

end Sys2Proof.Machine
end

section
/-! The work of a Leak Test Unit keeps its valves exclusive and does what it may (O4). -/

namespace Sys2Proof.Machine

/-! ### Work of one LTU -/

/-- Work of bay b's units that changes the bay's LTU alone and keeps its valves exclusive. -/
structure LtuOnly (b : Bay) (s t : State) : Prop where
  work : BayWork (· = b) s t
  unit : ∃ u, t.bay b = { s.bay b with ltu := u }
  exclusive : (s.bay b).ltu.exclusive → (t.bay b).ltu.exclusive

section
variable {b : Bay} {s t u : State}

theorem LtuOnly.refl (b : Bay) (s : State) : LtuOnly b s s := ⟨.refl s, ⟨_, rfl⟩, id⟩

theorem LtuOnly.trans (h : LtuOnly b s t) (g : LtuOnly b t u) : LtuOnly b s u := by
  obtain ⟨x, hx⟩ := h.unit
  obtain ⟨y, hy⟩ := g.unit
  exact ⟨h.work.trans g.work, ⟨y, by rw [hy, hx]⟩, g.exclusive ∘ h.exclusive⟩

theorem LtuOnly.ite {c : Prop} [Decidable c] (h : LtuOnly b s t) (g : LtuOnly b s u) : LtuOnly b s (if c then t else u) := by
  split
  · exact h
  · exact g

theorem LtuOnly.ctl (h : LtuOnly b s t) : (t.bay b).ctl = (s.bay b).ctl := by
  obtain ⟨x, hx⟩ := h.unit
  rw [hx]

theorem LtuOnly.recipeOf (h : LtuOnly b s t) : t.recipeOf b = s.recipeOf b := recipeOf_congr (by rw [h.ctl]) h.work.recipe

theorem LtuOnly.cavitiesFrom (h : LtuOnly b s t) (i : Nat) : t.cavitiesFrom b i = s.cavitiesFrom b i := by
  unfold State.cavitiesFrom
  rw [h.recipeOf]

/-- The LTU goes on in the leak sub-phase at a cavity. -/
theorem LtuOnly.worksOn {c : Cavity} (h : LtuOnly b s t) (hin : (s.bay b).inLeak) (hu : (t.bay b).ltu.WorksOn (s.recipeOf b) c) :
    t.WorksOn b c :=
  ⟨by unfold BayUnit.inLeak; rw [h.ctl]; exact hin, by rw [h.recipeOf]; exact hu⟩

end

section
variable (b : Bay) (s : State)

theorem updLtu_only {f : Ltu → Ltu} (h : (s.bay b).ltu.exclusive → (f (s.bay b).ltu).exclusive) : LtuOnly b s (s.updLtu b f) :=
  ⟨updLtu_work b s f, ⟨_, updLtu_bay b s f⟩, by rw [State.updLtu_ltu_same]; exact h⟩

theorem offerLeakEntry_only (c : Cavity) (x : LeakResult) : LtuOnly b s (offerLeakEntry b c x s) :=
  ⟨offerLeakEntry_work b s c x, ⟨_, offerLeakEntry_bay b c x s⟩, by rw [offerLeakEntry_bay]; exact id⟩

theorem leakAttempt_only (o : ResultName) : LtuOnly b s (leakAttempt b o s) := ⟨leakAttempt_work b s o, ⟨_, rfl⟩, id⟩

theorem incompleteEnd_only (c : Cavity) : LtuOnly b s (incompleteEnd b c s) :=
  (leakAttempt_only b s _).trans (offerLeakEntry_only b _ c _)

theorem grossEnd_only (c : Cavity) : LtuOnly b s (grossEnd b c s) :=
  ((leakAttempt_only b s _).trans (offerLeakEntry_only b _ c _)).trans (updLtu_only b _ fun h => Ltu.enterVent_exclusive h _)

theorem actOnDecay_only (c : Cavity) (o : DecayOutcome) : LtuOnly b s (actOnDecay b c o s) :=
  (leakAttempt_only b s _).trans (.ite (updLtu_only b _ fun h => Ltu.enterVent_exclusive h .refill)
    ((offerLeakEntry_only b _ c _).trans (updLtu_only b _ fun h => Ltu.enterVent_exclusive h _)))

theorem measureEnd_only (c : Cavity) : LtuOnly b s (measureEnd b c s) := by
  unfold measureEnd
  exact (updLtu_only b s id).trans (actOnDecay_only b _ c _)

theorem permitStart_only : LtuOnly b s (permitStart b s) := .ite (updLtu_only b s id) (.refl b s)

theorem enterCavities_only (l : List Cavity) (i : Nat) : LtuOnly b s (enterCavities b l i s) := by
  induction l generalizing s i with
  | nil => exact updLtu_only b s id
  | cons c rest ih =>
    have henter : LtuOnly b s (s.updLtu b (Ltu.enterCavity c i)) := updLtu_only b s id
    exact henter.trans (.ite (updLtu_only b _ Ltu.enterFill_exclusive)
      (.ite ((incompleteEnd_only b _ c).trans (ih _ _)) (.refl b _)))

theorem nextCavity_only : LtuOnly b s (nextCavity b s) := by
  unfold nextCavity
  split
  · exact enterCavities_only b s _ _
  · exact .refl b s

theorem beginLeak_only : LtuOnly b s (beginLeak b s) := by
  unfold beginLeak
  exact ((updLtu_only b s id).trans (permitStart_only b _)).trans (enterCavities_only b _ _ _)

theorem coolTest_only : LtuOnly b s (coolTest b s) := by
  unfold coolTest
  split
  · exact .ite (updLtu_only b s Ltu.enterFill_exclusive) (.refl b s)
  · exact .refl b s

theorem leakFrame_only (c : Cavity) : LtuOnly b s (leakFrame b c s) := by
  unfold leakFrame
  dsimp only
  split
  case h_1 => exact coolTest_only b s
  case h_2 => exact .ite (updLtu_only b s Ltu.closeFill_exclusive) (.refl b s)
  case h_3 | h_4 => exact .ite (grossEnd_only b s c) (.refl b s)
  all_goals exact .refl b s

theorem ventEnd_only (c : Cavity) : LtuOnly b s (ventEnd b c s) := by
  refine (updLtu_only b s Ltu.closeVent_exclusive).trans (.ite ?_ (updLtu_only b _ id))
  split
  · exact updLtu_only b _ fun h => Ltu.enterFill_exclusive (u := Ltu.noReadings _) h
  · exact nextCavity_only b _

theorem phaseEnd_only (c : Cavity) : LtuOnly b s (phaseEnd b c s) := by
  unfold phaseEnd
  split
  · exact (incompleteEnd_only b s c).trans (nextCavity_only b _)
  · exact grossEnd_only b s c
  · exact updLtu_only b s id
  · exact measureEnd_only b s c
  · exact ventEnd_only b s c
  all_goals exact .refl b s

theorem ltuTick_only : LtuOnly b s (ltuTick b s) := by
  unfold ltuTick
  split
  · split
    · exact (updLtu_only b s id).trans (.ite (phaseEnd_only b _ _) (.refl b _))
    · exact .refl b s
  · exact .refl b s

end

/-! ### At a cavity -/

section
variable {b : Bay} {c : Cavity} {s : State}

theorem updLtu_recipeOf (b : Bay) (s : State) (f : Ltu → Ltu) : (s.updLtu b f).recipeOf b = s.recipeOf b :=
  recipeOf_congr (by rw [State.updLtu_ctl]) fun _ => rfl

theorem State.WorksOn.updLtu {f : Ltu → Ltu} (h : s.WorksOn b c) (hf : (f (s.bay b).ltu).WorksOn (s.recipeOf b) c) :
    (s.updLtu b f).WorksOn b c :=
  ⟨by unfold BayUnit.inLeak; rw [State.updLtu_ctl]; exact h.inLeak,
    by rw [State.updLtu_ltu_same, updLtu_recipeOf]; exact hf⟩

theorem leakAttempt_worksOn (h : s.WorksOn b c) (o : ResultName) : (leakAttempt b o s).WorksOn b c := ⟨h.inLeak, h.ltu⟩

theorem offerLeakEntry_worksOn (h : s.WorksOn b c) (x : LeakResult) : (offerLeakEntry b c x s).WorksOn b c :=
  (offerLeakEntry_only b s c x).worksOn h.inLeak (by rw [offerLeakEntry_bay]; exact h.ltu.silent rfl rfl rfl)

theorem incompleteEnd_worksOn (h : s.WorksOn b c) : (incompleteEnd b c s).WorksOn b c :=
  offerLeakEntry_worksOn (leakAttempt_worksOn h _) _

theorem grossEnd_worksOn (h : s.WorksOn b c) : (grossEnd b c s).WorksOn b c := by
  have hoffered := offerLeakEntry_worksOn (leakAttempt_worksOn h .gross) .gross
  exact hoffered.updLtu (hoffered.ltu.enterVent _)

theorem measureEnd_worksOn (h : s.WorksOn b c) : (measureEnd b c s).WorksOn b c := by
  have hact {t : State} (ht : t.WorksOn b c) (o : DecayOutcome) : (actOnDecay b c o t).WorksOn b c := by
    have htried := leakAttempt_worksOn ht o.name
    have hoffered := offerLeakEntry_worksOn htried o.entry
    unfold actOnDecay
    dsimp only
    split
    · exact htried.updLtu ((htried.ltu.enterVent .refill).silent rfl rfl rfl)
    · exact hoffered.updLtu (hoffered.ltu.enterVent _)
  unfold measureEnd
  exact hact (h.updLtu (h.ltu.silent rfl rfl rfl)) _

/-- Entry of the cavities from cavity i on, with every fill bit 0. -/
theorem enterCavities_fillsWell (l : List Cavity) (i : Nat) (hin : (s.bay b).inLeak) (h0 : (s.bay b).ltu.fill = 0)
    (hl : s.cavitiesFrom b i = l) : (enterCavities b l i s).fillsWell b := by
  induction l generalizing s i with
  | nil =>
    refine .rests ⟨.inr ?_, ?_⟩
    all_goals
      unfold enterCavities
      rw [State.updLtu_ltu_same]
    exact h0
  | cons c rest ih =>
    obtain ⟨r, hr, hdrop⟩ : ∃ r, s.recipeOf b = some r ∧ r.cavities.drop i = c :: rest := by
      unfold State.cavitiesFrom at hl
      split at hl
      · next r hr => exact ⟨r, hr, hl⟩
      · cases hl
    have hat : r.cavities[i]? = some c := by rw [← List.head?_drop, hdrop]; rfl
    have hrest : s.cavitiesFrom b (i + 1) = rest := by
      unfold State.cavitiesFrom
      rw [hr]
      show r.cavities.drop (i + 1) = rest
      rw [← List.tail_drop, hdrop]
      rfl
    have henter : LtuOnly b s (s.updLtu b (Ltu.enterCavity c i)) := updLtu_only b s id
    have hcavity : (Ltu.enterCavity c i (s.bay b).ltu).cavity (s.recipeOf b) = some c := by rw [hr]; exact hat
    have hentered : (s.updLtu b (Ltu.enterCavity c i)).WorksOn b c := by
      refine henter.worksOn hin ?_
      rw [State.updLtu_ltu_same]
      exact ⟨hcavity, .inl h0⟩
    have hclosed : ((s.updLtu b (Ltu.enterCavity c i)).bay b).ltu.fill = 0 := by rw [State.updLtu_ltu_same]; exact h0
    have hended := incompleteEnd_only b (s.updLtu b (Ltu.enterCavity c i)) c
    unfold enterCavities
    dsimp only
    split
    · exact (hentered.updLtu (.enterFill hentered.ltu.cavity hclosed)).fillsWell
    split
    · refine ih (i + 1) (incompleteEnd_worksOn hentered).inLeak ?_ ?_
      · rw [incompleteEnd_bay]
        exact hclosed
      · rw [hended.cavitiesFrom, henter.cavitiesFrom, hrest]
    · exact hentered.fillsWell

theorem nextCavity_fillsWell (h : s.WorksOn b c) (h0 : (s.bay b).ltu.fill = 0) : (nextCavity b s).fillsWell b := by
  unfold nextCavity
  split
  · exact enterCavities_fillsWell _ _ h.inLeak h0 rfl
  · exact h.fillsWell

/-- A leak sub-phase begun with the LTU at rest. -/
theorem beginLeak_fillsWell (hin : (s.bay b).inLeak) (h : (s.bay b).ltu.Rests) : (beginLeak b s).fillsWell b := by
  have hforbid : LtuOnly b s (s.updLtu b fun u => { u with startPermitted := false }) := updLtu_only b s id
  have hbefore := hforbid.trans (permitStart_only b _)
  have hclosed (t : State) (ht : (t.bay b).ltu.fill = 0) : ((permitStart b t).bay b).ltu.fill = 0 := by
    unfold permitStart
    split
    · rw [State.updLtu_ltu_same]; exact ht
    · exact ht
  unfold beginLeak
  refine enterCavities_fillsWell _ 0 ?_ (hclosed _ ?_) rfl
  · unfold BayUnit.inLeak
    rw [hbefore.ctl]
    exact hin
  · rw [State.updLtu_ltu_same]
    exact h.closed

/-! ### Starts, frames and ticks -/

theorem permitStart_fillsWell (h : s.fillsWell b) : (permitStart b s).fillsWell b := by
  unfold permitStart
  split
  · refine BayUnit.FillsWell.congr (u := s.bay b) ?_ ?_ ?_ ?_ ?_ ?_
    · rw [updLtu_recipeOf]; exact h
    all_goals rw [updLtu_bay]
  · exact h

/-- A cavity that may be filled is: COOL_WAIT stands in leak sub-phases alone (R132). -/
theorem coolTest_fillsWell (h : s.fillsWell b) : (coolTest b s).fillsWell b := by
  unfold coolTest
  split
  · next c hc =>
    split
    · next hcool =>
      obtain ⟨hp, -⟩ := hcool
      obtain hw | ⟨-, hv, -⟩ := h.cases_at hc (by rw [hp]; decide) (by rw [hp]; decide)
      · exact (hw.updLtu (.enterFill hw.ltu.cavity (hw.ltu.closed (by rw [hp]; decide)))).fillsWell
      · rw [hp] at hv
        cases hv
    · exact h
  · exact h

theorem leakFrame_fillsWell (h : s.WorksOn b c) : (leakFrame b c s).fillsWell b := by
  unfold leakFrame
  dsimp only
  split
  case h_1 => exact coolTest_fillsWell h.fillsWell
  case h_2 =>
    split
    · exact (h.updLtu h.ltu.enterSettle).fillsWell
    · exact h.fillsWell
  case h_3 | h_4 =>
    split
    · exact (grossEnd_worksOn h).fillsWell
    · exact h.fillsWell
  all_goals exact h.fillsWell

/-- The end of a vent: FILL again or the next cavity while the bay is RUNNING, IDLE in STOPPING (R138, R141). -/
theorem ventEnd_fillsWell (h : s.fillsWell b) (hc : s.cavityOf b = some c) (hp : (s.bay b).ltu.phase = .vent) :
    (ventEnd b c s).fillsWell b := by
  obtain hw | ⟨hs, -, h0⟩ := h.cases_at hc (by rw [hp]; decide) (by rw [hp]; decide)
  · have hshut : (s.updLtu b (Ltu.closeVent c)).WorksOn b c := hw.updLtu (hw.ltu.silent rfl rfl rfl)
    have h0 : ((s.updLtu b (Ltu.closeVent c)).bay b).ltu.fill = 0 := by
      rw [State.updLtu_ltu_same]
      exact hw.ltu.closed (by rw [hp]; decide)
    unfold ventEnd
    dsimp only
    rw [if_pos ((running_iff b _).mpr hshut.inLeak.1)]
    split
    · refine (hshut.updLtu ?_).fillsWell
      exact (Ltu.WorksOn.enterFill (u := Ltu.noReadings _) hshut.ltu.cavity h0).silent rfl rfl rfl
    · exact nextCavity_fillsWell hshut h0
  · have hrun : (s.updLtu b (Ltu.closeVent c)).running b = false := by
      unfold State.running
      rw [State.updLtu_ctl, hs]
      rfl
    unfold ventEnd
    dsimp only
    rw [if_neg (by rw [hrun]; decide)]
    refine .rests ⟨.inl ?_, ?_⟩
    all_goals rw [State.updLtu_ltu_same]
    rw [State.updLtu_ltu_same]
    exact h0

theorem phaseEnd_fillsWell (h : s.fillsWell b) (hc : s.cavityOf b = some c) : (phaseEnd b c s).fillsWell b := by
  have hworks {p : LtuPhase} (hp : (s.bay b).ltu.phase = p) (h0 : p ≠ .idle) (h1 : p ≠ .done) (h2 : p ≠ .vent) :
      s.WorksOn b c :=
    (h.cases_at hc (hp ▸ h0) (hp ▸ h1)).resolve_right fun hv => h2 (hp ▸ hv.2.1)
  unfold phaseEnd
  split
  case h_1 hp =>
    have hw := hworks hp nofun nofun nofun
    refine nextCavity_fillsWell (incompleteEnd_worksOn hw) ?_
    rw [incompleteEnd_bay]
    exact hw.ltu.closed (by rw [hp]; decide)
  case h_2 hp => exact (grossEnd_worksOn (hworks hp nofun nofun nofun)).fillsWell
  case h_3 hp =>
    have hw := hworks hp nofun nofun nofun
    exact (hw.updLtu ⟨hw.ltu.cavity, .inl (hw.ltu.closed (by rw [hp]; decide))⟩).fillsWell
  case h_4 hp => exact (measureEnd_worksOn (hworks hp nofun nofun nofun)).fillsWell
  case h_5 hp => exact ventEnd_fillsWell h hc hp
  all_goals exact h

theorem ltuTick_fillsWell (h : s.fillsWell b) : (ltuTick b s).fillsWell b := by
  unfold ltuTick
  split
  · next c hc =>
    split
    · next n _ =>
      have hset : LtuOnly b s (s.updLtu b fun u => { u with phaseTimer := (s.bay b).ltu.phaseTimer + 1 }) := updLtu_only b s id
      have hticked : (s.updLtu b fun u => { u with phaseTimer := (s.bay b).ltu.phaseTimer + 1 }).fillsWell b := by
        refine BayUnit.FillsWell.congr (u := s.bay b) ?_ ?_ ?_ ?_ ?_ ?_
        · rw [hset.recipeOf]; exact h
        all_goals rw [updLtu_bay]
      dsimp only
      split
      · exact phaseEnd_fillsWell hticked ((cavityOf_congr hset.recipeOf (by rw [State.updLtu_ltu_same])).trans hc)
      · exact hticked
    · exact h
  · exact h

end

end Sys2Proof.Machine
end

section
/-! Work that the valves do not hang on: run-in, lanes, windows and records (O4). `LeakKept s t` says that every bay keeps its Leak
Test Unit, its state, its sub-phase and its recipe. `ValvesKept s t` says that the step from s to t keeps the valves exclusive and
the Leak Test Units doing what they may. -/

namespace Sys2Proof.Machine

/-! ### What is kept -/

/-- Bay v has the Leak Test Unit, the state, the sub-phase and the slot of bay u. -/
structure BayUnit.LeakSame (u v : BayUnit) : Prop where
  ltu : v.ltu = u.ltu
  state : v.ctl.state = u.ctl.state
  subPhase : v.ctl.subPhase = u.ctl.subPhase
  slot : v.ctl.slot = u.ctl.slot

/-- Every bay keeps its Leak Test Unit, state, sub-phase and slot, and every slot its recipe. -/
structure LeakKept (s t : State) : Prop where
  unit : ∀ b, (s.bay b).LeakSame (t.bay b)
  recipe : ∀ k, (t.rbk.get k).recipe = (s.rbk.get k).recipe

/-- A bay whose valves are exclusive in s has them so in t, and one whose LTU does what it may in s has it do so in t. -/
structure ValvesKept (s t : State) : Prop where
  exclusive : ∀ b, (s.bay b).ltu.exclusive → (t.bay b).ltu.exclusive
  fills : ∀ b, s.fillsWell b → t.fillsWell b

theorem BayUnit.LeakSame.refl (u : BayUnit) : u.LeakSame u := ⟨rfl, rfl, rfl, rfl⟩

section
variable {b : Bay} {s t u : State}

theorem LeakKept.of_eq (hb : t.bays = s.bays) (hr : t.rbk = s.rbk) : LeakKept s t :=
  ⟨fun b => by rw [s.bay_eq_of_bays hb]; exact .refl _, fun _ => by rw [hr]⟩

theorem LeakKept.refl (s : State) : LeakKept s s := .of_eq rfl rfl

theorem LeakKept.trans (h : LeakKept s t) (g : LeakKept t u) : LeakKept s u :=
  ⟨fun b => ⟨(g.unit b).ltu.trans (h.unit b).ltu, (g.unit b).state.trans (h.unit b).state,
    (g.unit b).subPhase.trans (h.unit b).subPhase, (g.unit b).slot.trans (h.unit b).slot⟩,
    fun k => (g.recipe k).trans (h.recipe k)⟩

theorem LeakKept.ite {c : Prop} [Decidable c] (h : LeakKept s t) (g : LeakKept s u) : LeakKept s (if c then t else u) := by
  split
  · exact h
  · exact g

theorem LeakKept.recipeOf (h : LeakKept s t) (b : Bay) : t.recipeOf b = s.recipeOf b := recipeOf_congr (h.unit b).slot h.recipe

theorem BayUnit.FillsWell.same {r : Option Recipe} {x y : BayUnit} (h : x.FillsWell r) (g : x.LeakSame y) : y.FillsWell r :=
  h.congr (by rw [g.ltu]) (by rw [g.ltu]) (by rw [g.ltu]) g.state g.subPhase

theorem LeakKept.fillsWell (h : LeakKept s t) (hf : s.fillsWell b) : t.fillsWell b := by
  unfold State.fillsWell
  rw [h.recipeOf]
  exact BayUnit.FillsWell.same hf (h.unit b)

theorem LeakKept.exclusive (h : LeakKept s t) (b : Bay) (hx : (s.bay b).ltu.exclusive) : (t.bay b).ltu.exclusive := by
  rw [(h.unit b).ltu]
  exact hx

theorem LeakKept.valvesKept (h : LeakKept s t) : ValvesKept s t := ⟨h.exclusive, fun _ => h.fillsWell⟩

theorem ValvesKept.refl (s : State) : ValvesKept s s := ⟨fun _ => id, fun _ => id⟩

theorem ValvesKept.trans (h : ValvesKept s t) (g : ValvesKept t u) : ValvesKept s u :=
  ⟨fun b => g.exclusive b ∘ h.exclusive b, fun b => g.fills b ∘ h.fills b⟩

theorem ValvesKept.ite {c : Prop} [Decidable c] (h : ValvesKept s t) (g : ValvesKept s u) : ValvesKept s (if c then t else u) := by
  split
  · exact h
  · exact g

theorem ValvesKept.foldl {α : Type} (f : State → α → State) (h : ∀ s x, ValvesKept s (f s x)) (l : List α) (s : State) :
    ValvesKept s (l.foldl f s) := by
  induction l generalizing s with
  | nil => exact refl s
  | cons x xs ih => exact (h s x).trans (ih (f s x))

/-- Work of one bay's units keeps the valves exclusive where it keeps those of the bay so. -/
theorem BayWork.exclusive (h : BayWork (· = b) s t) (hx : (s.bay b).ltu.exclusive → (t.bay b).ltu.exclusive) (c : Bay)
    (hs : (s.bay c).ltu.exclusive) : (t.bay c).ltu.exclusive := by
  by_cases hc : c = b
  · subst hc
    exact hx hs
  · obtain ⟨-, -, hltu⟩ := h.other c hc
    rw [hltu]
    exact hs

/-- Work of one bay's units has the LTUs do what they may where it has that of the bay do so. -/
theorem BayWork.fillsWell (h : BayWork (· = b) s t) (hf : s.fillsWell b → t.fillsWell b) (c : Bay) (hs : s.fillsWell c) :
    t.fillsWell c := by
  by_cases hc : c = b
  · subst hc
    exact hf hs
  · obtain ⟨hctl, -, hltu⟩ := h.other c hc
    unfold State.fillsWell
    rw [recipeOf_congr (by rw [hctl]) h.recipe]
    exact BayUnit.FillsWell.same hs ⟨hltu, by rw [hctl], by rw [hctl], by rw [hctl]⟩

theorem ValvesKept.of_work (h : BayWork (· = b) s t) (hx : (s.bay b).ltu.exclusive → (t.bay b).ltu.exclusive)
    (hf : s.fillsWell b → t.fillsWell b) : ValvesKept s t := ⟨h.exclusive hx, h.fillsWell hf⟩

theorem LtuOnly.valvesKept (h : LtuOnly b s t) (hf : s.fillsWell b → t.fillsWell b) : ValvesKept s t :=
  .of_work h.work h.exclusive hf

end

section
variable (b : Bay) (s : State)

/-! ### Elementary operations -/

theorem updBay_leakKept {f : BayUnit → BayUnit} (h : (s.bay b).LeakSame (f (s.bay b))) : LeakKept s (s.updBay b f) := by
  refine ⟨fun c => ?_, fun _ => rfl⟩
  rw [State.bay_updBay]
  split
  · next hbc => subst hbc; exact h
  · exact .refl _

theorem updRis_leakKept (f : Ris → Ris) : LeakKept s (s.updRis b f) := updBay_leakKept b s ⟨rfl, rfl, rfl, rfl⟩
theorem updSpu_leakKept (f : Spu → Spu) : LeakKept s (s.updSpu b f) := updBay_leakKept b s ⟨rfl, rfl, rfl, rfl⟩
theorem setWindow_leakKept (w : Option Window) : LeakKept s (s.setWindow b w) := updBay_leakKept b s ⟨rfl, rfl, rfl, rfl⟩
theorem setOae_leakKept (o : Oae) : LeakKept s { s with oae := o } := .of_eq rfl rfl
theorem emitBay_leakKept (e : CounterEvent) (x : Option ResultName) : LeakKept s (s.emitBay e b x) := .of_eq rfl rfl

/-- A change of the controller other than of state, sub-phase and slot. -/
theorem updCtl_leakKept (f : BayCtl → BayCtl)
    (h : ∀ c, (f c).state = c.state ∧ (f c).subPhase = c.subPhase ∧ (f c).slot = c.slot := by
      exact fun _ => ⟨rfl, rfl, rfl⟩) :
    LeakKept s (s.updCtl b f) :=
  updBay_leakKept b s ⟨rfl, (h _).1, (h _).2.1, (h _).2.2⟩

theorem latchAlarm_leakKept (a : BayAlarm) : LeakKept s (s.latchAlarm b a) := updCtl_leakKept b s _

theorem writeBound_leakKept (f : AxleRecord → AxleRecord) : LeakKept s (s.writeBound b f) := by
  obtain ⟨a, ha⟩ := writeBound_frame s b f
  rw [ha]
  exact .of_eq rfl rfl

theorem writeSummary_leakKept (f : Summary → Summary) : LeakKept s (s.writeSummary b f) := writeBound_leakKept b s _

theorem setCause_leakKept (cause : Cause) : LeakKept s (setCause b cause s) := by
  unfold setCause
  exact (writeBound_leakKept b s _).trans (updCtl_leakKept b _ _)

theorem setCmdSpeed_leakKept (v : Nat) : LeakKept s (s.setCmdSpeed b v) := by
  rw [setCmdSpeed_eq]
  exact updBay_leakKept b s ⟨rfl, rfl, rfl, rfl⟩

/-! ### Lanes and windows -/

theorem grantLoop_leakKept (l : List LaneRequest) : LeakKept s (grantLoop l s) := by
  have hgrant (q : LaneRequest) (t : State) : LeakKept t (grantOne q t) := by
    unfold grantOne
    split
    · exact (((setOae_leakKept t _).trans (setWindow_leakKept _ _ _)).trans (updRis_leakKept _ _ _)).trans
        (emitBay_leakKept _ _ _ _)
    · exact .refl t
  induction l generalizing s with
  | nil => exact setOae_leakKept s _
  | cons q rest ih => exact .ite ((hgrant q s).trans (ih _)) (setOae_leakKept s _)

theorem grantTest_leakKept : LeakKept s s.grantTest := grantLoop_leakKept s _

theorem postRequest_leakKept (n : Nat) : LeakKept s (postRequest b n s) :=
  .ite (.refl s) ((setOae_leakKept s _).trans (grantTest_leakKept _))

theorem dropWindow_leakKept : LeakKept s (dropWindow b s) := (setOae_leakKept s _).trans (setWindow_leakKept b _ none)

theorem releaseBay_leakKept : LeakKept s (releaseBay b s) :=
  have hwork : BayWork (fun _ => False) s (releaseBay b s) := releaseBay_work b s
  ⟨fun c => by
    obtain ⟨hctl, -, hltu⟩ := hwork.other c id
    exact ⟨hltu, by rw [hctl], by rw [hctl], by rw [hctl]⟩, hwork.recipe⟩

theorem discardBlock_leakKept : LeakKept s (discardBlock b s) := by
  unfold discardBlock
  split
  · exact .refl s
  split
  · exact .refl s
  · exact (setWindow_leakKept b s _).trans (.ite (emitBay_leakKept b _ _ _) (.refl _))

theorem windowFrame_leakKept : LeakKept s (windowFrame b s) := by
  unfold windowFrame
  split
  · exact (setWindow_leakKept b s _).trans (.ite (setWindow_leakKept b _ _) (discardBlock_leakKept b _))
  · exact .refl s

/-! ### Run-in Sequencer -/

theorem enterSteps_leakKept (l : List Step) (i : Nat) : LeakKept s (enterSteps b l i s) := by
  induction l generalizing s i with
  | nil => exact (updRis_leakKept b s _).trans (.ite (updRis_leakKept b _ _) (.refl _))
  | cons st rest ih =>
    refine (updRis_leakKept b s _).trans (.ite (updRis_leakKept b _ _) ?_)
    exact (updRis_leakKept b _ _).trans (.ite ((writeSummary_leakKept b _ _).trans (ih _ _)) (.refl _))

theorem finishStep_leakKept : LeakKept s (finishStep b s) := by
  have hdone : LeakKept s (stepCompleted b s) := writeSummary_leakKept b s _
  unfold finishStep nextStep
  split
  · exact hdone.trans (enterSteps_leakKept b _ _ _)
  · exact hdone

theorem beginRunin_leakKept : LeakKept s (beginRunin b s) :=
  ((setCmdSpeed_leakKept b s 0).trans (updRis_leakKept b _ _)).trans (enterSteps_leakKept b _ _ _)

theorem standstillTest_leakKept : LeakKept s (standstillTest b s) := by
  unfold standstillTest endReverseStop
  refine .ite ?_ (.refl s)
  split
  · split
    · exact (updRis_leakKept b s _).trans (.ite (finishStep_leakKept b _) (.refl _))
    · exact .refl s
  · exact finishStep_leakKept b s
  · exact updRis_leakKept b s _
  · exact .refl s

theorem postAttempt_leakKept : LeakKept s (postAttempt b s) := by
  unfold postAttempt
  split
  · exact (updRis_leakKept b s _).trans (postRequest_leakKept b _ _)
  · exact .refl s

theorem endSettle_leakKept : LeakKept s (endSettle b s) := by
  unfold endSettle
  split
  · exact .ite ((updRis_leakKept b s _).trans (.ite (.refl _) (postAttempt_leakKept b _)))
      ((updRis_leakKept b s _).trans (.ite (finishStep_leakKept b _) (.refl _)))
  · exact .refl s

theorem actOnResult_leakKept (r : Recipe) (st : Step) (w : WindowResult) : LeakKept s (actOnResult b r st w s).state := by
  have hoffer (x y) (ls : List LineResult) (a) : LeakKept s (offerNoiseEntry b st x y ls a s) := writeBound_leakKept b s _
  have hfinal (x y) (ls : List LineResult) (a) : LeakKept s (finishStep b (offerNoiseEntry b st x y ls a s)) :=
    (hoffer x y ls a).trans (finishStep_leakKept b _)
  have hspend : LeakKept s (spendBudget b s) := updRis_leakKept b s _
  have hsettle (t : State) : LeakKept t (enterSettle b t) := updRis_leakKept b t _
  have hdone (t : State) : LeakKept t (stepCompleted b t) := writeSummary_leakKept b t _
  unfold actOnResult
  dsimp only
  split
  case h_1 => exact hfinal _ _ _ _
  case h_2 =>
    split
    · exact hspend.trans (.ite (hsettle _) (updRis_leakKept b _ _))
    · split
      · exact (hoffer _ _ _ _).trans (hdone _)
      · exact hfinal _ _ _ _
  case h_3 => split; exacts [hspend.trans (hsettle _), hfinal _ _ _ _]
  case h_4 => split; exacts [hspend.trans (hsettle _), hfinal _ _ _ _]

theorem takeResult_leakKept (w : WindowResult) : LeakKept s (takeResult b w s).state := by
  unfold takeResult
  dsimp only
  split
  · split
    · exact actOnResult_leakKept b s _ _ w
    · exact .refl s
  · exact .refl s

theorem stopRundown_leakKept : LeakKept s (stopRundown b s) :=
  (updRis_leakKept b s _).trans (.ite (updRis_leakKept b _ _) (.refl _))

theorem rampTick_leakKept (r : Recipe) (st : Step) (target rate : Nat) : LeakKept s (rampTick b r st target rate s) := by
  have hreach (t : State) : LeakKept t (reachTarget b st t) :=
    (updRis_leakKept b t _).trans (.ite ((updRis_leakKept b _ _).trans (.ite (finishStep_leakKept b _) (.refl _)))
      ((updRis_leakKept b _ _).trans (standstillTest_leakKept b _)))
  exact ((setCmdSpeed_leakKept b s _).trans (updRis_leakKept b _ _)).trans (.ite (hreach _) (.refl _))

theorem endHold_leakKept : LeakKept s (endHold b s) := (updRis_leakKept b s _).trans (.ite (postAttempt_leakKept b _) (.refl _))

end

end Sys2Proof.Machine
end

section
/-! The Bay Controller keeps the valves (O4): entry to COMPLETE, STOPPING, aborts and sub-phases. -/

namespace Sys2Proof.Machine

section
variable {b : Bay} {s : State}

/-! ### COMPLETE and STOPPING -/

theorem Ltu.reset_rests : Ltu.reset.Rests := ⟨.inl rfl, rfl⟩

theorem Ltu.reset_exclusive : Ltu.reset.exclusive := rfl

theorem State.fillsWell.of_rests {t : State} (h : (t.bay b).ltu.Rests) : t.fillsWell b := .rests h

theorem enterComplete_ltu (b : Bay) (s : State) : ((enterComplete b s).bay b).ltu = .reset := by rw [enterComplete_bay]

theorem enterComplete_valvesKept (b : Bay) (s : State) : ValvesKept s (enterComplete b s) :=
  .of_work (enterComplete_work b s) (fun _ => by rw [enterComplete_ltu]; exact Ltu.reset_exclusive)
    fun _ => .of_rests (by rw [enterComplete_ltu]; exact Ltu.reset_rests)

theorem testStopped_valvesKept (b : Bay) (s : State) : ValvesKept s (testStopped b s) :=
  .ite (enterComplete_valvesKept b s) (.refl s)

/-- The step from s to t keeps bay b's valves exclusive, and has its LTU do what it may if it was at rest. -/
structure FromRest (b : Bay) (s t : State) : Prop where
  exclusive : (s.bay b).ltu.exclusive → (t.bay b).ltu.exclusive
  fills : (s.bay b).ltu.Rests → t.fillsWell b

theorem FromRest.refl (b : Bay) (s : State) : FromRest b s s := ⟨id, .of_rests⟩

theorem FromRest.then {t u : State} (h : FromRest b s t) (g : ValvesKept t u) : FromRest b s u :=
  ⟨g.exclusive b ∘ h.exclusive, g.fills b ∘ h.fills⟩

/-- A change of the controller alone. -/
theorem updCtl_fromRest (b : Bay) (s : State) (f : BayCtl → BayCtl) : FromRest b s (s.updCtl b f) :=
  ⟨by rw [State.updCtl_ltu]; exact id, fun h => .of_rests (by rw [State.updCtl_ltu]; exact h)⟩

theorem stopNormally_fromRest (b : Bay) (s : State) : FromRest b s (stopNormally b s) :=
  ((updCtl_fromRest b s _).then (releaseBay_leakKept b _).valvesKept).then (testStopped_valvesKept b _)

theorem earlyEnd_fromRest (b : Bay) (s : State) : FromRest b s (earlyEnd b s) := by
  unfold earlyEnd
  split
  · exact (((updCtl_fromRest b s _).then (releaseBay_leakKept b _).valvesKept).then (stopRundown_leakKept b _).valvesKept).then
      (testStopped_valvesKept b _)
  · exact .refl b s

/-! ### Aborts -/

/-- The LTU of an aborted bay vents or is at rest (R141). -/
theorem abortedLtu_exclusive (h : (s.bay b).ltu.exclusive) : (s.abortedLtu b).exclusive := by
  unfold State.abortedLtu
  split
  · exact h
  · split
    case h_5 | h_6 | h_7 => exact exclusive_open_vent _ h
    all_goals exact h

theorem abortedLtu_vents (h : s.fillsWell b) (hr : (s.bay b).ctl.state = .running) :
    (s.abortedLtu b).Rests ∨ ((s.abortedLtu b).phase = .vent ∧ (s.abortedLtu b).fill = 0
      ∧ ∃ c, (s.abortedLtu b).cavity (s.recipeOf b) = some c) := by
  unfold State.abortedLtu
  cases h with
  | rests h =>
    left
    split
    · exact h
    · obtain hp | hp := h.phase
      all_goals
        rw [hp]
        exact h
  | vents c hs => rw [hr] at hs; cases hs
  | works c hin h =>
    rw [cavityOf_eq, h.cavity]
    have hclosed {p : LtuPhase} (hp : (s.bay b).ltu.phase = p) (h0 : p ≠ .fill) : (s.bay b).ltu.fill = 0 := h.closed (hp ▸ h0)
    dsimp only
    split
    case h_1 hp => exact .inl ⟨.inl hp, hclosed hp nofun⟩
    case h_2 hp => exact .inl ⟨.inr hp, hclosed hp nofun⟩
    case h_3 hp => exact .inl ⟨.inl rfl, hclosed hp nofun⟩
    case h_4 hp => exact .inr ⟨hp, hclosed hp nofun, c, h.cavity⟩
    all_goals exact .inr ⟨rfl, h.fill_closed, c, h.cavity⟩

theorem abortBay_valvesKept (cause : Cause) (hr : (s.bay b).ctl.state = .running) : ValvesKept s (abortBay b cause s) := by
  obtain ⟨⟨n, a, hb⟩, hw⟩ := abortCore_spec b cause s
  have hwork : BayWork (· = b) s (abortCore b cause s) :=
    (((setCause_work b s cause).trans (updCtl_work b _ _)).trans (risAbort_work b _)).trans
      ((ltuAbort_work b _).trans (releaseBay_work b _))
  have hrecipe : (abortCore b cause s).recipeOf b = s.recipeOf b := recipeOf_congr (by rw [hb]; rfl) hwork.recipe
  refine ValvesKept.trans (.of_work hwork (fun hx => ?_) fun hf => ?_) (testStopped_valvesKept b _)
  · rw [hb]
    exact abortedLtu_exclusive (s := s) (b := b) hx
  · unfold State.fillsWell
    rw [hrecipe, hb]
    obtain h | ⟨hp, h0, c, hc⟩ := abortedLtu_vents hf hr
    · exact .rests ⟨h.phase, h.closed⟩
    · exact .vents c rfl hp hc h0

theorem raiseFault_valvesKept (b : Bay) (cause : Cause) (s : State) : ValvesKept s (raiseFault b cause s) := by
  have hflag : ValvesKept s (s.updCtl b (BayCtl.flagged cause)) := (updCtl_leakKept b s _).valvesKept
  rw [raiseFault_eq]
  split
  · next hr => exact hflag.trans (abortBay_valvesKept cause (by rw [State.updCtl_ctl_same]; exact (running_iff b s).mp hr))
  · exact hflag

/-! ### Sub-phases -/

/-- A RUNNING bay takes a sub-phase. -/
theorem beginSubPhase_fromRest (p : SubPhase) (hr : (s.bay b).ctl.state = .running) : FromRest b s (beginSubPhase b p s) := by
  have hset := updCtl_fromRest b s fun c => { c with subPhase := some p }
  have hleak (hp : p = .leakPre ∨ p = .leakPost) :
      FromRest b s (beginLeak b (s.updCtl b fun c => { c with subPhase := some p })) := by
    refine ⟨(beginLeak_only b _).exclusive ∘ hset.exclusive, fun h =>
      beginLeak_fillsWell ?_ (by rw [State.updCtl_ltu]; exact h)⟩
    unfold BayUnit.inLeak
    rw [State.updCtl_ctl_same]
    exact ⟨hr, by simpa using hp⟩
  unfold beginSubPhase
  cases p with
  | runin => exact hset.then (beginRunin_leakKept b _).valvesKept
  | leakPre => exact hleak (.inl rfl)
  | leakPost => exact hleak (.inr rfl)

/-- A sub-phase that is done leaves the LTU at rest (R3). -/
theorem rests_of_subPhaseDone (hd : s.subPhaseDone b = true) (h : s.fillsWell b) : (s.bay b).ltu.Rests := by
  have hr := running_of_subPhaseDone b s hd
  cases h with
  | rests h => exact h
  | vents c hs => rw [hr] at hs; cases hs
  | works c hin h =>
    have hdone := (leak_done ((inLeak_iff b s).mpr hin)).mp hd
    exact ⟨.inr hdone, h.closed (by rw [hdone]; decide)⟩

theorem runPlan_fromRest (l : List SubPhase) (hr : (s.bay b).ctl.state = .running) : FromRest b s (runPlan b l s) := by
  induction l generalizing s with
  | nil => exact stopNormally_fromRest b s
  | cons p rest ih =>
    have hbegun := beginSubPhase_fromRest p hr
    rw [runPlan_cons]
    unfold goOn
    split
    · next hd =>
      have hrest := ih (running_of_subPhaseDone b _ hd)
      exact ⟨hrest.exclusive ∘ hbegun.exclusive, fun h => hrest.fills (rests_of_subPhaseDone hd (hbegun.fills h))⟩
    · exact hbegun

theorem advance_valvesKept (b : Bay) (s : State) : ValvesKept s (advance b s) := by
  have hplan (hd : s.subPhaseDone b = true) : FromRest b s (runPlan b (s.bay b).ctl.planAfter s) :=
    runPlan_fromRest _ (running_of_subPhaseDone b s hd)
  unfold advance
  split
  · next hd => exact .of_work (runPlan_work b s _) (hplan hd).exclusive fun h => (hplan hd).fills (rests_of_subPhaseDone hd h)
  · exact .refl s

/-- READY to RUNNING (R7). -/
theorem enterRunning_valvesKept (h : (s.bay b).ctl.state = .ready) : ValvesKept s (enterRunning b s) := by
  have hset := updCtl_fromRest b s fun c => { c with state := .running }
  have hplan : FromRest b _ (enterRunning b s) :=
    runPlan_fromRest (s := s.updCtl b fun c => { c with state := .running }) _ (by rw [State.updCtl_ctl_same])
  refine .of_work ((updCtl_work b s _).trans (runPlan_work b _ _)) (hplan.exclusive ∘ hset.exclusive) fun hf => hplan.fills ?_
  rw [State.updCtl_ltu]
  exact BayUnit.FillsWell.rests_of_state hf (by rw [h]; decide) (by rw [h]; decide)

end

end Sys2Proof.Machine
end

section
/-! Frames and ticks keep the valves (O4). The close of a window may end run-in early; that its bay is in RUNIN, with the LTU at
rest, follows from the agreement of RIS and allocator (O8), so `ValvesHeld s t` carries that agreement along. -/

namespace Sys2Proof.Machine

section
variable {s t : State}

/-! ### One bay on a frame -/

theorem enterTest_valvesKept (b : Bay) (s : State) : ValvesKept s (enterTest b s) := by
  unfold enterTest
  split
  · split
    · next hc => exact enterRunning_valvesKept hc.1
    · exact .refl s
  · exact .refl s

theorem fixtureTest_valvesKept (s0 : State) (b : Bay) (s : State) : ValvesKept s (fixtureTest s0 b s) := by
  unfold fixtureTest
  split
  · exact .ite (raiseFault_valvesKept b _ s) (.refl s)
  · exact .refl s

theorem staleTest_valvesKept (s0 : State) (b : Bay) (s : State) : ValvesKept s (staleTest s0 b s) :=
  .ite (raiseFault_valvesKept b _ s) (.refl s)

theorem actOnOil_valvesKept (b : Bay) (r : Recipe) (v : Int) (s : State) : ValvesKept s (actOnOil b r v s) := by
  have hbegin : LeakKept s (beginHold b s) := (updRis_leakKept b s _).trans (latchAlarm_leakKept b _ _)
  exact .ite (raiseFault_valvesKept b _ s) (.ite (.ite (.ite (endHold_leakKept b s).valvesKept (.refl s))
    (.ite hbegin.valvesKept (.refl s))) (.ite (latchAlarm_leakKept b s _).valvesKept (.refl s)))

theorem oilFrame_valvesKept (b : Bay) (s : State) : ValvesKept s (oilFrame b s) := by
  unfold oilFrame
  split
  · exact .ite ((writeSummary_leakKept b s _).valvesKept.trans (actOnOil_valvesKept b _ _ _)) (.refl s)
  · exact .refl s

theorem torqueFrame_valvesKept (b : Bay) (s : State) : ValvesKept s (torqueFrame b s) := by
  unfold torqueFrame
  split
  · exact .ite (((writeSummary_leakKept b s _).trans (updRis_leakKept b _ _)).valvesKept.trans
      (.ite (raiseFault_valvesKept b _ _) (.refl _))) (.refl s)
  · exact .refl s

theorem risFrame_valvesKept (b : Bay) (x : Bool) (s : State) : ValvesKept s (risFrame b x s) := by
  have hsettle (t : State) : ValvesKept t (settleFrame b t) :=
    .ite ((endSettle_leakKept b t).valvesKept.trans (advance_valvesKept b _)) (.refl t)
  exact ((oilFrame_valvesKept b s).trans (torqueFrame_valvesKept b _)).trans (.ite (hsettle _) (.refl _))

/-- An overfilled cavity closes its fill valve ahead of the fault; any other reading is the LTU's (R133). -/
theorem ltuFrame_valvesKept (b : Bay) (s : State) : ValvesKept s (ltuFrame b s) := by
  have hpermit := (permitStart_only b s).valvesKept permitStart_fillsWell
  unfold ltuFrame
  split
  · next hin =>
    dsimp only
    split
    · next c hc =>
      have hworks (hf : (permitStart b s).fillsWell b) : (permitStart b s).WorksOn b c := by
        refine hf.worksOn hc ?_
        unfold BayUnit.inLeak
        rw [(permitStart_only b s).ctl]
        exact (inLeak_iff b s).mp hin
      split
      · have hclose := updLtu_only b (permitStart b s) (f := Ltu.closeFill c) Ltu.closeFill_exclusive
        refine (hpermit.trans (hclose.valvesKept fun hf => ?_)).trans (raiseFault_valvesKept b _ _)
        exact ((hworks hf).updLtu (hworks hf).ltu.closeFill).fillsWell
      · exact (hpermit.trans ((leakFrame_only b _ c).valvesKept fun hf => leakFrame_fillsWell (hworks hf))).trans
          (advance_valvesKept b _)
    · exact hpermit
  · exact .refl s

/-! ### One bay at a tick -/

theorem standstillSet_valvesKept (b : Bay) (s : State) : ValvesKept s (standstillSet b s) :=
  ((((standstillTest_leakKept b s).valvesKept.trans (advance_valvesKept b _)).trans
    ((permitStart_only b _).valvesKept permitStart_fillsWell)).trans
    ((coolTest_only b _).valvesKept coolTest_fillsWell)).trans (testStopped_valvesKept b _)

theorem spuTick_valvesKept (b : Bay) (s : State) : ValvesKept s (spuTick b s) :=
  (updSpu_leakKept b s _).valvesKept.trans (.ite (standstillSet_valvesKept b _) (.refl _))

theorem risCountTick_valvesKept (b : Bay) (s : State) : ValvesKept s (risCountTick b s) := by
  have hdrive : LeakKept s (driveTick b s) := .ite (writeSummary_leakKept b s _) (.refl s)
  have hhold (t : State) : LeakKept t (holdTick b t) :=
    ((updRis_leakKept b t _).trans (writeSummary_leakKept b _ _)).trans (emitBay_leakKept b _ _ _)
  exact (hdrive.trans (.ite (hhold _) (.refl _))).valvesKept.trans (.ite (raiseFault_valvesKept b _ _) (.refl _))

theorem risPhaseTick_valvesKept (b : Bay) (s : State) : ValvesKept s (risPhaseTick b s) := by
  have hend (t : State) : ValvesKept t (risPhaseEnd b t) := by
    refine .ite (raiseFault_valvesKept b _ t) ?_
    split
    · exact (finishStep_leakKept b t).valvesKept.trans (advance_valvesKept b _)
    · exact (updRis_leakKept b t _).valvesKept
    · exact .refl t
  unfold risPhaseTick
  split
  · split
    · exact .ite (.refl s) ((rampTick_leakKept b s _ _ _ _).valvesKept.trans (advance_valvesKept b _))
    · split
      · exact (updRis_leakKept b s _).valvesKept.trans (.ite (hend _) (.refl _))
      · exact .refl s
  · exact .refl s

theorem withdrawRequest_valvesKept (b : Bay) (s : State) : ValvesKept s (withdrawRequest b s) :=
  ((((setOae_leakKept s _).trans (latchAlarm_leakKept b _ _)).trans (emitBay_leakKept b _ _ _)).trans
    (takeResult_leakKept b _ _)).valvesKept.trans (advance_valvesKept b _)

theorem allocTick_valvesKept (l : List Bay) (s : State) : ValvesKept s (allocTick l s) :=
  ((setOae_leakKept s _).valvesKept.trans
    (.foldl _ (fun t b => .ite (withdrawRequest_valvesKept b t) (.refl t)) _ _)).trans
    (.ite (grantTest_leakKept _).valvesKept (.refl _))

theorem bycTick_valvesKept (b : Bay) (s : State) : ValvesKept s (bycTick b s) := by
  have hcount : LeakKept s (if (s.bay b).ctl.state = .stopping then
      s.updCtl b fun c => { c with stoppingTime := c.stoppingTime + 1 } else s) := .ite (updCtl_leakKept b s _) (.refl s)
  have htimed (t : State) : ValvesKept t (stopTimedOut b t) :=
    ((latchAlarm_leakKept b t _).trans (updCtl_leakKept b _ _)).valvesKept.trans (enterComplete_valvesKept b _)
  exact hcount.valvesKept.trans (.ite (htimed _) (.refl _))

theorem leakTick_valvesKept (b : Bay) (s : State) : ValvesKept s (leakTick b s) :=
  (((ltuTick_only b s).valvesKept ltuTick_fillsWell).trans (advance_valvesKept b _)).trans (testStopped_valvesKept b _)

theorem deliverLink_valvesKept (l : List Bay) (s : State) : ValvesKept s (deliverLink l s) :=
  .foldl _ (fun t b => .ite (raiseFault_valvesKept b .link t) (.refl t)) _ s

theorem lfeTick_valvesKept (l : List Bay) (s : State) : ValvesKept s (lfeTick l s) := by
  have hquiet : LeakKept s (if s.lfe.link = .up then { s with lfe := s.lfe.quieter } else s) := .ite (.of_eq rfl rfl) (.refl s)
  refine hquiet.valvesKept.trans (.ite ?_ (.refl _))
  generalize (if s.lfe.link = .up then { s with lfe := s.lfe.quieter } else s) = u
  have hlost : LeakKept u { u with lfe := u.lfe.lose } := .of_eq rfl rfl
  exact hlost.valvesKept.trans (deliverLink_valvesKept l _)

/-! ### Windows, and what a step carries along -/

/-- The step from s to t keeps exclusive valves; and where RIS and allocator agree, it keeps that agreement and the LTUs doing what
they may. -/
structure ValvesHeld (s t : State) : Prop where
  exclusive : ∀ b, (s.bay b).ltu.exclusive → (t.bay b).ltu.exclusive
  fills : Agrees s → (∀ b, s.fillsWell b) → Agrees t ∧ ∀ b, t.fillsWell b

theorem ValvesKept.held (h : ValvesKept s t) (ha : Agrees s → Agrees t) : ValvesHeld s t :=
  ⟨h.exclusive, fun hs hf => ⟨ha hs, fun b => h.fills b (hf b)⟩⟩

theorem ValvesHeld.refl (s : State) : ValvesHeld s s := ⟨fun _ => id, fun ha hf => ⟨ha, hf⟩⟩

theorem ValvesHeld.trans {u : State} (h : ValvesHeld s t) (g : ValvesHeld t u) : ValvesHeld s u :=
  ⟨fun b => g.exclusive b ∘ h.exclusive b, fun ha hf => g.fills (h.fills ha hf).1 (h.fills ha hf).2⟩

theorem ValvesHeld.ite {u : State} {c : Prop} [Decidable c] (h : ValvesHeld s t) (g : ValvesHeld s u) :
    ValvesHeld s (if c then t else u) := by
  split
  · exact h
  · exact g

theorem ValvesHeld.foldl {α : Type} (f : State → α → State) (h : ∀ s x, ValvesHeld s (f s x)) (l : List α) (s : State) :
    ValvesHeld s (l.foldl f s) := by
  induction l generalizing s with
  | nil => exact refl s
  | cons x xs ih => exact (h s x).trans (ih (f s x))

/-- A change that reaches neither bay, slot nor allocator. -/
theorem ValvesHeld.of_eq (hb : t.bays = s.bays) (ho : t.oae = s.oae) (hr : t.rbk = s.rbk) : ValvesHeld s t :=
  (LeakKept.of_eq hb hr).valvesKept.held fun ha => ha.same hb ho

/-- The close of a window: its bay is in RUNIN, with the LTU at rest (R99, R116). -/
theorem closeWindow_held (b : Bay) (s : State) : ValvesHeld s (closeWindow b s) := by
  have hbay : ((s.bay b).ltu.exclusive → ((closeWindow b s).bay b).ltu.exclusive)
      ∧ (Agrees s → s.fillsWell b → (closeWindow b s).fillsWell b) := by
    unfold closeWindow
    split
    · next w r hw _ =>
      have hkept : LeakKept s (((takeResult b (w.result r) (dropWindow b s)).state.emitBay .noiseAttempt b
          (some (w.result r).outcome.name)).grantTest) :=
        (((dropWindow_leakKept b s).trans (takeResult_leakKept b _ _)).trans (emitBay_leakKept b _ _ _)).trans
          (grantTest_leakKept _)
      dsimp only
      split
      · have hend := earlyEnd_fromRest b (((takeResult b (w.result r) (dropWindow b s)).state.emitBay .noiseAttempt b
          (some (w.result r).outcome.name)).grantTest)
        refine ⟨hend.exclusive ∘ hkept.exclusive b, fun ha hf => hend.fills ?_⟩
        have hphase := (ha.bays b trivial).window (by rw [hw]; rfl)
        obtain ⟨hr, hp⟩ := (ha.bays b trivial).runs.inRunin (by rw [hphase]; decide) (by rw [hphase]; decide)
        rw [(hkept.unit b).ltu]
        exact BayUnit.FillsWell.rests_of_runin hf hr hp
      · have hnext := hkept.valvesKept.trans (advance_valvesKept b _)
        exact ⟨hnext.exclusive b, fun _ => hnext.fills b⟩
    · exact ⟨id, fun _ => id⟩
  obtain ⟨hexclusive, hfills⟩ := hbay
  have hwork := closeWindow_work b s
  exact ⟨hwork.exclusive hexclusive, fun ha hf => ⟨closeWindow_agrees ha, fun c => hwork.fillsWell (hfills ha) c (hf c)⟩⟩

theorem oaeFrame_held (b : Bay) (s : State) : ValvesHeld s (oaeFrame b s) :=
  ((windowFrame_leakKept b s).valvesKept.held windowFrame_agrees).trans (.ite (closeWindow_held b _) (.refl _))

theorem windowTick_held (b : Bay) (s : State) : ValvesHeld s (windowTick b s) := by
  unfold windowTick
  split
  · next w hw =>
    have hset (x : Window) : ValvesHeld s (s.setWindow b (some x)) :=
      (setWindow_leakKept b s _).valvesKept.held fun ha => setWindow_agrees ha (by rw [hw]; rfl) x
    exact .ite ((hset _).trans (closeWindow_held b _)) (hset _)
  · exact .refl s

/-! ### The part's ticks and frames -/

theorem tickUnit_held (bays : List Bay) (u : TickUnit) (s : State) : ValvesHeld s (tickUnit bays u s) := by
  have hagree (ha : Agrees s) := tickUnit_agrees ha bays u
  cases u with
  | lfe => exact (lfeTick_valvesKept bays s).held hagree
  | risCount b => exact (risCountTick_valvesKept b s).held hagree
  | risPhase b => exact (risPhaseTick_valvesKept b s).held hagree
  | spu b => exact (spuTick_valvesKept b s).held hagree
  | alloc => exact (allocTick_valvesKept bays s).held hagree
  | window b => exact windowTick_held b s
  | ltu b => exact (leakTick_valvesKept b s).held hagree
  | byc b => exact (bycTick_valvesKept b s).held hagree
  | stc => exact .of_eq rfl rfl rfl

theorem openTick_held (s : State) : ValvesHeld s (openTick s) := .ite (.of_eq rfl rfl rfl) (.refl s)

theorem wholeTick_held (units : List TickUnit) (bays : List Bay) (s : State) : ValvesHeld s (wholeTick units bays s) :=
  ((openTick_held s).trans (.foldl _ (fun t u => tickUnit_held bays u t) _ _)).trans (.of_eq rfl rfl rfl)

theorem expire_held (bays : List Bay) (u : TickUnit) (e : Bool) (s : State) : ValvesHeld s (expire bays u e s) :=
  .ite (((openTick_held s).trans (tickUnit_held bays u _)).trans (.of_eq rfl rfl rfl)) (.refl s)

theorem frameTask_held (s0 : State) (x : FrameTask) (s : State) : ValvesHeld s (frameTask s0 x s) := by
  have hagree (ha : Agrees s) := frameTask_agrees ha s0 x
  obtain ⟨b, u⟩ := x
  cases u with
  | enter => exact (enterTest_valvesKept b s).held hagree
  | fixture => exact (fixtureTest_valvesKept s0 b s).held hagree
  | stale => exact (staleTest_valvesKept s0 b s).held hagree
  | ris => exact (ValvesKept.ite (.refl s) (risFrame_valvesKept b _ s)).held hagree
  | ltu => exact (ValvesKept.ite (.refl s) (ltuFrame_valvesKept b s)).held hagree
  | oae => exact .ite (oaeFrame_held b s) (.refl s)

theorem missingTask_held (x : FrameTask) (s : State) : ValvesHeld s (missingTask x s) := by
  have hagree (ha : Agrees s) := missingTask_agrees ha x
  obtain ⟨b, u⟩ := x
  cases u with
  | stale => exact (staleTest_valvesKept s b s).held hagree
  | oae => exact (discardBlock_leakKept b s).valvesKept.held hagree
  | enter | fixture | ris | ltu => exact .refl s

theorem missingFrames_held (k : Nat) (tasks : List FrameTask) (s : State) : ValvesHeld s (missingFrames k tasks s) := by
  have hmissed : ValvesHeld s { s with chx := s.chx.missing k } := .of_eq rfl rfl rfl
  exact hmissed.trans (.foldl _ (fun t x => missingTask_held x t) _ _)

theorem updSpu_held (b : Bay) (f : Spu → Spu) (s : State) : ValvesHeld s (s.updSpu b f) :=
  (updSpu_leakKept b s f).valvesKept.held fun ha => ha.kept (updSpu_runKept b s f)

theorem acceptFrame_held (f : Bytes) (tasks : List FrameTask) (s : State) : ValvesHeld s (acceptFrame f tasks s) := by
  have hextract : ValvesHeld s { s with lfe := { s.lfe with lastSeq := some (frameSeq f), refusedRun := 0 }
                                        chx := s.chx.extract (framePayload f) } := .of_eq rfl rfl rfl
  exact (hextract.trans (.foldl _ (fun t b => updSpu_held b _ t) _ _)).trans (.foldl _ (fun t x => frameTask_held _ x t) _ _)

theorem resyncSpus_held (s : State) : ValvesHeld s (resyncSpus s) := .foldl _ (fun t b => updSpu_held b _ t) _ s

theorem takeSample_held (f : Bytes) (tasks : List FrameTask) (s : State) : ValvesHeld s (takeSample f tasks s) := by
  have herror : ValvesHeld s (seqError s) := .of_eq rfl rfl rfl
  unfold takeSample
  split
  · exact acceptFrame_held f tasks s
  · exact (missingFrames_held _ tasks s).trans (acceptFrame_held f tasks _)
  · exact (herror.trans (missingFrames_held 1 tasks _)).trans (.of_eq rfl rfl rfl)
  · exact (herror.trans (resyncSpus_held _)).trans (acceptFrame_held f tasks _)

theorem goodFrame_held (x : Bool) (s : State) : ValvesHeld s (goodFrame x s) := by
  have hlfe (l : Lfe) : ValvesHeld s { s with lfe := l } := .of_eq rfl rfl rfl
  unfold goodFrame
  split
  · exact hlfe _
  · exact hlfe _
  · exact .ite ((hlfe _).trans (resyncSpus_held _)) (hlfe _)

theorem sampleArrives_held (f : Bytes) (tasks : List FrameTask) (s : State) : ValvesHeld s (sampleArrives f tasks s) := by
  have hforward (t : State) : ValvesHeld t (forwardSample f t) := .ite (.of_eq rfl rfl rfl) (.of_eq rfl rfl rfl)
  have herror : ValvesHeld s s.frameError := .of_eq rfl rfl rfl
  have hmiss : ValvesHeld s.frameError
      { s.frameError with lfe := { s.frameError.lfe with lastSeq := s.frameError.lfe.lastSeq.map (· + 1) } } := .of_eq rfl rfl rfl
  refine .ite (((goodFrame_held true s).trans (.ite (.refl _) (takeSample_held f tasks _))).trans (hforward _)) ?_
  exact (herror.trans (.ite (.refl _) (hmiss.trans (missingFrames_held 1 tasks _)))).trans (.of_eq rfl rfl rfl)

theorem outputArrives_held (f : Bytes) (s : State) : ValvesHeld s (outputArrives f s) := by
  have hshort (t : State) : ValvesHeld t (outputShort (frameLen f) t) := .ite (.of_eq rfl rfl rfl) (.refl t)
  exact .ite (((goodFrame_held false s).trans (hshort _)).trans (.of_eq rfl rfl rfl)) (.of_eq rfl rfl rfl)

end

end Sys2Proof.Machine
end

section
/-! The valves under every command (O4). A recipe slot changes only while no record is OPEN on it (R56), so a Leak Test Unit at work
keeps its recipe. -/

namespace Sys2Proof.Machine

section
variable {s t : State}

/-! ### Recipes of the LTUs at work -/

/-- The slot of a bay whose LTU is not at rest is pinned and VALID. -/
def WorkPinned (s : State) : Prop :=
  ∀ b, ¬ (s.bay b).ltu.Rests → ∃ k, (s.bay b).ctl.slot = some k ∧ 0 < (s.slot k).pins ∧ (s.slot k).state = .valid

theorem workPinned_of (hpins : PinsMatch s) (hvalid : PinnedValid s) (hbind : BindingsMatch s) (hslot : BoundToSlot s)
    (hf : ∀ b, s.fillsWell b) : WorkPinned s := by
  intro b hb
  have hbinds : (s.bay b).ctl.state.bindsRecord = true := by
    cases hf b with
    | rests h => exact absurd h hb
    | works c hin h => rw [hin.1]; rfl
    | vents c hs => rw [hs]; rfl
  obtain ⟨i, hi⟩ := Option.isSome_iff_exists.mp ((hbind.1 b).trans hbinds)
  obtain ⟨r, hr, ho, -⟩ := openBay_iff.mp ((hbind.2 b i).mp hi)
  obtain ⟨-, hk⟩ := hslot b i r hi hr
  have hopens : s.opensSlot r.slot i = true := by
    unfold State.opensSlot
    rw [hr]
    simp [ho]
  have hpinned : 0 < (s.rbk.get r.slot).pins := by
    rw [hpins r.slot]
    exact List.countP_pos_iff.mpr ⟨i, List.mem_finRange i, hopens⟩
  exact ⟨r.slot, hk, hpinned, hvalid r.slot hpinned⟩

/-! ### Management commands -/

theorem reset_fillsWell (hb : ∀ b, t.bay b = .reset) (b : Bay) : t.fillsWell b := .of_rests (by rw [hb]; exact Ltu.reset_rests)

/-- A change of the controller of a bay whose LTU is at rest. -/
theorem updCtl_valvesKept {b : Bay} (f : BayCtl → BayCtl) (h : (s.bay b).ctl.state ≠ .running)
    (h' : (s.bay b).ctl.state ≠ .stopping) :
    ValvesKept s (s.updCtl b f) :=
  .of_work (updCtl_work b s f) (updCtl_fromRest b s f).exclusive fun hf =>
    (updCtl_fromRest b s f).fills (BayUnit.FillsWell.rests_of_state hf h h')

theorem lock_valvesKept (b : Bay) (s : State) : ValvesKept s (s.updCtl b BayCtl.lock) := by
  by_cases hs : (s.bay b).ctl.state = .running ∨ (s.bay b).ctl.state = .stopping
  · obtain ⟨hstate, hsub⟩ := BayCtl.lock_running hs
    have hslot : (s.bay b).ctl.lock.slot = (s.bay b).ctl.slot := by unfold BayCtl.lock; split <;> rfl
    exact (updBay_leakKept b s ⟨rfl, hstate, hsub, hslot⟩).valvesKept
  · obtain ⟨hr, hst⟩ := not_or.mp hs
    exact updCtl_valvesKept _ hr hst

theorem openTest_valvesKept {b : Bay} (hb : (s.bay b).ctl.state = .vacant) (k : SlotIx) (r : Recipe) (serial : Bytes) (i : RecIx)
    (roles : List (Role × EntryIx)) : ValvesKept s (openTest b k r serial i roles s) := by
  have hopened : LeakKept s (({ s with art := s.art.set i (some (openingRecord s b k r serial)) } : State).pin k) :=
    ⟨fun _ => .refl _, (pin_work (B := anyBay) { s with art := s.art.set i (some (openingRecord s b k r serial)) } k).recipe⟩
  have hstate : ((({ s with art := s.art.set i (some (openingRecord s b k r serial)) } : State).pin k).bay b).ctl.state =
      .vacant := by
    rw [State.pin_bay]
    exact hb
  have hstarted := updCtl_valvesKept (BayCtl.start k r.plan roles i) (by rw [hstate]; decide) (by rw [hstate]; decide)
  exact (hopened.valvesKept.trans hstarted).trans (updSpu_leakKept b _ fun _ => Spu.started r.spuParams).valvesKept

/-! ### What a command makes of the valves -/

/-- The step from s to t keeps exclusive valves; and where work pins its slots and RIS and allocator agree, it keeps the LTUs doing
what they may. -/
structure ValvesServed (s t : State) : Prop where
  exclusive : ∀ b, (s.bay b).ltu.exclusive → (t.bay b).ltu.exclusive
  fills : WorkPinned s → Agrees s → (∀ b, s.fillsWell b) → ∀ b, t.fillsWell b

theorem ValvesHeld.served (h : ValvesHeld s t) : ValvesServed s t := ⟨h.exclusive, fun _ ha hf => (h.fills ha hf).2⟩

theorem ValvesKept.served (h : ValvesKept s t) : ValvesServed s t := ⟨h.exclusive, fun _ _ hf b => h.fills b (hf b)⟩

/-- A change that reaches neither bay nor slot. -/
theorem ValvesServed.of_eq (hb : t.bays = s.bays) (hr : t.rbk = s.rbk) : ValvesServed s t :=
  (LeakKept.of_eq hb hr).valvesKept.served

theorem ValvesServed.ite {u : State} {c : Prop} [Decidable c] (h : ValvesServed s t) (g : ValvesServed s u) :
    ValvesServed s (if c then t else u) := by
  split
  · exact h
  · exact g

theorem ValvesServed.refl (s : State) : ValvesServed s s := .of_eq rfl rfl

/-- A slot changes unpinned or LOADING, so it is none that an LTU at work runs by. -/
theorem setSlot_served (k : SlotIx) (x : Slot) (hk : (s.slot k).pins = 0 ∨ (s.slot k).state = .loading) :
    ValvesServed s (s.setSlot k x) := by
  refine ⟨fun _ => id, fun hw _ hf b => ?_⟩
  by_cases hr : (s.bay b).ltu.Rests
  · exact .of_rests hr
  · obtain ⟨j, hj, hpins, hvalid⟩ := hw b hr
    have hne : k.val ≠ j.val := by
      intro he
      obtain rfl := Fin.ext he
      obtain h0 | hl := hk
      · exact hpins.ne' h0
      · rw [hvalid] at hl
        cases hl
    have hrecipe : (s.setSlot k x).recipeOf b = s.recipeOf b := by
      unfold State.recipeOf
      rw [State.setSlot_bay, hj]
      simp [State.setSlot, Vector.get_eq_getElem, Vector.getElem_set, hne]
    unfold State.fillsWell
    rw [hrecipe]
    exact hf b

theorem Served.valvesServed {c : Command} (hc : Served s c t) : ValvesServed s t := by
  cases hc with
  | unchanged => exact .refl s
  | slot c k x _ hk => exact setSlot_served k x hk
  | start b k r serial i roles hb => exact (openTest_valvesKept hb k r serial i roles).served
  | abortReady b => exact ((setCause_leakKept b s _).valvesKept.trans (enterComplete_valvesKept b _)).served
  | abortRunning b hb => exact (abortBay_valvesKept _ hb).served
  | unload b hb =>
    have hunloaded := updCtl_valvesKept BayCtl.unload (by rw [hb]; decide) (by rw [hb]; decide)
    exact (hunloaded.trans (updSpu_leakKept b _ _).valvesKept).served
  | lock b => exact (lock_valvesKept b s).served
  | unlock b hb => exact (updCtl_valvesKept BayCtl.unlock (by rw [hb]; decide) (by rw [hb]; decide)).served
  | ackBay b mask => exact (updCtl_leakKept b s _).valvesKept.served
  | params | resetTaken | channelMap | outputMap | ackCell | release | counter | snapshot => exact .of_eq rfl rfl

theorem serve_valvesServed (c : Command) (s : State) : ValvesServed s (serve c c.body s) := by
  obtain hc | ⟨q, -, hc⟩ | ⟨q, -, hc⟩ := serve_cases c c.body s <;> rw [hc]
  · exact .refl s
  · exact .of_eq rfl rfl
  · obtain ⟨hexclusive, hfills⟩ := (body_served (reqArgs q.payload) s.popRequest c).valvesServed
    exact ⟨hexclusive, fun hw ha => hfills hw (ha.same rfl rfl)⟩

/-! ### Commands that reach neither bay nor slot -/

theorem enqueueRequest_valvesServed (f : Bytes) (s : State) : ValvesServed s (enqueueRequest f s) :=
  .ite (.of_eq rfl rfl) (.of_eq rfl rfl)

theorem requestArrives_valvesServed (f : Bytes) (s : State) : ValvesServed s (requestArrives f s) := by
  have henqueue := enqueueRequest_valvesServed f
  unfold requestArrives
  split
  · exact .ite (henqueue s) (.of_eq rfl rfl)
  · refine .ite ⟨(henqueue (s.sendF f)).exclusive, fun hw ha => (henqueue (s.sendF f)).fills hw (ha.same rfl rfl)⟩
      (.of_eq rfl rfl)
  all_goals exact .refl s

theorem frameArrives_valvesServed (p : Port) (f : Bytes) (s : State) : ValvesServed s (frameArrives p f s) := by
  unfold frameArrives
  split
  · cases p <;> exact .of_eq rfl rfl
  · exact .refl s

theorem insertResponse_valvesServed (s : State) : ValvesServed s (insertResponse s) := by
  unfold insertResponse
  split
  · exact .refl s
  · exact .ite (.of_eq rfl rfl) (.refl s)

theorem insertReportPart_rbk (s : State) : (insertReportPart s).rbk = s.rbk := by
  unfold insertReportPart
  split
  · rfl
  split
  · rfl
  split
  · dsimp only
    split <;> rfl
  · rfl

theorem serveRefusal_valvesServed (s : State) : ValvesServed s (serveRefusal s) := by
  unfold serveRefusal
  split
  · split
    · exact .of_eq rfl rfl
    · exact .refl s
  · exact .refl s

/-- Reset puts every LTU at rest. -/
theorem reset_served (hb : ∀ b, t.bay b = .reset) : ValvesServed s t :=
  ⟨fun b _ => by rw [hb]; exact Ltu.reset_exclusive, fun _ _ _ => reset_fillsWell hb⟩

/-! ### Every command -/

theorem exec_valvesServed {c : Instr} (he : exec c s = .next t) : ValvesServed s t := by
  have hserve (m : Command) (he : exec m.instr s = .next t) : ValvesServed s t := by
    rw [exec_instr] at he
    cases he
    exact serve_valvesServed m s
  cases c with
  | powerOn strap => cases he; exact reset_served fun b => State.reset_bay b
  | msTick units bays => cases he; exact (wholeTick_held units bays s).served
  | sampleFrame f l => cases he; exact .ite (sampleArrives_held f l s).served (.refl s)
  | outputFrame f => cases he; exact .ite (outputArrives_held f s).served (.refl s)
  | mgmtReqReceive f => cases he; exact requestArrives_valvesServed f s
  | framePassThrough p f => cases he; exact frameArrives_valvesServed p f s
  | responseInsert => cases he; exact insertResponse_valvesServed s
  | reportPartInsert => cases he; exact .of_eq (insertReportPart_bays s) (insertReportPart_rbk s)
  | resetApply => cases he; exact .ite (reset_served fun b => State.reset_bay b) (.refl s)
  | unknownCommand => cases he; exact serveRefusal_valvesServed s
  | identify => exact hserve .identify he
  | setCellParams => exact hserve .setCellParams he
  | readCellParams => exact hserve .readCellParams he
  | loadChannelMap => exact hserve .loadChannelMap he
  | loadOutputMap => exact hserve .loadOutputMap he
  | readChannel => exact hserve .readChannel he
  | recipePage => exact hserve .recipePage he
  | recipeCommit => exact hserve .recipeCommit he
  | recipeErase => exact hserve .recipeErase he
  | recipeStatus => exact hserve .recipeStatus he
  | bayStart => exact hserve .bayStart he
  | bayAbort => exact hserve .bayAbort he
  | bayUnload => exact hserve .bayUnload he
  | bayLock => exact hserve .bayLock he
  | bayUnlock => exact hserve .bayUnlock he
  | ackAlarms => exact hserve .ackAlarms he
  | readBay => exact hserve .readBay he
  | readRecord => exact hserve .readRecord he
  | releaseRecord => exact hserve .releaseRecord he
  | counterSetup => exact hserve .counterSetup he
  | counterSnapshot => exact hserve .counterSnapshot he
  | resetPart => exact hserve .resetPart he
  | standstillJudged | stopTimeout | linkLoss | settleTimeout | dwellEnd | rerunEnd | maxHoldTime | laneWaitLimit | windowLimit
  | coolWaitLimit | fillTimeout | leakSettleEnd | leakMeasureEnd | ventEnd =>
    cases he
    exact (expire_held _ _ _ s).served

theorem step_valvesServed (hs : step s = .next t) : ValvesServed s t := by
  unfold step at hs
  split at hs
  · cases hs; exact .refl s
  · next c rest _ =>
    obtain ⟨hexclusive, hfills⟩ := exec_valvesServed hs
    exact ⟨hexclusive, fun hw ha => hfills hw (ha.same rfl rfl)⟩

end

/-- Settles O4: the valve bits are decided by the LTU's own operations, each of which sets one bit of a pair with the other cleared;
the LTU works only where it entered a cavity, on a slot that stays pinned, and leaves FILL before its bay leaves the leak
sub-phase. -/
theorem stepKeepsValvesExclusive : Obligations.StepKeepsValvesExclusive := by
  refine ⟨fun s t hs he b => (step_valvesServed he).exclusive b (hs b), ?_⟩
  intro s t _ hpins hvalid hbind hslot hrun hlanes hfill he
  have ha : Agrees s := (agrees_iff s).mpr ⟨hrun, hlanes⟩
  have hf := (fillsSafely_iff ha).mp hfill
  have hw := workPinned_of hpins hvalid hbind hslot hf
  exact (fillsSafely_iff (step_agrees ha he)).mpr ((step_valvesServed he).fills hw ha hf)

end Sys2Proof.Machine
end

section
/-! The ends of a cool wait, of a fill and of a leak measurement by time (O58, O59). Each ends an attempt: `AttemptEnds` collects what
the LTU does then, and `leakExpiry` says that the tick does nothing else, for the LTU is not DONE and its bay goes on with the leak
sub-phase. -/

namespace Sys2Proof.Machine

section
variable {b : Bay} {c : Cavity} {s t v : State} {x : ResultName} {f : AxleRecord → AxleRecord} {u : Ltu}

/-! ### The end of an attempt (R140, R143) -/

/-- An attempt of the bay's LTU ends with outcome x: f is written into the bound record, and u is the LTU afterwards. -/
structure AttemptEnds (b : Bay) (x : ResultName) (f : AxleRecord → AxleRecord) (u : Ltu) (s t : State) : Prop where
  work : BayWork (· = b) s t
  writes : Writes b f s t
  counted : Counted .leakAttempt b (s.bay b).ctl.slot (some x) s t
  bay : t.bay b = { s.bay b with ltu := u }

theorem writeBound_stc (b : Bay) (f : AxleRecord → AxleRecord) (s : State) : (s.writeBound b f).stc = s.stc := by
  unfold State.writeBound
  repeat' split
  all_goals rfl

theorem Counted.of_stc {ev : CounterEvent} {k : Option SlotIx} {y : Option ResultName} (h : Counted ev b k y s t)
    (he : v.stc = t.stc) : Counted ev b k y s v := by
  unfold Counted
  rw [he]
  exact h

theorem leakAttempt_ends (b : Bay) (x : ResultName) (s : State) : AttemptEnds b x id (s.bay b).ltu s (leakAttempt b x s) :=
  ⟨leakAttempt_work b s x, emitBay_writes b s _ (by decide), emit_counted s .leakAttempt b _ _, rfl⟩

theorem AttemptEnds.offer (h : AttemptEnds b x id u s t) (c : Cavity) (y : LeakResult) :
    AttemptEnds b x (fun r => r.withLeak (some (t.leakEntry b c y))) { u with offered := true } s (offerLeakEntry b c y t) where
  work := h.work.trans (offerLeakEntry_work b t c y)
  writes := h.writes.trans (offerLeakEntry_writes b c y t)
  counted := h.counted.of_stc (writeBound_stc b _ t)
  bay := by rw [offerLeakEntry_bay, h.bay]

theorem AttemptEnds.then (h : AttemptEnds b x f u s t) (g : Ltu → Ltu) : AttemptEnds b x f (g u) s (t.updLtu b g) where
  work := h.work.trans (updLtu_work b t g)
  writes := h.writes.trans (updLtu_writes b t g)
  counted := h.counted.of_stc rfl
  bay := by rw [updLtu_bay, h.bay]

/-- Work of the LTU ahead of the end. -/
theorem AttemptEnds.after {g : Ltu → Ltu} (h : AttemptEnds b x f u (s.updLtu b g) t) : AttemptEnds b x f u s t where
  work := (updLtu_work b s g).trans h.work
  writes := (updLtu_writes b s g).trans h.writes
  counted := by
    have hcounted := h.counted
    rw [updLtu_bay] at hcounted
    exact hcounted
  bay := by rw [h.bay, updLtu_bay]

theorem incompleteEnd_ends (b : Bay) (c : Cavity) (s : State) :
    AttemptEnds b .incomplete (fun r => r.withLeak (some (s.leakEntry b c .incomplete))) { (s.bay b).ltu with offered := true } s
      (incompleteEnd b c s) := (leakAttempt_ends b .incomplete s).offer c .incomplete

theorem grossEnd_ends (b : Bay) (c : Cavity) (s : State) :
    AttemptEnds b .gross (fun r => r.withLeak (some (s.leakEntry b c .gross)))
      ({ (s.bay b).ltu with offered := true }.enterVent c .next) s (grossEnd b c s) :=
  ((leakAttempt_ends b .gross s).offer c .gross).then _

/-- A FAIL or INVALID with budget left is no final attempt (R137). -/
theorem actOnDecay_refill {o : DecayOutcome} (ho : o ≠ .pass) (hb : 0 < (s.bay b).ltu.budget) :
    AttemptEnds b o.name id { (s.bay b).ltu.enterVent c .refill with budget := 0 } s (actOnDecay b c o s) := by
  have hact : actOnDecay b c o s = (leakAttempt b o.name s).updLtu b fun u => { u.enterVent c .refill with budget := 0 } :=
    if_pos ⟨ho, hb⟩
  rw [hact]
  exact (leakAttempt_ends b o.name s).then fun u => { u.enterVent c .refill with budget := 0 }

/-- A PASS, or any outcome without budget, is final (R137). -/
theorem actOnDecay_final {o : DecayOutcome} (h : o = .pass ∨ (s.bay b).ltu.budget = 0) :
    AttemptEnds b o.name (fun r => r.withLeak (some (s.leakEntry b c o.entry)))
      ({ (s.bay b).ltu with offered := true }.enterVent c .next) s (actOnDecay b c o s) := by
  have hact : actOnDecay b c o s = (offerLeakEntry b c o.entry (leakAttempt b o.name s)).updLtu b (Ltu.enterVent c .next) :=
    if_neg fun ⟨ho, hb⟩ => h.elim ho hb.ne'
  rw [hact]
  exact ((leakAttempt_ends b o.name s).offer c o.entry).then _

/-! ### The next cavity after a cool wait (R132) -/

theorem roleReading_congr (hr : (t.bay b).ctl.roles = (s.bay b).ctl.roles) (hx : t.chx = s.chx) (role : Role) :
    t.roleReading b role = s.roleReading b role := by
  unfold State.roleReading State.roleLatch State.roleEntry State.latch
  rw [hr, hx]

theorem updLtu_roleReading (b : Bay) (s : State) (g : Ltu → Ltu) (role : Role) :
    (s.updLtu b g).roleReading b role = s.roleReading b role :=
  roleReading_congr (s := s) (t := s.updLtu b g) (by rw [updLtu_bay]) rfl role

theorem nextCavity_eq {r : Recipe} {i : Nat} {nx : Cavity} (hq : s.recipeOf b = some r) (hi : (s.bay b).ltu.cavityIndex = some i)
    (hnx : r.cavities[i + 1]? = some nx) (h0 : 0 < nx.coolWaitLimit) :
    nextCavity b s = s.updLtu b (Ltu.inCavity nx (i + 1) (s.coolEnough b nx)) := by
  obtain ⟨hlt, he⟩ := List.getElem?_eq_some_iff.mp hnx
  have hfrom : s.cavitiesFrom b (i + 1) = nx :: r.cavities.drop (i + 2) := by
    unfold State.cavitiesFrom
    rw [hq, ← he]
    exact List.drop_eq_getElem_cons hlt
  unfold nextCavity
  rw [hi]
  dsimp only
  rw [hfrom, enterCavities_cons b _ (i + 1) s h0]

/-- A cool wait that ends its cavity INCOMPLETE enters the next one. -/
theorem coolWaitEnd_ends {r : Recipe} {i : Nat} {nx : Cavity} (hq : s.recipeOf b = some r)
    (hi : (s.bay b).ltu.cavityIndex = some i) (hnx : r.cavities[i + 1]? = some nx) (h0 : 0 < nx.coolWaitLimit) :
    AttemptEnds b .incomplete (fun r => r.withLeak (some (s.leakEntry b c .incomplete)))
      ({ (s.bay b).ltu with offered := true }.inCavity nx (i + 1) (s.coolEnough b nx)) s (coolWaitEnd b c s) := by
  have hend := incompleteEnd_ends b c s
  have hrecipe : (incompleteEnd b c s).recipeOf b = some r :=
    (recipeOf_congr (by rw [hend.bay]) fun k => by rw [hend.writes.rbk]).trans hq
  have hcool : (incompleteEnd b c s).coolEnough b nx = s.coolEnough b nx := by
    unfold State.coolEnough State.cavityTemp
    rw [roleReading_congr (s := s) (by rw [hend.bay]) hend.work.chx, hend.bay]
  unfold coolWaitEnd
  rw [nextCavity_eq hrecipe (by rw [hend.bay]; exact hi) hnx h0, hcool]
  exact hend.then _

/-! ### The tick at which a phase ends -/

/-- The state in which the tick has raised the phase timer. -/
def State.leakTimed (s : State) (b : Bay) : State := s.updLtu b fun u => { u with phaseTimer := (s.bay b).ltu.phaseTimer + 1 }

theorem leakTimed_bay (s : State) (b : Bay) : (s.leakTimed b).bay b =
    { s.bay b with ltu := { (s.bay b).ltu with phaseTimer := (s.bay b).ltu.phaseTimer + 1 } } := updLtu_bay b s _

theorem ltuTick_ends {n : Nat} (hc : s.cavityOf b = some c) (hn : (s.bay b).ltu.limit c = some n)
    (ht : n ≤ (s.bay b).ltu.phaseTimer + 1) : ltuTick b s = phaseEnd b c (s.leakTimed b) := by
  unfold ltuTick
  rw [hc]
  dsimp only
  rw [hn]
  exact if_pos ht

/-- The leak sub-phase goes on with the LTU's next phase. -/
theorem leakTick_ends {n : Nat} (hin : s.inLeak b = true) (hc : s.cavityOf b = some c) (hn : (s.bay b).ltu.limit c = some n)
    (ht : n ≤ (s.bay b).ltu.phaseTimer + 1) (hend : AttemptEnds b x f u s (phaseEnd b c (s.leakTimed b)))
    (hu : u.phase ≠ .done) : leakTick b s = phaseEnd b c (s.leakTimed b) := by
  obtain ⟨hr, hsub⟩ := (inLeak_iff b s).mp hin
  unfold leakTick
  rw [ltuTick_ends hc hn ht]
  have hb := hend.bay
  generalize phaseEnd b c (s.leakTimed b) = w at hb
  have hinw : w.inLeak b = true := (inLeak_iff b w).mpr (by rw [hb]; exact ⟨hr, hsub⟩)
  have hstay : advance b w = w := if_neg (mt (leak_done hinw).mp (by rw [hb]; exact hu))
  rw [hstay]
  exact testStopped_of_ne (by rw [hb, hr]; exact nofun)

/-- An attempt that ends by time, as the whole part sees it. -/
structure AttemptTimedOut (b : Bay) (x : ResultName) (f : AxleRecord → AxleRecord) (u : Ltu) (s t : State) : Prop where
  kept : KeptBut b s t
  tbs : t.tbs = (s.serving (.ltu b)).tbs
  counted : Counted .leakAttempt b (s.bay b).ctl.slot (some x) s t
  bay : t.bay b = { s.bay b with ltu := u }
  art : t.art = (s.writeBound b f).art

theorem leakExpiry {p : LtuPhase} {n : Nat} (ha : s.awaits (.ltu b)) (hin : s.inLeak b = true) (hc : s.cavityOf b = some c)
    (hp : (s.bay b).ltu.phase = p) (hn : (s.bay b).ltu.limit c = some n) (ht : n ≤ (s.bay b).ltu.phaseTimer + 1)
    (hend : AttemptEnds b x f u (s.ticking (.ltu b)) (phaseEnd b c ((s.ticking (.ltu b)).leakTimed b))) (hu : u.phase ≠ .done) :
    AttemptTimedOut b x f u s (expire [] (.ltu b) (s.ltuIn b p && s.ltuExpires b) s) := by
  have hexp : (s.ltuIn b p && s.ltuExpires b) = true := by simp [State.ltuIn, State.ltuExpires, hp, hc, hn, ht]
  have htick : tickUnit [] (.ltu b) (s.ticking (.ltu b)) = phaseEnd b c ((s.ticking (.ltu b)).leakTimed b) :=
    leakTick_ends (s := s.ticking (.ltu b)) hin hc hn ht hend hu
  rw [expire_ticking hexp ha, htick]
  exact ⟨.of_ticking hend.work, rfl, hend.counted.of_stc rfl, hend.bay, ((ticking_writes b s _).trans hend.writes).art⟩

/-- The bound record with the entry of a cavity that had none (R32). -/
theorem AttemptTimedOut.entry {e : LeakEntry} (h : AttemptTimedOut b x (fun r => r.withLeak (some e)) u s t) {j : RecIx}
    {y : AxleRecord} (hj : s.bindsOpen b j y) (hl : y.leaks.length < 3) (hid : ∀ l ∈ y.leaks, l.id ≠ e.id) :
    t.art.get j = some { y with leaks := y.leaks ++ [e] } := by
  have hwith : y.withLeak (some e) = { y with leaks := y.leaks ++ [e] } := if_pos ⟨hid, hl⟩
  rw [h.art, writeBound_open _ hj, ← hwith]
  exact (get_set_art _ _ _ _).trans (if_pos rfl)

theorem AttemptTimedOut.art_eq (h : AttemptTimedOut b x id u s t) : t.art = s.art := h.art.trans (writeBound_id s b)

/-! ### Cool wait and fill (R132, R133) -/

theorem leakTimed_leakEntry (s : State) (b : Bay) (c : Cavity) (y : LeakResult) :
    (s.leakTimed b).leakEntry b c y = s.leakEntry b c y := by
  unfold State.leakEntry
  rw [leakTimed_bay]

theorem leakTimed_coolEnough (s : State) (b : Bay) (c : Cavity) : (s.leakTimed b).coolEnough b c = s.coolEnough b c := by
  unfold State.coolEnough State.cavityTemp
  rw [leakTimed_bay]
  unfold State.leakTimed
  rw [updLtu_roleReading]

theorem coolEnough_iff (s : State) (b : Bay) (c : Cavity) :
    s.coolEnough b c = true ↔ s.roleReading b c.tempRole ≤ c.maxStartTemp ∧ (s.bay b).ltu.startPermitted = true := by
  exact (Bool.and_eq_true_iff).trans (and_congr decide_eq_true_iff Iff.rfl)

theorem phaseEnd_coolWait {r : Recipe} {i : Nat} {nx : Cavity} (hp : (s.bay b).ltu.phase = .coolWait)
    (hq : s.recipeOf b = some r) (hi : (s.bay b).ltu.cavityIndex = some i) (hnx : r.cavities[i + 1]? = some nx)
    (h0 : 0 < nx.coolWaitLimit) :
    AttemptEnds b .incomplete (fun r => r.withLeak (some (s.leakEntry b c .incomplete)))
      ({ (s.bay b).ltu with offered := true }.inCavity nx (i + 1) (s.coolEnough b nx)) s (phaseEnd b c (s.leakTimed b)) := by
  have hphase : phaseEnd b c (s.leakTimed b) = coolWaitEnd b c (s.leakTimed b) := by
    unfold phaseEnd
    rw [show ((s.leakTimed b).bay b).ltu.phase = .coolWait by rw [leakTimed_bay]; exact hp]
  have hrecipe : (s.leakTimed b).recipeOf b = some r :=
    (recipeOf_congr (s := s) (t := s.leakTimed b) (by rw [leakTimed_bay]) fun _ => rfl).trans hq
  have hend := coolWaitEnd_ends (c := c) hrecipe (by rw [leakTimed_bay]; exact hi) hnx h0
  rw [leakTimed_leakEntry, leakTimed_coolEnough, leakTimed_bay] at hend
  rw [hphase]
  exact hend.after

theorem phaseEnd_fill (hp : (s.bay b).ltu.phase = .fill) :
    AttemptEnds b .gross (fun r => r.withLeak (some (s.leakEntry b c .gross)))
      ({ (s.bay b).ltu with offered := true }.enterVent c .next) s (phaseEnd b c (s.leakTimed b)) := by
  have hphase : phaseEnd b c (s.leakTimed b) = grossEnd b c (s.leakTimed b) := by
    unfold phaseEnd
    rw [show ((s.leakTimed b).bay b).ltu.phase = .fill by rw [leakTimed_bay]; exact hp]
  have hend := grossEnd_ends b c (s.leakTimed b)
  rw [leakTimed_leakEntry, leakTimed_bay] at hend
  rw [hphase]
  exact hend.after

end

/-- Settles O58: either end is an attempt's end, and neither leaves the LTU DONE. -/
theorem leakPhasesTimeOut : Obligations.LeakPhasesTimeOut := by
  intro b c s ha hin hc
  refine ⟨fun r i nx hp ht hq hi hnx h0 => ?_, fun hp ht => ?_⟩
  · have h := leakExpiry ha hin hc hp (by unfold Ltu.limit; rw [hp]) ht
      (phaseEnd_coolWait (s := s.ticking (.ltu b)) hp hq hi hnx h0) (inCavity_ne_done nx _ _ _)
    refine ⟨_, rfl, h.kept, h.tbs, h.counted, ?_⟩
    rw [h.bay]
    refine ⟨rfl, rfl, rfl, rfl, rfl, rfl, rfl, rfl, rfl, ?_, fun j y hj hl hid => h.entry hj hl hid⟩
    exact if_congr (coolEnough_iff s b nx) rfl rfl
  · have h := leakExpiry ha hin hc hp (by unfold Ltu.limit; rw [hp]) ht (phaseEnd_fill (s := s.ticking (.ltu b)) hp) nofun
    exact ⟨_, rfl, h.kept, h.tbs, h.counted, h.bay, fun j y hj hl hid => h.entry hj hl hid⟩

end Sys2Proof.Machine
end

section
/-! LEAK_MEASURE_END (O59): the compensated decay and its rate are formed from the readings of the tick and judged (R135 to R137). -/

namespace Sys2Proof.Machine

section
variable {b : Bay} {c : Cavity} {s : State} {d : Int}

/-! ### The judgement (R137) -/

theorem judgeDecay_name (c : Cavity) (d : Int) :
    (judgeDecay c d).name = if c.decayLimit < d then .fail else if d < -c.negDecayLimit then .invalid else .pass := by
  unfold judgeDecay
  split
  · rfl
  · split <;> rfl

theorem judgeDecay_entry (c : Cavity) (d : Int) :
    (judgeDecay c d).entry = if c.decayLimit < d then .fail else if d < -c.negDecayLimit then .incomplete else .pass := by
  unfold judgeDecay
  split
  · rfl
  · split <;> rfl

theorem judgeDecay_ne_pass (h : c.decayLimit < d ∨ d < -c.negDecayLimit) : judgeDecay c d ≠ .pass := by
  unfold judgeDecay
  split
  · exact nofun
  · next hd =>
    rw [if_pos (h.resolve_left hd)]
    exact nofun

theorem judgeDecay_pass (h : d ≤ c.decayLimit ∧ -c.negDecayLimit ≤ d) : judgeDecay c d = .pass := by
  unfold judgeDecay
  rw [if_neg h.1.not_gt, if_neg h.2.not_gt]

/-! ### The end of the measure time -/

/-- The LTU with what the end of the measure time has read and formed (R135, R136). -/
def Ltu.measured (p1 t1 d rate : Int) (u : Ltu) : Ltu :=
  { u with p1 := some p1, t1 := some t1, decay := some d, rate := some rate }

variable {p0 t0 p1 t1 pa rate : Int}

/-- The state in which the readings of the end of the measure time are taken. -/
structure MeasuredAt (b : Bay) (c : Cavity) (p0 t0 p1 t1 pa d rate : Int) (s : State) : Prop where
  inMeasure : (s.bay b).ltu.phase = .measure
  startPress : (s.bay b).ltu.p0 = some p0
  startTemp : (s.bay b).ltu.t0 = some t0
  endPress : p1 = s.roleReading b c.pressRole
  endTemp : t1 = s.roleReading b c.tempRole
  baro : pa = s.roleReading b .baro
  decayFormed : d = decayOf p0 p1 pa t0 t1
  rateFormed : rate = rateOf d c.measureTime

theorem phaseEnd_measure (h : MeasuredAt b c p0 t0 p1 t1 pa d rate s) :
    phaseEnd b c (s.leakTimed b) =
      actOnDecay b c (judgeDecay c d) ((s.leakTimed b).updLtu b (Ltu.measured p1 t1 d rate)) := by
  have hphase : phaseEnd b c (s.leakTimed b) = measureEnd b c (s.leakTimed b) := by
    unfold phaseEnd
    rw [show ((s.leakTimed b).bay b).ltu.phase = .measure by rw [leakTimed_bay]; exact h.inMeasure]
  have hread (x : Role) : (s.leakTimed b).roleReading b x = s.roleReading b x := updLtu_roleReading b s _ x
  rw [hphase]
  unfold measureEnd State.cavityPressure State.cavityTemp
  dsimp only
  rw [hread, hread, hread, ← h.endPress, ← h.endTemp, ← h.baro, leakTimed_bay]
  dsimp only
  rw [h.startPress, h.startTemp, Option.getD_some, Option.getD_some, ← h.decayFormed, ← h.rateFormed]
  rfl

theorem measured_bay (s : State) (b : Bay) (p1 t1 d rate : Int) : ((s.leakTimed b).updLtu b (Ltu.measured p1 t1 d rate)).bay b =
    { s.bay b with
      ltu := { (s.bay b).ltu.measured p1 t1 d rate with phaseTimer := (s.bay b).ltu.phaseTimer + 1 } } := by
  rw [updLtu_bay, leakTimed_bay]
  rfl

/-- A FAIL or INVALID with budget left is vented for a refill. -/
theorem measure_refill (h : MeasuredAt b c p0 t0 p1 t1 pa d rate s) (hd : c.decayLimit < d ∨ d < -c.negDecayLimit)
    (hb : 0 < (s.bay b).ltu.budget) :
    AttemptEnds b (judgeDecay c d).name id { ((s.bay b).ltu.measured p1 t1 d rate).enterVent c .refill with budget := 0 } s
      (phaseEnd b c (s.leakTimed b)) := by
  rw [phaseEnd_measure h]
  have hbay := measured_bay s b p1 t1 d rate
  have hend := actOnDecay_refill (b := b) (c := c) (s := (s.leakTimed b).updLtu b (Ltu.measured p1 t1 d rate))
    (judgeDecay_ne_pass hd) (by rw [hbay]; exact hb)
  rw [hbay] at hend
  exact hend.after.after

/-- A PASS, or any outcome without budget, is final. -/
theorem measure_final (h : MeasuredAt b c p0 t0 p1 t1 pa d rate s)
    (hd : (d ≤ c.decayLimit ∧ -c.negDecayLimit ≤ d) ∨ (s.bay b).ltu.budget = 0) :
    AttemptEnds b (judgeDecay c d).name
      (fun r => r.withLeak (some
        { id := c.id, attempts := (s.bay b).ltu.attempts, p0 := some p0, t0 := some t0, p1 := some p1, t1 := some t1
          decay := some d, rate := some rate, result := (judgeDecay c d).entry }))
      ({ (s.bay b).ltu.measured p1 t1 d rate with offered := true }.enterVent c .next) s (phaseEnd b c (s.leakTimed b)) := by
  rw [phaseEnd_measure h]
  have hbay := measured_bay s b p1 t1 d rate
  have hend := actOnDecay_final (b := b) (c := c) (s := (s.leakTimed b).updLtu b (Ltu.measured p1 t1 d rate))
    (hd.imp judgeDecay_pass fun h0 => by rw [hbay]; exact h0)
  unfold State.leakEntry at hend
  rw [hbay] at hend
  rw [← h.startPress, ← h.startTemp]
  exact hend.after.after

end

/-- Settles O59: with budget the attempt of a bad decay is not final and writes no entry, any other writes one. -/
theorem leakMeasureJudged : Obligations.LeakMeasureJudged := by
  intro b c p0 t0 p1 t1 pa d rate s ha hin hc hp ht hp0 ht0 hp1 ht1 hpa hd hrate
  have hm : MeasuredAt b c p0 t0 p1 t1 pa d rate (s.ticking (.ltu b)) := ⟨hp, hp0, ht0, hp1, ht1, hpa, hd, hrate⟩
  have hlimit : (s.bay b).ltu.limit c = some c.measureTime := by unfold Ltu.limit; rw [hp]
  rw [← judgeDecay_name]
  by_cases hrefill : (c.decayLimit < d ∨ d < -c.negDecayLimit) ∧ 0 < (s.bay b).ltu.budget
  · obtain ⟨hbad, hbudget⟩ := hrefill
    have h := leakExpiry ha hin hc hp hlimit ht (measure_refill hm hbad hbudget) nofun
    refine ⟨_, rfl, h.kept, h.tbs, h.counted, by rw [h.bay], by rw [h.bay], fun _ _ => ⟨h.art_eq, by rw [h.bay]; rfl⟩,
      fun hfinal => ?_⟩
    omega
  · have hfinal : (d ≤ c.decayLimit ∧ -c.negDecayLimit ≤ d) ∨ (s.bay b).ltu.budget = 0 := by omega
    have h := leakExpiry ha hin hc hp hlimit ht (measure_final hm hfinal) nofun
    refine ⟨_, rfl, h.kept, h.tbs, h.counted, by rw [h.bay], by rw [h.bay],
      fun hbad hbudget => absurd ⟨hbad, hbudget⟩ hrefill,
      fun _ => ⟨by rw [h.bay]; rfl, fun j y hj hl hid => ?_⟩⟩
    rw [← judgeDecay_entry]
    exact h.entry hj hl hid

end Sys2Proof.Machine
end

section
/-! A counter in its range never falls but by the commands of R154 (O11): no deed lowers one. -/

namespace Sys2Proof.Machine

namespace CountersRise

theorem refl (s : State) : CountersRise s s.stc.counters := fun _ hi => ⟨le_rfl, hi⟩

theorem trans {s t : State} {cs : Vector Counter 8} (h : CountersRise s t.stc.counters) (g : CountersRise t cs) :
    CountersRise s cs := by
  intro i hi
  obtain ⟨hle, hmax⟩ := h i hi
  obtain ⟨gle, gmax⟩ := g i hmax
  exact ⟨hle.trans gle, gmax⟩

theorem of_stc {s t : State} (h : t.stc = s.stc) : CountersRise s t.stc.counters := by
  rw [h]
  exact refl s

theorem ite {s t u : State} {c : Prop} [Decidable c] (h : CountersRise s t.stc.counters) (g : CountersRise s u.stc.counters) :
    CountersRise s (if c then t else u).stc.counters := by
  split
  · exact h
  · exact g

end CountersRise

section
variable (b : Bay) (s : State)

/-! ### Operations that count -/

theorem emit_rise (e : CounterEvt) : CountersRise s (s.emit e).stc.counters := by
  intro i hi
  rw [State.emit_counter]
  split
  · exact ⟨Counter.le_add 1 hi, Counter.add_le 1 _⟩
  · exact ⟨le_rfl, hi⟩

theorem grantOne_rise (q : LaneRequest) : CountersRise s (grantOne q s).stc.counters := by
  unfold grantOne
  split
  · exact .trans (.of_stc rfl) (emit_rise _ _)
  · exact .refl s

theorem grantLoop_rise (l : List LaneRequest) (s : State) : CountersRise s (grantLoop l s).stc.counters := by
  induction l generalizing s with
  | nil => exact .refl s
  | cons q rest ih => exact .ite ((grantOne_rise s q).trans (ih _)) (.refl s)

theorem releaseBay_rise : CountersRise s (releaseBay b s).stc.counters := by
  have hdrop (t : State) : CountersRise t (dropWindow b t).stc.counters := .of_stc rfl
  have hqueue : CountersRise s { s with oae := { s.oae with queue := s.oae.queue.filter fun q => q.bay != b } }.stc.counters :=
    .of_stc rfl
  have hfree := hqueue.trans (.ite (c := ((s.bay b).window.isSome || s.holdsLanes b) = true) (hdrop _) (.refl _))
  exact (hfree.trans (.ite (emit_rise _ _) (.refl _))).trans (.ite (grantLoop_rise _ _) (.refl _))

theorem enterComplete_rise : CountersRise s (enterComplete b s).stc.counters := by
  have hfinal : CountersRise s (s.finalizedAt b).stc.counters := by
    unfold State.finalizedAt
    split
    · exact .trans (.of_stc rfl) (emit_rise _ _)
    · exact .refl s
  rw [enterComplete_eq]
  exact hfinal.trans (releaseBay_rise b ((s.finalizedAt b).updCtl b BayCtl.unbind))

theorem State.writeBound_stc (f : AxleRecord → AxleRecord) : (s.writeBound b f).stc = s.stc := by
  unfold State.writeBound
  repeat' split
  all_goals rfl

end

/-! ### Every command -/

theorem Deed.rise {s t : State} (h : Deed s t) : CountersRise s t.stc.counters := by
  cases h with
  | count cs h => exact h
  | record b f h => exact .of_stc (s.writeBound_stc b f)
  | cause b c h => exact .of_stc (s.writeBound_stc b _)
  | complete b h => exact enterComplete_rise b s
  | outside h => exact .of_stc h.stc
  | _ => exact .refl s

theorem Deeds.rise {s t : State} (h : Deeds s t) : CountersRise s t.stc.counters :=
  h.keeps (P := fun s t => CountersRise s t.stc.counters) .refl .trans Deed.rise

/-- Only COUNTER_SETUP and COUNTER_SNAPSHOT write a counter other than by deeds and a cleared alarm flag. -/
theorem Served.rise {s t : State} {m : Command} (h : Served s m t) (hsetup : m ≠ .counterSetup)
    (hsnapshot : m ≠ .counterSnapshot) : CountersRise s t.stc.counters := by
  cases h with
  | abortReady b h => exact (abortReady_deeds b s _ h).rise
  | abortRunning b h => exact (abortBay_deeds b s _ h).rise
  | ackCell mask =>
    intro i hi
    have hvalue : ((Machine.ackCell mask s).stc.counters.get i).value = (s.stc.counters.get i).value := by
      simp [Machine.ackCell, ackCounters_eq, Vector.get_eq_getElem]
    rw [hvalue]
    exact ⟨le_rfl, hi⟩
  | counter i c h => exact absurd rfl hsetup
  | snapshot clear => exact absurd rfl hsnapshot
  | _ => exact .refl s

theorem insertReportPart_stc (s : State) : (insertReportPart s).stc = s.stc := by
  unfold insertReportPart
  dsimp only
  repeat' split
  all_goals rfl

theorem Outcome.rise {s t : State} {c : Instr} (h : Outcome s c t) (hc : ¬ LowersCounters c) : CountersRise s t.stc.counters := by
  obtain ⟨hsnapshot, hsetup, hreset, hpower⟩ : c ≠ .counterSnapshot ∧ c ≠ .counterSetup ∧ c ≠ .resetApply
      ∧ ¬ ∃ strap, c = .powerOn strap := by simpa only [LowersCounters, not_or] using hc
  cases h with
  | deeds _ h => exact h.rise
  | powerOn strap => exact absurd ⟨strap, rfl⟩ hpower
  | reset => exact absurd rfl hreset
  | report => exact .of_stc (insertReportPart_stc s)
  | served m st rs hq h => exact h.rise (fun hm => hsetup (congrArg Command.instr hm)) fun hm => hsnapshot (congrArg Command.instr hm)

/-- Settles O11. -/
theorem countersNeverFall : Obligations.CountersNeverFall :=
  fun _ _ _ hs h hc i => ((exec_next h).rise hc i (hs i)).1

end Sys2Proof.Machine
end

section
/-! SAMPLE_FRAME with a bad frame (O20): it is counted missing, and forwarded with the complement of its check. -/

namespace Sys2Proof.Machine

/-! ### Before the frame is forwarded -/

/-- What a bad SAMPLE frame makes of the state before it is forwarded (R159). -/
def countBadSample (tasks : List FrameTask) (s : State) : State :=
  if s.lfe.link = .lost then s.frameError
  else missingFrames 1 tasks { s.frameError with lfe := { s.lfe with lastSeq := s.lfe.lastSeq.map (· + 1) } }

theorem badSample_eq (f : Bytes) (tasks : List FrameTask) (s : State) :
    badSample f tasks s = ((countBadSample tasks s).sendC (badFrameOut f)).openOpportunity := rfl

section
variable {tasks : List FrameTask} {s : State}

theorem countBadSample_lost (hl : s.lfe.link = .lost) : countBadSample tasks s = s.frameError := if_pos hl

/-- Outside the bays' units one frame has been counted missing (R67). -/
theorem countBadSample_work (hl : s.lfe.link ≠ .lost) : BayWork anyBay
    { s.frameError with lfe := { s.lfe with lastSeq := s.lfe.lastSeq.map (· + 1) }, chx := s.chx.missing 1 }
    (countBadSample tasks s) := by
  unfold countBadSample
  rw [if_neg hl]
  exact missingFrames_work tasks { s.frameError with lfe := { s.lfe with lastSeq := s.lfe.lastSeq.map (· + 1) } } 1

/-- A FRAME_ERROR is counted, and no other. -/
theorem countBadSample_errors : EventKept .frameError s.frameError (countBadSample tasks s) := by
  unfold countBadSample
  refine .ite (.refl _ _) (.trans ?_ (missingFrames_blockWork 1 tasks _).errors)
  exact .of_stc rfl

theorem countBadSample_counted (i : Fin 8) (he : (s.stc.counters.get i).event = .frameError)
    (hm : (s.stc.counters.get i).mode = .count) :
    ((countBadSample tasks s).stc.counters.get i).value = min ((s.stc.counters.get i).value + 1) (2 ^ 32 - 1) := by
  have hadd := frameError_counted s i he hm
  rw [(countBadSample_errors i).2 (by rw [hadd]; exact he), hadd]
  exact Counter.add_value 1 _

/-- Ports, cell parameters, timebase and channel entries are as they were. -/
theorem countBadSample_kept : (countBadSample tasks s).ports = s.ports ∧ (countBadSample tasks s).mga = s.mga
    ∧ (countBadSample tasks s).tbs = s.tbs ∧ (countBadSample tasks s).chx.entries = s.chx.entries := by
  by_cases hl : s.lfe.link = .lost
  · rw [countBadSample_lost hl]
    exact ⟨rfl, rfl, rfl, rfl⟩
  · have hw := countBadSample_work (tasks := tasks) hl
    exact ⟨hw.ports, hw.mga, hw.tbs, by rw [hw.chx]; rfl⟩

/-! ### The opportunity behind the frame (R146, R147) -/

theorem sendC_openOpportunity_lfe (g : Bytes) (hl : s.lfe.link ≠ .lost) : ((s.sendC g).openOpportunity).lfe =
    { s.lfe with opportunity := ((s.sendC g).openOpportunity).arbiterServes } := by
  rw [← arbiterChoice_eq]
  exact congrArg (fun o => { s.lfe with opportunity := o }) (if_neg hl)

theorem sendC_openOpportunity_lost (g : Bytes) (hl : s.lfe.link = .lost) :
    ((s.sendC g).openOpportunity).lfe = { s.lfe with opportunity := none } :=
  congrArg (fun o => { s.lfe with opportunity := o }) (if_pos hl)

end

/-! ### The statement -/

theorem exec_sampleFrame_bad {f : Bytes} (tasks : List FrameTask) (s : State) (hk : frameKind f = some 1)
    (hb : frameGood f = false) : exec (.sampleFrame f tasks) s =
      .next ((countBadSample tasks s).sendC (badFrameOut f)).openOpportunity := by
  rw [exec_sampleFrame tasks s hk, sampleArrives, if_neg (by rw [hb]; exact Bool.false_ne_true), badSample_eq]

theorem badFrameOut_whole {f : Bytes} (h : frameWhole f = true) :
    badFrameOut f = f.take (8 + frameLen f) ++ leBytes 4 (~~~ frameCheck (f.take (8 + frameLen f))).toNat := if_pos h

/-- Settles O20: the frame is counted missing unless the link is LOST, and then leaves port C. -/
theorem badSampleForwarded : Obligations.BadSampleForwarded := by
  intro f tasks s hk hb hwhole
  obtain ⟨hports, hmga, htbs, hentries⟩ := countBadSample_kept (tasks := tasks) (s := s)
  refine ⟨_, exec_sampleFrame_bad tasks s hk hb, ?_, countBadSample_counted, hmga, htbs, hentries, fun hl => ?_, fun hl => ?_⟩
  · rw [badFrameOut_whole hwhole, ← hports]
    rfl
  · have hlost := countBadSample_lost (tasks := tasks) hl
    rw [hlost]
    exact ⟨sendC_openOpportunity_lost _ hl, rfl, rfl⟩
  · have hw := countBadSample_work (tasks := tasks) hl
    refine ⟨?_, fun e => ?_⟩
    · rw [sendC_openOpportunity_lfe _ (by rw [hw.lfe]; exact hl), hw.lfe]
    · show (countBadSample tasks s).latch e = _
      simp [State.latch, hw.chx, Chx.missing, Vector.get_eq_getElem, Latch.aged]

end Sys2Proof.Machine
end

section
/-! What the arbiter inserts on port C at an opportunity (O24, O25), and frames that only pass (O23). -/

namespace Sys2Proof.Machine

theorem State.serves_iff (s : State) (o : Offer) :
    s.serves o = true ↔ s.lfe.opportunity = some o ∧ s.lfe.link ≠ .lost := by
  simp [State.serves]

/-! ### Responses (R147, R163, R177) -/

theorem responsePayload_length (r : MgmtResponse) : (responsePayload r).length = 8 + r.results.length := by
  simp only [responsePayload, List.length_append, leBytes_len, List.length_cons, List.length_nil]

/-- A response stands in its frame under the header of R172, its payload by the offsets of R177. -/
theorem responseFrame_eq (s : State) (r : MgmtResponse) : responseFrame s r =
    sealFrame ([4, r.dest, s.lfe.nodeAddr.zeroExtend 8, 0] ++ leBytes 2 s.mga.rspSeq.toNat
      ++ leBytes 2 (8 + r.results.length)
      ++ (leBytes 2 r.code ++ leBytes 2 r.tag ++ [BitVec.ofNat 8 (statusCode r.status), 0]
        ++ leBytes 2 r.results.length ++ r.results)) := by
  unfold responseFrame buildFrame
  rw [responsePayload_length]
  rfl

theorem insertResponse_idle {s : State}
    (h : s.lfe.opportunity ≠ some .response ∨ s.lfe.link = .lost ∨ s.mga.responses = []) : insertResponse s = s := by
  unfold insertResponse
  split
  · rfl
  · next r rest hr =>
    refine if_neg fun hs => ?_
    obtain ⟨ho, hl⟩ := (s.serves_iff _).mp hs
    obtain h | h | h := h
    · exact h ho
    · exact hl h
    · exact List.cons_ne_nil r rest (hr.symm.trans h)

theorem insertResponse_head {s : State} {r : MgmtResponse} {rest : List MgmtResponse} (ho : s.lfe.opportunity = some .response)
    (hl : s.lfe.link ≠ .lost) (hr : s.mga.responses = r :: rest) : insertResponse s =
      { s.sendC (responseFrame s r) with
        mga := { s.mga with
          responses := rest, rspSeq := s.mga.rspSeq + 1, resetDue := s.mga.resetDue || r.resets } } := by
  unfold insertResponse
  rw [hr]
  exact if_pos ((s.serves_iff _).mpr ⟨ho, hl⟩)

/-- Settles O24. -/
theorem responseInserted : Obligations.ResponseInserted := by
  refine fun s => ⟨fun h => congrArg Host.Outcome.next (insertResponse_idle h), fun r rest ho hl hr => ?_⟩
  refine congrArg Host.Outcome.next ((insertResponse_head ho hl hr).trans ?_)
  rw [responseFrame_eq]
  rfl

/-! ### Report parts (R147, R148, R180) -/

theorem insertReportPart_idle {s : State}
    (h : s.lfe.opportunity ≠ some .report ∨ s.lfe.link = .lost ∨ s.rsp.spool = []) : insertReportPart s = s := by
  unfold insertReportPart
  split
  · rfl
  next i rest hp =>
  split
  · rfl
  · refine if_neg fun hs => ?_
    obtain ⟨ho, hl⟩ := (s.serves_iff _).mp hs
    obtain h | h | h := h
    · exact h ho
    · exact hl h
    · exact List.cons_ne_nil i rest (hp.symm.trans h)

/-- A part in the middle leaves the record where it is, and the last one makes it SENT (R148). -/
theorem insertReportPart_head {s : State} {i : RecIx} {rest : List RecIx} {r : AxleRecord} {e : Emission}
    (ho : s.lfe.opportunity = some .report) (hl : s.lfe.link ≠ .lost) (hp : s.rsp.spool = i :: rest)
    (hr : s.art.get i = some r) (he : s.headEmission i r = e) : insertReportPart s =
      { s.sendC (reportFrame s i r e) with
        art := if e.partCount ≤ e.nextPart + 1 then s.art.set i (some r.reported) else s.art
        rsp :=
          { spool := if e.partCount ≤ e.nextPart + 1 then rest else s.rsp.spool
            emission := if e.partCount ≤ e.nextPart + 1 then none else some { e with nextPart := e.nextPart + 1 }
            reportSeq := s.rsp.reportSeq + 1 } } := by
  subst he
  have hserves := (s.serves_iff .report).mpr ⟨ho, hl⟩
  unfold insertReportPart
  simp only [hp, hr, hserves, if_true]
  split
  · simp only [recordSent, State.sendC, hp, List.drop_succ_cons, List.drop_zero]
  · simp only [State.sendC, hp]

/-- The emission of the head record is the one in progress, or one of all its parts (R148). -/
theorem State.headEmission_eq (s : State) (i : RecIx) (r : AxleRecord) : s.headEmission i r =
    s.rsp.emission.getD { partCount := ((recordBytes i r.reported).length + 511) / 512, nextPart := 0 } := by
  unfold State.headEmission
  cases s.rsp.emission <;> rfl

/-- A part stands in its frame under the header of R172, its payload by the offsets of R180. -/
theorem reportFrame_eq (s : State) (i : RecIx) (r : AxleRecord) (e : Emission) {share : Bytes}
    (h : share = ((recordBytes i r.reported).drop (512 * e.nextPart)).take 512) : reportFrame s i r e =
    sealFrame ([5, 255, s.lfe.nodeAddr.zeroExtend 8, 0] ++ leBytes 2 s.rsp.reportSeq.toNat
      ++ leBytes 2 (5 + (serialBytes r.serial).length + share.length)
      ++ ([BitVec.ofNat 8 i.val] ++ serialBytes r.serial ++ [BitVec.ofNat 8 e.nextPart, BitVec.ofNat 8 e.partCount]
        ++ leBytes 2 (alarmWord (s.bay r.bay).ctl.alarms) ++ share)) := by
  have hpart : partBytes s i r.reported e.nextPart e.partCount =
      [BitVec.ofNat 8 i.val] ++ serialBytes r.serial ++ [BitVec.ofNat 8 e.nextPart, BitVec.ofNat 8 e.partCount]
        ++ leBytes 2 (alarmWord (s.bay r.bay).ctl.alarms) ++ share := by rw [h]; rfl
  have hlen : (partBytes s i r.reported e.nextPart e.partCount).length = 5 + (serialBytes r.serial).length + share.length := by
    simp only [hpart, List.length_append, leBytes_len, List.length_cons, List.length_nil]
    omega
  unfold reportFrame buildFrame
  rw [hlen, hpart]
  rfl

/-- Settles O25. -/
theorem reportPartInserted : Obligations.ReportPartInserted := by
  refine ⟨record_laid, fun s => ⟨fun h => congrArg Host.Outcome.next (insertReportPart_idle h), ?_⟩⟩
  intro i rest r e bs share ho hl hp hr hbs he hshare
  subst hbs
  have hhead := insertReportPart_head ho hl hp hr ((s.headEmission_eq i r).trans he.symm)
  rw [reportFrame_eq s i r e hshare] at hhead
  exact congrArg Host.Outcome.next hhead

/-! ### Frames that pass (R158, R173) -/

theorem frameArrives_f {f : Bytes} {s : State} (h : arrivalOf .f s.lfe.nodeAddr f = .pass) : frameArrives .f f s = s.sendC f :=
  if_pos h

theorem frameArrives_c {f : Bytes} {s : State} (h : arrivalOf .c s.lfe.nodeAddr f = .pass) : frameArrives .c f s = s.sendF f :=
  if_pos h

/-- On port F every frame but SAMPLE passes. -/
theorem arrivalOf_f_pass {f : Bytes} (h : frameKind f ≠ some 1) (n : BitVec 6) : arrivalOf .f n f = .pass := by
  unfold arrivalOf
  split
  · next hk => exact absurd hk h
  · next hp _ => cases hp
  · next hp _ => cases hp
  · rfl

/-- On port C every frame passes that is neither OUTPUT nor a request. -/
theorem arrivalOf_c_pass {f : Bytes} (h2 : frameKind f ≠ some 2) (h3 : frameKind f ≠ some 3) (n : BitVec 6) :
    arrivalOf .c n f = .pass := by
  unfold arrivalOf
  split
  · next hp _ => cases hp
  · next hk => exact absurd hk h2
  · next hk => exact absurd hk h3
  · rfl

/-- A request to another node passes on port C. -/
theorem arrivalOf_request_pass {f : Bytes} {n : BitVec 6} (h3 : frameKind f = some 3) (hb : frameDest f ≠ 255)
    (hn : n = 0 ∨ frameDest f ≠ n.toNat) : arrivalOf .c n f = .pass := by
  unfold arrivalOf
  rw [h3]
  exact (if_neg fun h => hn.elim h.1 fun hd => hd h.2).trans (if_neg fun h => hb h.1)

/-- Settles O23. -/
theorem framesPass : Obligations.FramesPass := by
  refine fun f s => ⟨fun hk => ?_, fun hk => ?_⟩
  · exact congrArg Host.Outcome.next (frameArrives_f (arrivalOf_f_pass hk _))
  · have hpass : arrivalOf .c s.lfe.nodeAddr f = .pass := by
      obtain ⟨h2, h3⟩ | ⟨h3, hb, hn⟩ := hk
      · exact arrivalOf_c_pass h2 h3 _
      · exact arrivalOf_request_pass h3 hb hn
    exact congrArg Host.Outcome.next (frameArrives_c hpass)

end Sys2Proof.Machine
end

section
/-! Requests on the counters: COUNTER_SETUP (O42) and COUNTER_SNAPSHOT (O43). -/

namespace Sys2Proof.Machine

/-! ### COUNTER_SETUP (R151) -/

section
variable {args : Bytes} {i : Fin 8}

theorem counterArg_eq : counterArg args = some i ↔ byteAt args 0 = i.val := by
  unfold counterArg
  split
  · rw [Option.some_inj, Fin.ext_iff]
  · next h => exact ⟨nofun, fun hi => absurd (hi ▸ i.isLt) h⟩

/-- The slot match is absent, code 255, or a slot. -/
theorem slotMatchArg_eq {slot : Option SlotIx} : slotMatchArg args = some slot ↔
    (byteAt args 6 = 255 ∧ slot = none) ∨ ∃ k : SlotIx, byteAt args 6 = k.val ∧ slot = some k := by
  unfold slotMatchArg
  split
  · next h =>
    refine ⟨fun hs => .inl ⟨h, (Option.some.inj hs).symm⟩, fun hs => ?_⟩
    obtain ⟨-, rfl⟩ | ⟨k, hk, -⟩ := hs
    · rfl
    · omega
  · next h =>
    rw [Option.map_eq_some_iff, or_iff_right fun hs => h hs.1]
    exact exists_congr fun k => and_congr slotArg_eq eq_comm

theorem CounterEvent.occupancy_iff (ev : CounterEvent) : ev.occupancy = true ↔ ev = .laneWaiting ∨ ev = .spoolDepth := by
  cases ev <;> simp [CounterEvent.occupancy]

/-- The elements of a COUNTER_SETUP of counter i are in their ranges and agree: an occupancy event is counted by counters 0 and 1
alone, and only such an event in another mode than COUNT (R151). -/
structure SetupAgrees (i : Nat) (args : Bytes) (ev : CounterEvent) (mode : CounterMode) (slot : Option SlotIx) : Prop where
  eventCode : counterEventOf (byteAt args 1) = some ev
  modeCode : counterModeOf (byteAt args 2) = some mode
  slotCode : slotMatchArg args = some slot
  threshold : byteAt args 3 ≤ 12
  baySet : byteAt args 4 < 16
  counter : ev = .laneWaiting ∨ ev = .spoolDepth → i ≤ 1
  occupancy : mode ≠ .count → ev = .laneWaiting ∨ ev = .spoolDepth

/-- A counter just set up. -/
def counterOf (args : Bytes) (ev : CounterEvent) (mode : CounterMode) (slot : Option SlotIx) : Counter :=
  { Counter.reset with
    event := ev, mode := mode, threshold := byteAt args 3, baySet := BitVec.ofNat 4 (byteAt args 4),
    resultSet := BitVec.ofNat 8 (byteAt args 5), slotMatch := slot, alarmLimit := natAt args 8 4 }

theorem setupCounter_eq_some {i : Nat} {c : Counter} : setupCounter i args = some c ↔
    ∃ ev mode slot, SetupAgrees i args ev mode slot ∧ c = counterOf args ev mode slot := by
  have hchecks (ev : CounterEvent) (mode : CounterMode) :
      (within 0 12 (byteAt args 3) && decide (byteAt args 4 < 16) && (!ev.occupancy || decide (i ≤ 1))
        && (mode == .count || ev.occupancy)) = true ↔
      byteAt args 3 ≤ 12 ∧ byteAt args 4 < 16 ∧ (ev = .laneWaiting ∨ ev = .spoolDepth → i ≤ 1)
        ∧ (mode ≠ .count → ev = .laneWaiting ∨ ev = .spoolDepth) := by
    rw [← CounterEvent.occupancy_iff]
    cases ev.occupancy <;> simp [within, and_assoc]
  constructor
  · intro h
    unfold setupCounter at h
    split at h
    · next ev mode slot hev hmode hslot =>
      split at h
      · next hc =>
        obtain ⟨hthreshold, hbays, hcounter, hoccupancy⟩ := (hchecks ev mode).mp hc
        exact ⟨ev, mode, slot, ⟨hev, hmode, hslot, hthreshold, hbays, hcounter, hoccupancy⟩, (Option.some.inj h).symm⟩
      · cases h
    · cases h
  · rintro ⟨ev, mode, slot, ⟨hev, hmode, hslot, hthreshold, hbays, hcounter, hoccupancy⟩, rfl⟩
    unfold setupCounter
    rw [hev, hmode, hslot]
    exact if_pos ((hchecks ev mode).mpr ⟨hthreshold, hbays, hcounter, hoccupancy⟩)

theorem doCounterSetup_agreed {ev : CounterEvent} {mode : CounterMode} {slot : Option SlotIx} (s : State)
    (hi : byteAt args 0 = i.val) (h : SetupAgrees i args ev mode slot) : doCounterSetup args s =
      .ok { s with stc := { s.stc with counters := s.stc.counters.set i (counterOf args ev mode slot) } } [] := by
  unfold doCounterSetup
  rw [counterArg_eq.mpr hi]
  dsimp only
  rw [setupCounter_eq_some.mpr ⟨ev, mode, slot, h, rfl⟩]

theorem doCounterSetup_refused (s : State)
    (h : ∀ (i : Fin 8) (ev : CounterEvent) (mode : CounterMode) (slot : Option SlotIx),
      byteAt args 0 = i.val → ¬ SetupAgrees i args ev mode slot) : doCounterSetup args s = .refuse s .badArg := by
  unfold doCounterSetup
  split
  · rfl
  next i hi =>
  split
  · rfl
  · next c hc =>
    obtain ⟨ev, mode, slot, hagrees, -⟩ := setupCounter_eq_some.mp hc
    exact absurd hagrees (h i ev mode slot (counterArg_eq.mp hi))

end

/-- Settles O42: the checks of R151 pass for the elements in their ranges, and for no others. -/
theorem counterSetUp : Obligations.CounterSetUp := by
  intro q args s h hargs
  subst hargs
  refine ⟨fun i ev mode slot hi hev hmode hthreshold hbays hslot hcounter hoccupancy => ?_, fun hbad => ?_⟩
  · exact exec_replied h (doCounterSetup_agreed _ hi
      ⟨hev, hmode, slotMatchArg_eq.mpr hslot, hthreshold, hbays, hcounter, hoccupancy⟩)
  · refine exec_replied h (doCounterSetup_refused _ fun i ev mode slot hi hagrees => ?_)
    obtain ⟨hev, hmode, hslot, hthreshold, hbays, hcounter, hoccupancy⟩ := hagrees
    have hslot := slotMatchArg_eq.mp hslot
    have hilt := i.isLt
    rw [hev, hmode] at hbad
    obtain hb | hb | hb | hb | hb | hb | ⟨hb, ho⟩ | ⟨hb, hlane, hspool⟩ := hbad
    · omega
    · cases hb
    · cases hb
    · omega
    · omega
    · obtain ⟨hnone, -⟩ | ⟨k, hk, -⟩ := hslot
      · exact hb.2 hnone
      · omega
    · have := hcounter (ho.imp Option.some.inj Option.some.inj)
      omega
    · obtain ho | ho := hoccupancy fun hm => hb (congrArg some hm)
      · exact hlane (congrArg some ho)
      · exact hspool (congrArg some ho)

/-! ### COUNTER_SNAPSHOT (R155) -/

theorem flagOf_flag (b : Bool) : flagOf (if b then 1 else 0) = some b := by cases b <;> rfl

theorem flagOf_none {n : Nat} (h : 1 < n) : flagOf n = none := by
  rw [← Option.not_isSome_iff_eq_none, flagOf_isSome_iff]
  omega

theorem doCounterSnapshot_taken {args : Bytes} {clear : Bool} (s : State) (h : byteAt args 0 = if clear then 1 else 0) :
    doCounterSnapshot args s =
      .ok { s with stc := s.stc.takeSnapshot s.tbs.cellTime clear } (snapshotBytes s.tbs.cellTime s.stc) := by
  unfold doCounterSnapshot
  rw [h, flagOf_flag]

theorem doCounterSnapshot_refused {args : Bytes} (s : State) (h : 1 < byteAt args 0) :
    doCounterSnapshot args s = .refuse s .badArg := by
  unfold doCounterSnapshot
  rw [flagOf_none h]

/-- The results of a snapshot: the values, the cell time, and a byte each of SATURATED and alarm flags (R178). -/
theorem snapshotBytes_eq (now : BitVec 32) (x : Stc) : snapshotBytes now x =
    x.counters.toList.flatMap (fun c => leBytes 4 c.value) ++ leBytes 4 now.toNat
      ++ [BitVec.ofNat 8 (flagsNat (x.counters.toList.map (·.saturated))),
          BitVec.ofNat 8 (flagsNat (x.counters.toList.map (·.alarm)))] :=
  List.append_assoc _ _ _

/-- Settles O43. -/
theorem snapshotTaken : Obligations.SnapshotTaken := by
  refine fun q s h => ⟨fun clear hc => ?_, fun hbad => exec_replied h (doCounterSnapshot_refused _ hbad)⟩
  rw [← snapshotBytes_eq]
  exact exec_replied h (doCounterSnapshot_taken _ hc)

end Sys2Proof.Machine
end

section
/-! Power-on and the reset of RESET_PART, with the values they give (O15, O16), and the request for the reset (O44). -/

namespace Sys2Proof.Machine

/-! ### Power-on (R169) -/

/-- Settles O15: apart from the node address, the queue and the ports, the part is at `State.reset`. -/
theorem powerOnValues : Obligations.PowerOnValues := by
  intro strap s
  refine ⟨powerOn strap s, rfl, rfl, rfl, rfl, fun b => ⟨State.reset_bay b, Vector.get_replicate _ _ b⟩, rfl,
    fun e => ⟨Vector.get_replicate _ _ e, Vector.get_replicate _ _ e⟩, State.reset_slot, State.reset_art, rfl, rfl,
    fun l => Vector.get_replicate _ _ l, fun i => Vector.get_replicate _ _ i, rfl, rfl, rfl⟩

/-! ### RESET_PART (R170) -/

theorem applyReset_idle {s : State} (h : s.mga.resetDue = false) : applyReset s = s :=
  if_neg (by rw [h]; exact Bool.false_ne_true)

theorem applyReset_due {s : State} (h : s.mga.resetDue = true) : applyReset s = s.resetPart := if_pos h

theorem Slot.resetPart_loading {k : Slot} (h : k.state = .loading) : k.resetPart = .reset := by
  unfold Slot.resetPart
  rw [h]

/-- A slot with a verdict on its image loses its pins alone (R41). -/
theorem Slot.resetPart_validated {k : Slot} (h : k.state = .valid ∨ k.state = .invalid) :
    k.resetPart = { k with pins := 0 } := by
  unfold Slot.resetPart
  obtain h | h := h <;> rw [h]

/-- Settles O16: an element at a time, by the RESET_PART columns of the blocks. -/
theorem resetPartValues : Obligations.ResetPartValues := by
  refine fun s => ⟨fun h => congrArg Host.Outcome.next (applyReset_idle h), fun h => ?_⟩
  refine ⟨s.resetPart, congrArg Host.Outcome.next (applyReset_due h), rfl, rfl, rfl, fun b => Vector.get_replicate _ _ b,
    rfl, rfl, rfl, fun e => Vector.get_map _ Latch.resetPart e, fun k hk => ?loading, fun k hk => ?validated,
    fun i => Vector.get_replicate _ _ i, rfl, rfl, fun l => Vector.get_replicate _ _ l,
    fun i => Vector.get_map _ Counter.resetPart i, rfl, rfl, rfl⟩
  case loading => rw [resetPart_slot, Slot.resetPart_loading hk]
  case validated => rw [resetPart_slot, Slot.resetPart_validated hk]

/-- An MGA that has taken a RESET_PART takes no request (R170). -/
theorem headRequest_of_resetTaken {s : State} (h : s.mga.resetTaken = true) : s.headRequest = none :=
  if_neg fun hc => Bool.noConfusion (h.symm.trans hc.1)

/-- Settles O44. -/
theorem resetPartTaken : Obligations.ResetPartTaken := fun _ _ h =>
  ⟨_, exec_replied h rfl, rfl, headRequest_of_resetTaken rfl⟩

end Sys2Proof.Machine
end

section
/-! MGMT_REQ_RECEIVE: requests to the node and broadcasts (O22). -/

namespace Sys2Proof.Machine

section
variable {f : Bytes} {s : State}

/-! ### Which requests are for the part (R158, R159, R162) -/

theorem arrivalOf_request {n : BitVec 6} (hk : frameKind f = some 3) (h0 : n ≠ 0) (hd : frameDest f = n.toNat) :
    arrivalOf .c n f = .request := by
  unfold arrivalOf
  rw [hk]
  exact if_pos ⟨h0, hd⟩

/-- No strap value is 255, so that a broadcast is never a request to the node. -/
theorem arrivalOf_broadcast (hk : frameKind f = some 3) (hd : frameDest f = 255) (n : BitVec 6) :
    arrivalOf .c n f = if ¬ frameGood f ∨ requestCode? (framePayload f) = some 1 then .broadcast else .pass := by
  have hnode : ¬ (n ≠ 0 ∧ frameDest f = n.toNat) := by
    rintro ⟨-, h⟩
    have := n.isLt
    omega
  unfold arrivalOf
  rw [hk]
  refine (if_neg hnode).trans ?_
  simp only [hd, true_and]

/-- A good request is an IDENTIFY when it holds a command code and that is 1 (R177). -/
theorem requestCode?_identify_iff (hg : frameGood f = true) :
    requestCode? (framePayload f) = some 1 ↔ 2 ≤ frameLen f ∧ natAt (framePayload f) 0 2 = 1 := by
  simp [requestCode?, framePayload_length hg]

theorem arrivalOf_broadcast_bad (hk : frameKind f = some 3) (hd : frameDest f = 255) (hg : frameGood f = false)
    (n : BitVec 6) : arrivalOf .c n f = .broadcast :=
  (arrivalOf_broadcast hk hd n).trans (if_pos (.inl (Bool.not_eq_true _ ▸ hg)))

theorem arrivalOf_broadcast_identify (hk : frameKind f = some 3) (hd : frameDest f = 255) (hg : frameGood f = true)
    (hlen : 2 ≤ frameLen f) (hcode : natAt (framePayload f) 0 2 = 1) (n : BitVec 6) : arrivalOf .c n f = .broadcast :=
  (arrivalOf_broadcast hk hd n).trans (if_pos (.inr ((requestCode?_identify_iff hg).mpr ⟨hlen, hcode⟩)))

theorem arrivalOf_broadcast_pass (hk : frameKind f = some 3) (hd : frameDest f = 255) (hg : frameGood f = true)
    (h : frameLen f < 2 ∨ natAt (framePayload f) 0 2 ≠ 1) (n : BitVec 6) : arrivalOf .c n f = .pass := by
  refine (arrivalOf_broadcast hk hd n).trans (if_neg ?_)
  rw [requestCode?_identify_iff hg]
  rintro (hbad | ⟨hlen, hcode⟩)
  · exact hbad hg
  · exact h.elim (Nat.not_lt.mpr hlen) (absurd hcode)

/-! ### What becomes of each -/

theorem enqueueRequest_eq (f : Bytes) (s : State) : enqueueRequest f s =
    { s with
      mga := if s.mga.requests.length < 4 then
          { s.mga with requests := s.mga.requests ++ [{ source := frameSource f, payload := framePayload f }] }
        else { s.mga with alarms := s.mga.alarms ||| 0b0001 } } := by
  unfold enqueueRequest
  split <;> rfl

theorem requestArrives_request (h : arrivalOf .c s.lfe.nodeAddr f = .request) :
    requestArrives f s = if frameGood f then enqueueRequest f s else s.frameError := by
  unfold requestArrives
  rw [h]

theorem requestArrives_broadcast (h : arrivalOf .c s.lfe.nodeAddr f = .broadcast) :
    requestArrives f s = if frameGood f then enqueueRequest f (s.sendF f) else s.frameError := by
  unfold requestArrives
  rw [h]

theorem requestArrives_pass (h : arrivalOf .c s.lfe.nodeAddr f = .pass) : requestArrives f s = s := by
  unfold requestArrives
  rw [h]

theorem frameArrives_taken {p : Port} (h : arrivalOf p s.lfe.nodeAddr f ≠ .pass) : frameArrives p f s = s := if_neg h

end

/-- Settles O22: a case for each kind of arrival. -/
theorem requestReceived : Obligations.RequestReceived := by
  refine fun f s hk => ⟨fun h0 hd => ?node, fun hd => ⟨fun hg hlen hcode => ?identify, fun hg h => ?pass, fun hg => ?bad⟩⟩
  case node => exact congrArg Host.Outcome.next (requestArrives_request (arrivalOf_request hk h0 hd))
  case identify =>
    have harr := requestArrives_broadcast (arrivalOf_broadcast_identify hk hd hg hlen hcode s.lfe.nodeAddr)
    exact congrArg Host.Outcome.next ((harr.trans (if_pos hg)).trans (enqueueRequest_eq f _))
  case pass =>
    have harr := arrivalOf_broadcast_pass hk hd hg h s.lfe.nodeAddr
    exact ⟨congrArg Host.Outcome.next (frameArrives_c harr), congrArg Host.Outcome.next (requestArrives_pass harr)⟩
  case bad =>
    have harr := arrivalOf_broadcast_bad hk hd hg s.lfe.nodeAddr
    have htaken : arrivalOf .c s.lfe.nodeAddr f ≠ .pass := by rw [harr]; nofun
    refine ⟨congrArg Host.Outcome.next ((requestArrives_broadcast harr).trans (if_neg ?_)),
      congrArg Host.Outcome.next (frameArrives_taken htaken)⟩
    rw [hg]
    exact Bool.false_ne_true

end Sys2Proof.Machine
end

section
/-! SET_CELL_PARAMS (O27). -/

namespace Sys2Proof.Machine

/-- The ranges of R166. -/
theorem CellParams.inRange_iff (p : CellParams) : p.inRange = true ↔
    2 ≤ p.linkLossTimeout ∧ p.linkLossTimeout ≤ 100 ∧ 1 ≤ p.staleLimit ∧ p.staleLimit ≤ 64
      ∧ p.qualityStopLimit ≤ 15 ∧ 1 ≤ p.demandThreshold ∧ p.demandThreshold ≤ 12
      ∧ 1000 ≤ p.stopTimeout ∧ p.stopTimeout ≤ 120000 ∧ p.statusOffset ≤ 968 := by
  simp only [CellParams.inRange, Bool.and_eq_true, within_iff, Nat.zero_le, true_and, and_assoc]

theorem anyTest_iff (s : State) : s.anyTest = true ↔
    ∃ b : Bay, (s.bay b).ctl.state = .ready ∨ (s.bay b).ctl.state = .running ∨ (s.bay b).ctl.state = .stopping := by
  simp [State.anyTest, State.testing, mem_allBays]

section
variable {args : Bytes} {s : State}

theorem doSetCellParams_out_of_range (h : ¬ (paramsOf args).inRange = true) : doSetCellParams args s = .refuse s .badArg :=
  if_pos (Bool.not_eq_true _ ▸ h)

theorem doSetCellParams_in_range (h : (paramsOf args).inRange = true) : doSetCellParams args s =
    if (paramsOf args).statusOffset ≠ s.mga.params.statusOffset ∧ s.anyTest = true then .refuse s .busy
    else .ok { s with mga := { s.mga with params := paramsOf args } } [] :=
  if_neg (by rw [h]; exact Bool.noConfusion)

end

/-- Settles O27: the ranges are tested first, then the status offset. -/
theorem cellParamsSet : Obligations.CellParamsSet := by
  intro q p s h hp
  obtain rfl : p = paramsOf (reqArgs q.payload) := hp
  split
  · next hbad => exact exec_replied h (doSetCellParams_out_of_range fun hr => hbad ((CellParams.inRange_iff _).mp hr))
  next hok =>
  have hbody := doSetCellParams_in_range (s := s.popRequest) ((CellParams.inRange_iff _).mpr (not_not.mp hok))
  split
  · next hbusy => exact exec_replied h (hbody.trans (if_pos ⟨hbusy.1, (anyTest_iff s).mpr hbusy.2⟩))
  · next hfree => exact exec_replied h (hbody.trans (if_neg fun hc => hfree ⟨hc.1, (anyTest_iff s).mp hc.2⟩))

end Sys2Proof.Machine
end

section
/-! The step and the queue of commands (O1). -/

namespace Sys2Proof.Machine

theorem step_of_pending_nil {s : State} (h : s.pending = []) : step s = .next s := by
  unfold step
  rw [h]

theorem step_of_pending_cons {c : Instr} {rest : List Instr} {s : State} (h : s.pending = c :: rest) :
    step s = exec c { s with pending := rest } := by
  unfold step
  rw [h]

/-- Settles O1: the queue is empty or has a front command, and each case of the step is its equation. -/
theorem stepRunsFrontCommand : Obligations.StepRunsFrontCommand :=
  ⟨fun _ _ _ h => step_of_pending_cons h, fun _ h => step_of_pending_nil h⟩

end Sys2Proof.Machine
end
